-- ==== Sys2Proof/Word.lean ====
section
/-!
DEFINITION. Sys2Proof/Word.lean: bytes, little-endian numbers and bit fields.
Everything the module stores is little-endian (spec/02 R42, spec/06 R146, spec/10 R245); a field is written [msb:lsb]
(spec/00 R13).
-/
namespace Sys2Proof

/-- One byte. -/
abbrev Byte := BitVec 8

/-- The number a little-endian list of bytes spells. -/
def leNat : List Byte → Nat
  | [] => 0
  | b :: bs => b.toNat + 256 * leNat bs

/-- The low `k` bytes of a number, little-endian. -/
def toLE : Nat → Nat → List Byte
  | 0, _ => []
  | k + 1, n => BitVec.ofNat 8 n :: toLE k (n / 256)

/-- Bits `hi` down to `lo` of `x` as an unsigned number (spec/00 R17: x[m:l]). -/
def bits (x hi lo : Nat) : Nat := (x / 2 ^ lo) % 2 ^ (hi + 1 - lo)

/-- Bit `i` of `x`. -/
def bit (x i : Nat) : Bool := (x / 2 ^ i) % 2 == 1

/-- 1 for true, 0 for false. -/
def b2n (b : Bool) : Nat := if b then 1 else 0

/-- The two's-complement reading of the low `w` bits of `x`. -/
def signed (w x : Nat) : Int :=
  let y := x % 2 ^ w
  if 2 * y < 2 ^ w then (y : Int) else (y : Int) - (2 ^ w : Nat)

/-- The low `w` bits of an integer (spec/00 R17: an assignment keeps the bits that fit). -/
def lowBits (w : Nat) (i : Int) : Nat := (i % ((2 ^ w : Nat) : Int)).toNat

/-- Quotient rounded up. -/
def ceilDiv (a b : Nat) : Nat := (a + b - 1) / b

/-- A counter that holds at its largest value. -/
def satAdd (w a k : Nat) : Nat := min (a + k) (2 ^ w - 1)

end Sys2Proof
end

