-- ==== Sys2Proof/Syntax.lean ====
section
/-!
DEFINITION. Sys2Proof/Syntax.lean: the commands of the block, one constructor per row of spec/opcode_table.json, and the
shapes of their operands. A core is named by its global index (spec/00 R5); a transfer, a signal, a queue pair and an RDMA
request by the number the module gave it.
-/
namespace Sys2Proof

/-- The header of a ZCP command frame as it arrived, but for the opcode, which the command's row fixes (spec/15 R365);
`sendLen` is the length of the RoCEv2 SEND that carried the frame. -/
structure CmdHdr where
  sendLen  : Nat
  version  : Nat
  kind     : Nat
  scope    : Nat
  flags    : Nat
  status   : Nat
  length   : Nat
  reserved : Nat
  seq      : Nat
  stamp    : Nat
  /-- Did a packet of the SEND bear the ECN mark of congestion (spec/15 R359)? -/
  ecn      : Bool := false
  deriving DecidableEq, Repr

/-- Symbol errors that the DRAM shows in one 64-byte ECC unit (spec/11 R272): how many symbols are in error, and the bytes a
reader gets where the code does not see the error (four or more symbols). -/
structure EccErr where
  unit    : Nat
  symbols : Nat
  wrong   : List Byte
  deriving DecidableEq, Repr

/-- What befalls the packets of an RDMA request: the symbol errors of the units it touches (spec/11 R272), and the ECN mark of congestion on
one of the packets (spec/15 R359). -/
structure RdmaRx where
  errs : List EccErr
  ecn  : Bool
  deriving DecidableEq, Repr

/-- What a connection request asks for (spec/15 R362, R359): the kind of the queue pair, and its path MTU. -/
structure QpAsk where
  kind : Nat
  mtu  : Nat
  deriving DecidableEq, Repr

/-- A sensor reading in milli-units (spec/18 R433). -/
structure Reading where
  sensor : Nat
  value  : Int
  deriving DecidableEq, Repr

/-- The frames of the network layer a port supports (spec/15 R359). -/
inductive NetFrame where
  | arpRequest (sender target : Nat)
  | arpReply (sender : Nat)
  | neighbourSolicit (sender target : Nat)
  | neighbourAdvert (sender : Nat)
  | routerAdvert (prefix64 : Nat)
  | dhcpAck (address : Nat)
  | echoRequest (sender : Nat) (data : List Byte)
  | echoReply (sender : Nat) (data : List Byte)
  deriving DecidableEq, Repr

/-- What the tag plane of a write to another member needs, for which the body of R398 has no field: the code of the format, and each block
by its first byte of data, its length, and the partition address of its tag byte (spec/11 R269; DESIGN CHOICE, n11). -/
structure TagSide where
  fmt    : Nat
  blocks : List (Nat × Nat × Nat)
  deriving DecidableEq, Repr

/-- A Galed flit as it arrives (spec/16 R394). `fecOk` says that its codeword was correctable, and `corr` how many symbols the FEC
corrected (R393, R400); `side` goes with the first flit of a write with tags, and is none of its 256 bytes. -/
structure Flit where
  vc      : Nat
  cls     : Nat
  ty      : Nat
  sop     : Bool
  eop     : Bool
  fseq    : Nat
  ackseq  : Nat
  crvc    : Nat
  crcls   : Nat
  crcnt   : Nat
  valid   : Nat
  payload : List Byte
  crc     : Nat
  fecOk   : Bool
  corr    : Nat
  side    : Option TagSide := none
  deriving DecidableEq, Repr

/-- The identity a link's far end gives in step 5 of training (spec/16 R399). -/
structure PeerId where
  serial    : List Byte
  link      : Nat
  cascadeId : Nat
  rank      : Nat
  dimX      : Nat
  dimY      : Nat
  dimZ      : Nat
  twinId    : Nat
  deriving DecidableEq, Repr

/-- A cascade packet: its link header and body (spec/16 R398). -/
structure Packet where
  ptype   : Nat
  flags   : Nat
  dstRank : Nat
  srcRank : Nat
  dstCore : Nat
  srcCore : Nat
  ref     : Nat
  body    : List Byte
  side    : Option TagSide := none
  deriving DecidableEq, Repr

/-- The time that a beat carries, in tenths of a nanosecond, and the link it arrives on (spec/16 R411, R413). -/
structure TimeFlit where
  value : Nat
  link  : Nat
  deriving DecidableEq, Repr

/-- A report that a member is lost: its rank, and the stamp of the member that detected it (spec/16 R412, R417). -/
structure LossReport where
  rank  : Nat
  stamp : Nat
  deriving DecidableEq, Repr

/-- A sideband input, with the latest changes of its raw level, the newest first, in nanoseconds since power-on (spec/17 R429). -/
structure RawInput where
  pin     : Nat
  changes : List Nat
  deriving DecidableEq, Repr

/-- The bulk node below 56 V: its voltage in millivolts, and for how many nanoseconds it has been there (spec/19 R461, R464). -/
structure BulkLow where
  millivolts : Int
  held       : Nat
  deriving DecidableEq, Repr

/-- The kit key as the controller reads it at its start, and did the controller start (spec/18 R449, R450)? -/
structure KeyRead where
  code    : Nat
  started : Bool
  deriving DecidableEq, Repr

/-- What ends the bring-up of the hub: is the reference at J1 present, and did the hub fail (spec/18 R449, R450)? -/
structure HubReport where
  refPresent : Bool
  failed     : Bool
  deriving DecidableEq, Repr

/-- A cable in connector G0 to G7 (spec/19 R460): the kind that its identity memory names, 1 passive copper, 2 active electrical or 0
neither, and is its CABLE_PRESENT_N low? -/
structure Cable where
  connector : Nat
  kind      : Nat
  present   : Bool
  deriving DecidableEq, Repr

/-- What ends the training of the Galed links: those that failed three attempts, and the cables. -/
structure LinkReport where
  failed : List Nat
  cables : List Cable
  deriving DecidableEq, Repr

/-- The commands: one constructor per row of spec/opcode_table.json. -/
inductive Instr where
  /-- MATMUL (R181). -/
  | matmul (c : Nat)
  /-- MATVEC (R185). -/
  | matvec (c : Nat)
  /-- ATTEND_MAX_PHASE (R189). -/
  | attendMaxPhase (c : Nat)
  /-- ATTEND_SUM_PHASE (R190). -/
  | attendSumPhase (c : Nat)
  /-- ROWSUM (R195). -/
  | rowsum (c : Nat)
  /-- ROWSQ (R195). -/
  | rowsq (c : Nat)
  /-- STOCK_SEND (R197). -/
  | stockSend (c : Nat)
  /-- STOCK_STORE (R196). -/
  | stockStore (c : Nat)
  /-- STOCK_ADD (R196). -/
  | stockAdd (c : Nat)
  /-- DRAIN (R200). -/
  | drain (c : Nat)
  /-- WHISK (R204). -/
  | whisk (c : Nat)
  /-- LAYOUT (R205). -/
  | layout (c : Nat)
  /-- CONVERT (R207). -/
  | convert (c : Nat)
  /-- RANDOM (R208). -/
  | random (c : Nat)
  /-- TAGFILL (R209). -/
  | tagfill (c : Nat)
  /-- LOAD (R214). -/
  | load (c : Nat)
  /-- STORE (R215). -/
  | store (c : Nat)
  /-- GATHER (R217). -/
  | gather (c : Nat)
  /-- SCATTER (R218). -/
  | scatter (c : Nat)
  /-- SEND (R219). -/
  | send (c : Nat)
  /-- TICKET_CLAIM (R221). -/
  | ticketClaim (c : Nat)
  /-- TICKET_READ (R221). -/
  | ticketRead (c : Nat)
  /-- LOADPROG (R167). -/
  | loadprog (c : Nat)
  /-- WAIT (R224). -/
  | wait (c : Nat)
  /-- SIGNAL_PLAIN (R225). -/
  | signalPlain (c : Nat)
  /-- SIGNAL_OPEN (R298). -/
  | signalOpen (c : Nat)
  /-- SIGNAL_CLOSE (R300). -/
  | signalClose (c : Nat)
  /-- LOOP (R164). -/
  | loop (c : Nat)
  /-- HALT (R226). -/
  | halt (c : Nat)
  /-- ILLEGAL_OP (R158). -/
  | illegalOp (c : Nat)
  /-- WAIT_TIMEOUT (R151). -/
  | waitTimeout (c : Nat)
  /-- OP_COMPLETION_POINT (R153). -/
  | opCompletionPoint (c : Nat)
  /-- HALT_DRAIN_COMPLETE (R304). -/
  | haltDrainComplete (c : Nat)
  /-- CF_HALT_DRAIN (R227). -/
  | cfHaltDrain (c : Nat)
  /-- LG_LATE_COMPLETION (R227). -/
  | lgLateCompletion (c tag : Nat)
  /-- TRANSFER_LAUNCH (R284). -/
  | transferLaunch (c : Nat)
  /-- TRANSFER_ACKNOWLEDGEMENT (R210). -/
  | transferAcknowledgement (x : Nat)
  /-- NEGATIVE_ACKNOWLEDGEMENT (R213). -/
  | negativeAcknowledgement (x : Nat)
  /-- INBOUND_COMMIT (R88). -/
  | inboundCommit (x : Nat)
  /-- REMOTE_WRITE_HEADER (R288). -/
  | remoteWriteHeader (x : Nat)
  /-- MEMORY_WINDOW_WRITE (R292). -/
  | memoryWindowWrite (x : Nat)
  /-- ATTACHED_INCREMENT_FORWARD (R154). -/
  | attachedIncrementForward (x : Nat)
  /-- STOCK_WORD_ROW_ARRIVAL (R198). -/
  | stockWordRowArrival (x : Nat)
  /-- SIGNAL_MESSAGE (R297). -/
  | signalMessage (g : Nat)
  /-- PORT_FIFO_MESSAGE (R313). -/
  | portFifoMessage (x : Nat)
  /-- RING_MESSAGE (R315). -/
  | ringMessage (x : Nat)
  /-- STATIC_SLOT_MISMATCH (R23). -/
  | staticSlotMismatch (x router output input slot : Nat)
  /-- REMOTE_READ (R287). -/
  | remoteRead (x : Nat)
  /-- TICKET_REQUEST (R221). -/
  | ticketRequest (x : Nat)
  /-- STACK_ACCESS (R278). -/
  | stackAccess (x : Nat) (errs : List EccErr)
  /-- REFRESH (R268). -/
  | refresh (stack channel : Nat)
  /-- DISTURB_REFRESH (R268). -/
  | disturbRefresh (stack channel row : Nat)
  /-- PATROL_SCRUB (R275). -/
  | patrolScrub (unit : Nat) (errs : List EccErr)
  /-- REQ_OFF_SET (R277). -/
  | reqOffSet (stack channel : Nat)
  /-- REQ_OFF_CLEAR (R277). -/
  | reqOffClear (stack channel : Nat)
  /-- CHANNEL_CLOSED (R277). -/
  | channelClosed (stack channel : Nat)
  /-- CHANNEL_OPENED (R277). -/
  | channelOpened (stack channel : Nat)
  /-- TOKEN_REFILL (R284). -/
  | tokenRefill
  /-- RUN_START (R97). -/
  | runStart (p : Nat)
  /-- RUN_END (R384). -/
  | runEnd (p : Nat)
  /-- RUN_CLOSE (R305). -/
  | runClose (p : Nat)
  /-- IDENTIFY (R374). -/
  | identify (q : Nat) (h : CmdHdr) (body : List Byte)
  /-- PART_CREATE (R375). -/
  | partCreate (q : Nat) (h : CmdHdr) (body : List Byte)
  /-- PART_DESTROY (R376). -/
  | partDestroy (q : Nat) (h : CmdHdr) (body : List Byte)
  /-- PART_DESTROY_DONE (R376). -/
  | partDestroyDone (p : Nat)
  /-- PART_SET_QUOTA (R377). -/
  | partSetQuota (q : Nat) (h : CmdHdr) (body : List Byte)
  /-- MEM_ALLOC (R378). -/
  | memAlloc (q : Nat) (h : CmdHdr) (body : List Byte)
  /-- MEM_FREE (R379). -/
  | memFree (q : Nat) (h : CmdHdr) (body : List Byte)
  /-- MEM_FREE_DONE (R379). -/
  | memFreeDone (p k : Nat)
  /-- CHAN_POWER (R380). -/
  | chanPower (q : Nat) (h : CmdHdr) (body : List Byte)
  /-- CHAN_POWER_DONE (R380). -/
  | chanPowerDone (stack channel : Nat)
  /-- WINDOW_OPEN (R291). -/
  | windowOpen (q : Nat) (h : CmdHdr) (body : List Byte)
  /-- WINDOW_OPEN_HANDLE (R381). -/
  | windowOpenHandle (q : Nat) (h : CmdHdr) (body : List Byte)
  /-- WINDOW_CLOSE (R294). -/
  | windowClose (q : Nat) (h : CmdHdr) (body : List Byte)
  /-- WINDOW_CLOSE_COMPLETE (R294). -/
  | windowCloseComplete (p w : Nat)
  /-- PROG_LOAD (R383). -/
  | progLoad (q : Nat) (h : CmdHdr) (body : List Byte)
  /-- PROG_LOAD_DONE (R173). -/
  | progLoadDone (p handle : Nat)
  /-- PROG_UNLOAD (R383). -/
  | progUnload (q : Nat) (h : CmdHdr) (body : List Byte)
  /-- RUN (R384). -/
  | run (q : Nat) (h : CmdHdr) (body : List Byte)
  /-- RUN_STATUS (R386). -/
  | runStatus (q : Nat) (h : CmdHdr) (body : List Byte)
  /-- RUN_ABORT (R385). -/
  | runAbort (q : Nat) (h : CmdHdr) (body : List Byte)
  /-- LOG_READ (R387). -/
  | logRead (q : Nat) (h : CmdHdr) (body : List Byte)
  /-- TRACE_READ (R387). -/
  | traceRead (q : Nat) (h : CmdHdr) (body : List Byte)
  /-- SENSOR_READ (R388). -/
  | sensorRead (q : Nat) (h : CmdHdr) (body : List Byte)
  /-- FENCE_QUERY (R389). -/
  | fenceQuery (q : Nat) (h : CmdHdr) (body : List Byte)
  /-- UNFENCE (R426). -/
  | unfence (q : Nat) (h : CmdHdr) (body : List Byte)
  /-- RETURN_PROCEDURE_DONE (R426). -/
  | returnProcedureDone (domain index : Nat) (pass : Bool)
  /-- POWER_LIMIT_SET (R355). -/
  | powerLimitSet (q : Nat) (h : CmdHdr) (body : List Byte)
  /-- STEP_CAP_SET (R356). -/
  | stepCapSet (q : Nat) (h : CmdHdr) (body : List Byte)
  /-- CASCADE_JOIN (R403). -/
  | cascadeJoin (q : Nat) (h : CmdHdr) (body : List Byte)
  /-- CASCADE_COMPLETE (R403). -/
  | cascadeComplete
  /-- CASCADE_JOIN_TIMEOUT (R403). -/
  | cascadeJoinTimeout
  /-- CASCADE_LEAVE (R409). -/
  | cascadeLeave (q : Nat) (h : CmdHdr) (body : List Byte)
  /-- ATTEST (R439). -/
  | attest (q : Nat) (h : CmdHdr) (body : List Byte)
  /-- FW_STAGE (R391). -/
  | fwStage (q : Nat) (h : CmdHdr) (body : List Byte)
  /-- FW_STAGE_RESTART (R391). -/
  | fwStageRestart (q : Nat) (h : CmdHdr) (body : List Byte)
  /-- FW_STAGE_LAST (R445). -/
  | fwStageLast (q : Nat) (h : CmdHdr) (body : List Byte)
  /-- FW_DELTA_VERIFIED (R445). -/
  | fwDeltaVerified
  /-- FW_ACTIVATE (R446). -/
  | fwActivate (q : Nat) (h : CmdHdr) (body : List Byte)
  /-- FW_ACTIVATE_FAILBACK (R446). -/
  | fwActivateFailback
  /-- ZE_UNKNOWN_CMD (R366). -/
  | zeUnknownCmd (q opcode : Nat) (h : CmdHdr) (body : List Byte)
  /-- QP_CONNECT_REQUEST (R362). -/
  | qpConnectRequest (port scope : Nat) (kind : QpAsk)
  /-- RDMA_WRITE (R364). -/
  | rdmaWrite (q va rkey : Nat) (data : List Byte) (errs : RdmaRx)
  /-- RDMA_WRITE_ACK (R364). -/
  | rdmaWriteAck (r : Nat)
  /-- RDMA_READ (R364). -/
  | rdmaRead (q va rkey len : Nat) (errs : RdmaRx)
  /-- UNSUPPORTED_FRAME (R359). -/
  | unsupportedFrame (port : Nat)
  /-- PCS_LOCK_LOST (R424). -/
  | pcsLockLost (port : Nat)
  /-- LG_PORT_DOWN (R424). -/
  | lgPortDown (port : Nat)
  /-- PCS_RELOCK (R425). -/
  | pcsRelock (port : Nat)
  /-- ERROR_RECORD_ARRIVAL (R422). -/
  | errorRecordArrival (n : Nat)
  /-- ERROR_RECORD_HANDLING (R421). -/
  | errorRecordHandling
  /-- PERSISTENCE_CHECK_END (R425). -/
  | persistenceCheckEnd (stack channel : Nat)
  /-- LG_LOG_LOST (R427). -/
  | lgLogLost
  /-- CORE_ERROR (R424). -/
  | coreError (c struct addr : Nat)
  /-- BRIDGE_SLIP (R99). -/
  | bridgeSlip (die boundary plane column : Nat)
  /-- FIRMWARE_STEP_EVALUATION (R340). -/
  | firmwareStepEvaluation (readings : List Reading) (margins : List (Nat × Nat)) (fit : Nat)
  /-- GLIDE_STEP (R341). -/
  | glideStep
  /-- MARGIN_WARN (R345). -/
  | marginWarn (region margin : Nat)
  /-- MARGIN_ALARM (R345). -/
  | marginAlarm (region margin : Nat)
  /-- ALARM_HOLD_EXPIRY (R345). -/
  | alarmHoldExpiry
  /-- LG_REGION_FAIL (R345). -/
  | lgRegionFail (region margin : Nat)
  /-- POWER_GUARD (R353). -/
  | powerGuard (milliwatts : Nat)
  /-- THERMAL_TRIP (R354). -/
  | thermalTrip (sensor : Nat) (milliC : Int)
  /-- LG_OVERTEMP (R354). -/
  | lgOvertemp (sensor : Nat) (milliC : Int)
  /-- REPLICA_THRESHOLD_WRITE (R344). -/
  | replicaThresholdWrite (region warn alarm : Nat)
  /-- TIME_STEP (R349). -/
  | timeStep (delta : Int)
  /-- TIME_SLEW (R349). -/
  | timeSlew (offset : Int)
  /-- PPS_EDGE (R469). -/
  | ppsEdge (width : Nat)
  /-- LG_REF_LOST (R350). -/
  | lgRefLost
  /-- REFERENCE_RESTORED (R350). -/
  | referenceRestored
  /-- RST_N_ASSERT (R429). -/
  | rstNAssert
  /-- RST_N_RELEASE (R429). -/
  | rstNRelease
  /-- LG_RESET_HELD (R429). -/
  | lgResetHeld
  /-- THROTTLE_N_ASSERT (R357). -/
  | throttleNAssert
  /-- THROTTLE_N_RELEASE (R357). -/
  | throttleNRelease
  /-- LG_THROTTLE (R357). -/
  | lgThrottle
  /-- PRESENT_N_CHANGE (R429). -/
  | presentNChange (level : Bool)
  /-- SIDEBAND_CHATTER_ENTRY (R429). -/
  | sidebandChatterEntry (input : RawInput)
  /-- SIDEBAND_CHATTER_EXIT (R429). -/
  | sidebandChatterExit (input : RawInput) (level : Bool)
  /-- LG_SIDEBAND_CHATTER (R429). -/
  | lgSidebandChatter (input : Nat)
  /-- KEY_CHANGE (R466). -/
  | keyChange (key : Nat)
  /-- KIT_RECORD_READ (R438). -/
  | kitRecordRead (kind serial : Nat)
  /-- LG_COOLING_LOST (R352). -/
  | lgCoolingLost (sensor : Nat)
  /-- LG_KIT_MISMATCH (R352). -/
  | lgKitMismatch
  /-- COOLING_RESTORED (R352). -/
  | coolingRestored
  /-- INPUT_VALID (R449). -/
  | inputValid (millivolts : Int)
  /-- BULK_UNDERVOLTAGE (R461). -/
  | bulkUndervoltage (millivolts : BulkLow)
  /-- INPUT_OVERVOLTAGE (R461). -/
  | inputOvervoltage (millivolts : Int)
  /-- INPUT_THRESHOLD_CROSSING (R437). -/
  | inputThresholdCrossing (millivolts : Int)
  /-- INPUT_BREAKER (R464). -/
  | inputBreaker (milliamps : Nat)
  /-- BOOT_ROM (R441). -/
  | bootRom (slotId : Nat)
  /-- CONTROLLER_READY (R449). -/
  | controllerReady (readings : List Reading) (key : KeyRead) (kind serial : Nat)
  /-- HUB_UP (R449). -/
  | hubUp (refPresent : HubReport)
  /-- BUILT_IN_TEST_DONE (R450). -/
  | builtInTestDone (cores regions dies : List Nat)
  /-- STACK_TRAINING_DONE (R449). -/
  | stackTrainingDone (failed : List Nat)
  /-- LINK_TRAINING_DONE (R449). -/
  | linkTrainingDone (failed : LinkReport)
  /-- PORT_TRAINING_DONE (R449). -/
  | portTrainingDone (failed : List Nat)
  /-- MODULE_READY (R449). -/
  | moduleReady
  /-- LOCKSTEP_MISMATCH (R430). -/
  | lockstepMismatch
  /-- LG_MGT_RESTART (R430). -/
  | lgMgtRestart (microseconds : Nat)
  /-- PAGE (R436). -/
  | page (write : Option Nat) (pecOk : Bool)
  /-- CLEAR_FAULTS (R437). -/
  | clearFaults (pecOk : Bool)
  /-- CAPABILITY (R436). -/
  | capability (pecOk : Bool)
  /-- STATUS_BYTE (R436). -/
  | statusByte (pecOk : Bool)
  /-- STATUS_WORD (R437). -/
  | statusWord (pecOk : Bool)
  /-- STATUS_INPUT (R437). -/
  | statusInput (pecOk : Bool)
  /-- STATUS_TEMPERATURE (R437). -/
  | statusTemperature (pecOk : Bool)
  /-- STATUS_CML (R436). -/
  | statusCml (pecOk : Bool)
  /-- STATUS_MFR_SPECIFIC (R437). -/
  | statusMfrSpecific (pecOk : Bool)
  /-- READ_VIN (R436). -/
  | readVin (pecOk : Bool)
  /-- READ_IIN (R436). -/
  | readIin (pecOk : Bool)
  /-- READ_TEMPERATURE_1 (R436). -/
  | readTemperature1 (pecOk : Bool)
  /-- READ_TEMPERATURE_2 (R436). -/
  | readTemperature2 (pecOk : Bool)
  /-- READ_TEMPERATURE_3 (R436). -/
  | readTemperature3 (pecOk : Bool)
  /-- READ_PIN (R436). -/
  | readPin (pecOk : Bool)
  /-- PMBUS_REVISION (R436). -/
  | pmbusRevision (pecOk : Bool)
  /-- MFR_ID (R436). -/
  | mfrId (pecOk : Bool)
  /-- MFR_MODEL (R436). -/
  | mfrModel (pecOk : Bool)
  /-- MFR_REVISION (R436). -/
  | mfrRevision (pecOk : Bool)
  /-- MFR_SERIAL (R436). -/
  | mfrSerial (pecOk : Bool)
  /-- MFR_MODULE_STATE (R436). -/
  | mfrModuleState (pecOk : Bool)
  /-- PMBUS_UNSUPPORTED_COMMAND (R436). -/
  | pmbusUnsupportedCommand (code : Nat) (pecOk : Bool)
  /-- ALERT_RESPONSE (R435). -/
  | alertResponse
  /-- MICRO_MODE_ENTER (R231). -/
  | microModeEnter (c : Nat) (priv : Bool) (entry : Nat)
  /-- MICRO_MODE_EXIT (R234). -/
  | microModeExit (c : Nat)
  /-- GO (R230). -/
  | go (c : Nat) (priv : Bool) (entry : Nat)
  /-- ABORT (R232). -/
  | abort (c : Nat)
  /-- MICRO_TIME_LIMIT (R232). -/
  | microTimeLimit (c : Nat)
  /-- ADD (R238). -/
  | add (c : Nat)
  /-- SUB (R238). -/
  | sub (c : Nat)
  /-- AND (R238). -/
  | and (c : Nat)
  /-- OR (R238). -/
  | or (c : Nat)
  /-- XOR (R238). -/
  | xor (c : Nat)
  /-- SHL (R238). -/
  | shl (c : Nat)
  /-- SHR (R238). -/
  | shr (c : Nat)
  /-- SAR (R238). -/
  | sar (c : Nat)
  /-- MUL (R238). -/
  | mul (c : Nat)
  /-- MULHU (R238). -/
  | mulhu (c : Nat)
  /-- SLT (R238). -/
  | slt (c : Nat)
  /-- SLTU (R238). -/
  | sltu (c : Nat)
  /-- ADDI (R238). -/
  | addi (c : Nat)
  /-- ANDI (R238). -/
  | andi (c : Nat)
  /-- ORI (R238). -/
  | ori (c : Nat)
  /-- XORI (R238). -/
  | xori (c : Nat)
  /-- SHLI (R238). -/
  | shli (c : Nat)
  /-- SHRI (R238). -/
  | shri (c : Nat)
  /-- LUI (R238). -/
  | lui (c : Nat)
  /-- LD (R238). -/
  | ld (c : Nat)
  /-- LW (R238). -/
  | lw (c : Nat)
  /-- SD (R238). -/
  | sd (c : Nat)
  /-- SW (R238). -/
  | sw (c : Nat)
  /-- BEQ (R238). -/
  | beq (c : Nat)
  /-- BNE (R238). -/
  | bne (c : Nat)
  /-- BLT (R238). -/
  | blt (c : Nat)
  /-- BLTU (R238). -/
  | bltu (c : Nat)
  /-- JAL (R238). -/
  | jal (c : Nat)
  /-- JR (R238). -/
  | jr (c : Nat)
  /-- MSYS (R238). -/
  | msys (c : Nat)
  /-- MHALT (R232). -/
  | mhalt (c : Nat)
  /-- VLD (R239). -/
  | vld (c : Nat)
  /-- VST (R239). -/
  | vst (c : Nat)
  /-- VOP (R239). -/
  | vop (c : Nat)
  /-- VEXT (R239). -/
  | vext (c : Nat)
  /-- VINS (R239). -/
  | vins (c : Nat)
  /-- MOPEN (R240). -/
  | mopen (c : Nat)
  /-- MWLD (R240). -/
  | mwld (c : Nat)
  /-- MSWAP (R240). -/
  | mswap (c : Nat)
  /-- MROW (R240). -/
  | mrow (c : Nat)
  /-- MRD (R240). -/
  | mrd (c : Nat)
  /-- MRDX (R240). -/
  | mrdx (c : Nat)
  /-- ILLEGAL_INSTRUCTION (R241). -/
  | illegalInstruction (c : Nat)
  /-- DATA_FLIT (R395). -/
  | dataFlit (l : Nat) (f : Flit)
  /-- IDLE_FLIT (R394). -/
  | idleFlit (l : Nat) (f : Flit)
  /-- REPLAY_REQUEST (R395). -/
  | replayRequest (l : Nat) (f : Flit)
  /-- FEC_LOCK_LOST (R401). -/
  | fecLockLost (l : Nat)
  /-- FLIT_TIMEOUT (R401). -/
  | flitTimeout (l : Nat)
  /-- LINK_TRAIN_STEP (R399). -/
  | linkTrainStep (l : Nat) (peer : PeerId)
  /-- LINK_TRAIN_OVERRUN (R399). -/
  | linkTrainOverrun (l : Nat)
  /-- CASCADE_PACKET (R408). -/
  | cascadePacket (l : Nat) (k : Packet)
  /-- MASTER_BEAT (R411). -/
  | masterBeat
  /-- BEAT_ARRIVAL (R411). -/
  | beatArrival (rank : Nat) (stamp : TimeFlit) (succession : List Nat) (offset : Int)
  /-- BEAT_TIMEOUT (R411). -/
  | beatTimeout
  /-- NEIGHBOUR_LOST (R412). -/
  | neighbourLost (direction : Nat)
  /-- MEMBER_LOSS_REPORT (R412). -/
  | memberLossReport (rank : LossReport)
  /-- TWIN_DIGEST_SEND (R415). -/
  | twinDigestSend (p : Nat)
  /-- TWIN_DIGEST_ARRIVAL (R416). -/
  | twinDigestArrival (ordinal outcome : Nat) (digests : List (List Byte))
  /-- TWIN_PARTNER_TIMEOUT (R416). -/
  | twinPartnerTimeout
  /-- REGISTER_WRITE (R16). -/
  | registerWrite (addr value : Nat)
  /-- THERMAL_TRIP_CLEAR (R354). -/
  | thermalTripClear (readings : List Reading)
  /-- FW_ACTIVATE_DONE (R446). -/
  | fwActivateDone
  /-- DREQ (R370). -/
  | dreq (q : Nat)
  /-- CONGESTION_NOTIFICATION_PACKET (R359). -/
  | congestionNotificationPacket (port : Nat)
  /-- NETWORK_LAYER_FRAME (R359). -/
  | networkLayerFrame (port : Nat) (f : NetFrame)
  deriving DecidableEq, Repr

end Sys2Proof
end

