-- ==== Sys2Proof/Decode.lean ====
section
/-!
DEFINITION. Sys2Proof/Decode.lean: the command that a word of the opcode table spells. The table gives no row any bits, so no word
spells one.
-/
namespace Sys2Proof

/-- No row of spec/opcode_table.json has an encoding of its own: a command is put into the queue as it stands. -/
def decodeTableWord (_nbits _w : Nat) : Option Instr := none

end Sys2Proof
end

