-- ==== Sys2Proof/Machine/Number.lean ====
section
/-!
DEFINITION. Sys2Proof/Machine/Number.lean: number formats, rounding, tags, products and exact sums (spec/02 R42 to R77).
-/
namespace Sys2Proof.Machine

/-- The storage formats of spec/02 R42. -/
inductive Fmt where
  | fp32 | bf16 | fp16 | e5m2 | e4m3 | fp4 | int8 | int4 | int32
  deriving DecidableEq, Repr

/-- The format codes of spec/10 R246; all others are reserved. -/
def Fmt.ofCode : Nat → Option Fmt
  | 0 => some .fp32 | 1 => some .bf16 | 2 => some .fp16 | 3 => some .e5m2 | 4 => some .e4m3 | 5 => some .fp4
  | 8 => some .int8 | 9 => some .int4 | 10 => some .int32 | _ => none

/-- The code of a format (R246). -/
def Fmt.code : Fmt → Nat
  | .fp32 => 0 | .bf16 => 1 | .fp16 => 2 | .e5m2 => 3 | .e4m3 => 4 | .fp4 => 5 | .int8 => 8 | .int4 => 9 | .int32 => 10

/-- Width in bits (R42). -/
def Fmt.width : Fmt → Nat
  | .fp32 => 32 | .bf16 => 16 | .fp16 => 16 | .e5m2 => 8 | .e4m3 => 8 | .fp4 => 4 | .int8 => 8 | .int4 => 4 | .int32 => 32

/-- Is the format an integer format? -/
def Fmt.isInt : Fmt → Bool
  | .int8 | .int4 | .int32 => true
  | _ => false

/-- Significand bits with the hidden bit (R43); 2 for FP4 and 32 for an integer (spec/07 R200). -/
def Fmt.p : Fmt → Nat
  | .fp32 => 24 | .bf16 => 8 | .fp16 => 11 | .e5m2 => 3 | .e4m3 => 4 | .fp4 => 2 | _ => 32

/-- Exponent bias (R42). -/
def Fmt.bias : Fmt → Nat
  | .fp32 => 127 | .bf16 => 127 | .fp16 => 15 | .e5m2 => 15 | .e4m3 => 7 | _ => 0

/-- Unbiased exponent of the smallest normal binade (R43). -/
def Fmt.emin : Fmt → Int
  | .fp32 => -126 | .bf16 => -126 | .fp16 => -14 | .e5m2 => -14 | .e4m3 => -6 | _ => 0

/-- Unbiased exponent of the largest normal binade (R43). -/
def Fmt.emax : Fmt → Int
  | .fp32 => 127 | .bf16 => 127 | .fp16 => 15 | .e5m2 => 15 | .e4m3 => 8 | _ => 0

/-- Bits of the exponent field (R42). -/
def Fmt.ebits : Fmt → Nat
  | .fp32 => 8 | .bf16 => 8 | .fp16 => 5 | .e5m2 => 5 | .e4m3 => 4 | .fp4 => 2 | _ => 0

/-- Bits of the fraction field (R42). -/
def Fmt.fbits (f : Fmt) : Nat := f.p - 1

/-- May the format be an operand of the array and the MVU (R42)? -/
def Fmt.arrayOperand : Fmt → Bool
  | .int32 => false
  | _ => true

/-- May a tensor of the format carry block scales (R47, spec/10 R249)? -/
def Fmt.scalable : Fmt → Bool
  | .e5m2 | .e4m3 | .fp4 => true
  | _ => false

/-- Is the format of the fused-off array modes of the TX-768 (spec/00 R4)? -/
def Fmt.fusedOn768 : Fmt → Bool
  | .fp32 | .bf16 | .fp16 => true
  | _ => false

/-- The three rounding modes (R49). -/
inductive Rnd where
  | rne | rtz | rto
  deriving DecidableEq, Repr

/-- The RMODE field: 0 RNE, 1 RTZ, 2 RTO (spec/07 R199, spec/08 R204). -/
def Rnd.ofCode : Nat → Option Rnd
  | 0 => some .rne | 1 => some .rtz | 2 => some .rto | _ => none

/-- The classes of R50 and R59. -/
inductive Cls where
  | finite | posInf | negInf | nan
  deriving DecidableEq, Repr

/-- The 2-bit code of a class (R59). -/
def Cls.code : Cls → Nat
  | .finite => 0 | .posInf => 1 | .negInf => 2 | .nan => 3

/-- A decoded value: a class, a sign and `m * 2^e` (R50). -/
structure Dec where
  cls : Cls
  neg : Bool
  m   : Nat
  e   : Int
  deriving DecidableEq, Repr

/-- Positive zero. -/
def Dec.zero : Dec := ⟨.finite, false, 0, 0⟩
/-- A NaN. -/
def Dec.nan : Dec := ⟨.nan, false, 0, 0⟩
/-- An infinity of the given sign. -/
def Dec.inf (neg : Bool) : Dec := ⟨if neg then .negInf else .posInf, neg, 0, 0⟩
/-- Is the value an infinity? -/
def Dec.isInf (d : Dec) : Bool := d.cls = .posInf || d.cls = .negInf
/-- Is the value a finite zero? -/
def Dec.isZero (d : Dec) : Bool := d.cls = .finite && d.m == 0

/-- The sticky bits of CORE_ARITH_STATUS (R55). -/
structure Arith where
  flushIn  : Bool := false
  flushOut : Bool := false
  overflow : Bool := false
  nanGen   : Bool := false
  nanZero  : Bool := false
  deriving DecidableEq, Repr

/-- No bit set. -/
def Arith.none : Arith := {}

/-- The OR of two statuses. -/
def Arith.or (a b : Arith) : Arith :=
  ⟨a.flushIn || b.flushIn, a.flushOut || b.flushOut, a.overflow || b.overflow, a.nanGen || b.nanGen, a.nanZero || b.nanZero⟩

/-- The register's bits (R55). -/
def Arith.toNat (a : Arith) : Nat :=
  b2n a.flushIn + 2 * b2n a.flushOut + 4 * b2n a.overflow + 8 * b2n a.nanGen + 16 * b2n a.nanZero

/-- The bits a W1C write of `w` leaves (R16, R55). -/
def Arith.w1c (a : Arith) (w : Nat) : Arith :=
  ⟨a.flushIn && !bit w 0, a.flushOut && !bit w 1, a.overflow && !bit w 2, a.nanGen && !bit w 3, a.nanZero && !bit w 4⟩

/-- The least n with m < 2^n (R50). -/
def bitlen (m : Nat) : Nat := if m = 0 then 0 else Nat.log2 m + 1

/-- m and e of an FP4 magnitude code (R45). -/
def fp4ME : Nat → Nat × Int
  | 0 => (0, 0) | 1 => (1, -1) | 2 => (1, 0) | 3 => (3, -1) | 4 => (1, 1) | 5 => (3, 0) | 6 => (1, 2) | _ => (3, 1)

/-- Twice the magnitude of an FP4 code (R45). -/
def fp4Twice : Nat → Nat
  | 0 => 0 | 1 => 1 | 2 => 2 | 3 => 3 | 4 => 4 | 5 => 6 | 6 => 8 | _ => 12

/-- decode of R50; the second component is FLUSH_IN. -/
def decodeF (f : Fmt) (x0 : Nat) : Dec × Bool :=
  let x := x0 % 2 ^ f.width
  if f.isInt then
    let v := signed f.width x
    (⟨.finite, decide (v < 0), v.natAbs, 0⟩, false)
  else
    let s := bit x (f.width - 1)
    if f = .fp4 then
      let me := fp4ME (x % 8)
      (⟨.finite, s, me.1, me.2⟩, false)
    else
      let e := bits x (f.width - 2) f.fbits
      let fr := x % 2 ^ f.fbits
      let ones := 2 ^ f.ebits - 1
      if f = .e4m3 && e == 15 && fr == 7 then (Dec.nan, false)
      else if f ≠ .e4m3 ∧ e = ones then (if fr ≠ 0 then Dec.nan else Dec.inf s, false)
      else if e = 0 then (⟨.finite, s, 0, 0⟩, decide (fr ≠ 0))
      else (⟨.finite, s, 2 ^ f.fbits + fr, (e : Int) - f.bias - f.fbits⟩, false)

/-- The decoded value of R50. -/
def decode (f : Fmt) (x : Nat) : Dec := (decodeF f x).1

/-- round_shift of R50: m / 2^sh to an integer. -/
def roundShift (m : Nat) (sh : Int) (mode : Rnd) : Nat :=
  if sh ≤ 0 then m * 2 ^ (-sh).toNat
  else
    let n := sh.toNat
    let q := m / 2 ^ n
    let r := m % 2 ^ n
    let h := 2 ^ (n - 1)
    match mode with
    | .rne => if r > h ∨ (r = h ∧ q % 2 = 1) then q + 1 else q
    | .rtz => q
    | .rto => if r ≠ 0 ∧ q % 2 = 0 then q + 1 else q

/-- The code of the canonical NaN, or 0 where the format has none (R46). -/
def Fmt.nanCode : Fmt → Nat
  | .fp32 => 0x7FC00000 | .bf16 => 0x7FC0 | .fp16 => 0x7E00 | .e5m2 => 0x7E | .e4m3 => 0x7F | _ => 0

/-- Has the format a NaN (R46)? -/
def Fmt.hasNan : Fmt → Bool
  | .fp32 | .bf16 | .fp16 | .e5m2 | .e4m3 => true
  | _ => false

/-- The sign bit in place. -/
def Fmt.signBit (f : Fmt) (neg : Bool) : Nat := if neg then 2 ^ (f.width - 1) else 0

/-- The magnitude code of the largest finite value (R43, R46). -/
def Fmt.maxCode : Fmt → Nat
  | .fp32 => 0x7F7FFFFF | .bf16 => 0x7F7F | .fp16 => 0x7BFF | .e5m2 => 0x7B | .e4m3 => 0x7E | .fp4 => 7
  | .int8 => 0x7F | .int4 => 7 | .int32 => 0x7FFFFFFF

/-- The magnitude code of infinity (R46), where there is one. -/
def Fmt.infCode : Fmt → Option Nat
  | .fp32 => some 0x7F800000 | .bf16 => some 0x7F80 | .fp16 => some 0x7C00 | .e5m2 => some 0x7C | _ => none

/-- The saturated value of a sign: most positive or most negative for an integer, else the largest finite (R46). -/
def Fmt.satCode (f : Fmt) (neg : Bool) : Nat :=
  if f.isInt then (if neg then 2 ^ (f.width - 1) else f.maxCode) else f.signBit neg + f.maxCode

/-- A special value written into a format (R46). -/
def encodeSpecial (f : Fmt) (cls : Cls) : Nat × Arith :=
  match cls with
  | .nan => (f.nanCode, { nanZero := !f.hasNan })
  | _ =>
    let neg := decide (cls = .negInf)
    match f.infCode with
    | some c => (f.signBit neg + c, {})
    | none => (f.satCode neg, { overflow := true })

/-- A finite overflow (R46): to infinity only for FP32, BF16 and FP16 under RNE. -/
def encodeOverflow (f : Fmt) (neg : Bool) (mode : Rnd) : Nat × Arith :=
  let toInf := decide (mode = .rne) && (f = .fp32 || f = .bf16 || f = .fp16)
  match toInf, f.infCode with
  | true, some c => (f.signBit neg + c, { overflow := true })
  | _, _ => (f.satCode neg, { overflow := true })

/-- round_int of R53. -/
def roundInt (n : Nat) (neg : Bool) (m : Nat) (e : Int) (mode : Rnd) : Nat × Arith :=
  let q := roundShift m (-e) mode
  if neg then
    if q ≤ 2 ^ (n - 1) then ((2 ^ n - q) % 2 ^ n, {}) else (2 ^ (n - 1), { overflow := true })
  else
    if q < 2 ^ (n - 1) then (q, {}) else (2 ^ (n - 1) - 1, { overflow := true })

/-- The FP4 code j with c_j ≤ v < c_{j+1}, where twice v is num / den (R52); `j` counts down. -/
def fp4Floor (num den : Nat) : Nat → Nat
  | 0 => 0
  | j + 1 => if fp4Twice (j + 1) * den ≤ num then j + 1 else fp4Floor num den j

/-- round_fp4 of R52. -/
def roundFp4 (neg : Bool) (m : Nat) (e : Int) (mode : Rnd) : Nat × Arith :=
  let num := m * 2 ^ (e + 1).toNat
  let den := 2 ^ (-(e + 1)).toNat
  let sg := Fmt.signBit .fp4 neg
  if 12 * den ≤ num then (sg + 7, { overflow := decide (12 * den < num) })
  else
    let j := fp4Floor num den 6
    let lo := fp4Twice j * den
    let hi := fp4Twice (j + 1) * den
    if num = lo then (sg + j, {})
    else match mode with
      | .rtz => (sg + j, {})
      | .rto => (sg + (if j % 2 = 1 then j else j + 1), {})
      | .rne =>
        let a := num - lo
        let b := hi - num
        (sg + (if a < b then j else if b < a then j + 1 else if j % 2 = 0 then j else j + 1), {})

/-- encode of R50: the bits of a value rounded once into a format, and the status bits it sets. -/
def encode (f : Fmt) (d : Dec) (mode : Rnd) : Nat × Arith :=
  if d.cls ≠ .finite then encodeSpecial f d.cls
  else if f.isInt then roundInt f.width d.neg d.m d.e mode
  else if f = .fp4 then roundFp4 d.neg d.m d.e mode
  else if d.m = 0 then (f.signBit d.neg, {})
  else
    let sh : Int := (bitlen d.m : Int) - f.p
    let q0 := roundShift d.m sh mode
    let k0 := d.e + sh
    let carry := decide (q0 = 2 ^ f.p)
    let q := if carry then q0 / 2 else q0
    let k := if carry then k0 + 1 else k0
    let x := k + f.p - 1
    if x < f.emin then (f.signBit d.neg, { flushOut := true })
    else if x > f.emax ∨ (f = .e4m3 ∧ x = 8 ∧ q > 14) then encodeOverflow f d.neg mode
    else (f.signBit d.neg + (x + f.bias).toNat * 2 ^ f.fbits + (q - 2 ^ f.fbits), {})

/-- decode with FLUSH_IN as a status. -/
def decodeA (f : Fmt) (x : Nat) : Dec × Arith := ((decodeF f x).1, { flushIn := (decodeF f x).2 })

/-- A value times 2^k. -/
def Dec.scale (d : Dec) (k : Int) : Dec := if d.cls = .finite then { d with e := d.e + k } else d

/-- An element under its block-scale byte (R47, spec/05 R132). 0xFF makes it NaN: such an element is not read as zero,
so a subnormal code then sets no FLUSH_IN (R55). -/
def underScale (r : Dec × Arith) (x : Nat) : Dec × Arith :=
  if x = 255 then (Dec.nan, Arith.none) else (r.1.scale ((x : Int) - 127), r.2)

/-- A conversion of R50: one rounding. Identical formats pass the bits, but for the flush and the NaN (spec/05 R130). -/
def convertElem (src dst : Fmt) (x : Nat) (mode : Rnd) : Nat × Arith :=
  let d := decodeA src x
  let r := encode dst d.1 mode
  (r.1, d.2.or r.2)

/-- The tag of an element (R57). -/
def elemTag (f : Fmt) (x0 : Nat) : Nat :=
  let x := x0 % 2 ^ f.width
  if f.isInt then bitlen (signed f.width x).natAbs
  else if f = .fp4 then
    (match x % 8 with | 0 => 0 | 1 => 1 | 2 => 2 | 3 => 2 | 4 => 3 | 5 => 3 | _ => 4)
  else bits x (f.width - 2) f.fbits

/-- The tag of a block (R57). -/
def blockTag (f : Fmt) (xs : List Nat) : Nat := xs.foldl (fun t x => max t (elemTag f x)) 0

/-- Floor of the base-2 logarithm of a non-zero magnitude. -/
def Dec.floorLog (d : Dec) : Int := (bitlen d.m : Int) - 1 + d.e

/-- E^f of R54. -/
def Fmt.scaleEmax : Fmt → Int
  | .e4m3 => 8 | .e5m2 => 15 | _ => 2

/-- The scale byte of a block (R54). -/
def blockScale (f : Fmt) (ds : List Dec) : Nat :=
  if ds.any (fun d => d.cls = .nan) then 255
  else
    let logs := (ds.filter fun d => d.cls = .finite && d.m != 0).map Dec.floorLog
    match logs with
    | [] => if ds.any Dec.isInf then 254 else 0
    | l :: ls =>
      let a := ls.foldl max l
      (min 254 (max 0 (127 + a - f.scaleEmax))).toNat

/-- One element of a block written under the block's scale byte (R54): 0 throughout a NaN block, with no status bit. -/
def encodeScaled (f : Fmt) (x : Nat) (d : Dec) (mode : Rnd) : Nat × Arith :=
  if x = 255 then (0, {}) else encode f (d.scale (127 - (x : Int))) mode

/-- The exact product of two operands (R60), with the sum of their block-scale exponents; the flag is NAN_GEN. -/
def product (a b : Dec) (sc : Int) : Dec × Bool :=
  if a.cls = .nan ∨ b.cls = .nan then (Dec.nan, false)
  else if (a.isInf && b.isZero) || (b.isInf && a.isZero) then (Dec.nan, true)
  else if a.isInf || b.isInf then (Dec.inf (a.neg != b.neg), false)
  else (⟨.finite, a.neg != b.neg, a.m * b.m, a.e + b.e + sc⟩, false)

/-- merge of R66. -/
def mergeCls (a b : Cls) : Cls :=
  if a = .finite then b else if b = .finite ∨ b = a then a else .nan

/-- The accumulation modes of R61, coded 0 to 2 (spec/04 R113). -/
inductive AccMode where
  | exact | scaled | anchored
  deriving DecidableEq, Repr

/-- The code of a mode (R113). -/
def AccMode.code : AccMode → Nat
  | .exact => 0 | .scaled => 1 | .anchored => 2

/-- The mode of a code (R113, R196). -/
def AccMode.ofCode : Nat → Option AccMode
  | 0 => some .exact | 1 => some .scaled | 2 => some .anchored | _ => none

/-- The mode an operand format accumulates in (R61); INT32 is no operand. -/
def accModeOf (f : Fmt) (scaled : Bool) : AccMode :=
  if f.fusedOn768 then .anchored else if scaled then .scaled else .exact

/-- L in exact mode (R61). -/
def exactL : Fmt → Int
  | .e4m3 => -18 | .e5m2 => -32 | .fp4 => -2 | _ => 0

/-- P^f of R61. -/
def scaledP : Fmt → Int
  | .e4m3 => 18 | .e5m2 => 32 | _ => 6

/-- L from the scale maximum Sb (R61). -/
def scaledL (f : Fmt) (sb : Int) : Int := sb + scaledP f - 95

/-- L from the anchor α (R61). -/
def anchoredL (f : Fmt) (alpha : Int) : Int := if f = .fp16 then alpha - 134 else alpha - 358

/-- The term limit of R61. -/
def termLimit (m : AccMode) : Nat := if m = .anchored then 2 ^ 22 else 2 ^ 32

/-- A stockpot element (R59). -/
structure Elem where
  v : BitVec 128 := 0
  l : Int := 0
  s : Cls := .finite
  deriving DecidableEq, Repr

/-- The aligned integer of a finite product at exponent L: truncated toward zero (R66). -/
def alignTo (d : Dec) (l : Int) : Int :=
  let v : Nat := if d.e ≥ l then d.m * 2 ^ (d.e - l).toNat else d.m / 2 ^ (l - d.e).toNat
  if d.neg then -(v : Int) else (v : Int)

/-- Does a product breach the anchor (R63, R66)? -/
def breaches (mode : AccMode) (l : Int) (d : Dec) : Bool :=
  decide (mode = .anchored) && decide (d.cls = .finite) && d.m != 0 && decide ((bitlen d.m : Int) + d.e > l + 105)

/-- add_product of R66 for a product that does not breach. -/
def addProduct (x : Elem) (d : Dec) : Elem :=
  if d.cls ≠ .finite then { x with s := mergeCls x.s d.cls }
  else { x with v := x.v + BitVec.ofInt 128 (alignTo d x.l) }

/-- A stock word (R68): VALUE and ANCHOR. -/
structure StockWord where
  value  : BitVec 128
  anchor : BitVec 16
  deriving DecidableEq, Repr

/-- The class an ANCHOR marks, if it marks one (R68). -/
def StockWord.special (w : StockWord) : Option Cls :=
  match w.anchor.toNat with
  | 0x7FFD => some .posInf | 0x7FFE => some .negInf | 0x7FFF => some .nan | _ => none

/-- The stock word of an element (R68). -/
def Elem.word (x : Elem) : StockWord :=
  match x.s with
  | .finite => ⟨x.v, BitVec.ofInt 16 x.l⟩
  | .posInf => ⟨0, 0x7FFD⟩ | .negInf => ⟨0, 0x7FFE⟩ | .nan => ⟨0, 0x7FFF⟩

/-- The 20 bytes of a stock word (R68). -/
def StockWord.bytes (w : StockWord) : List Byte := toLE 16 w.value.toNat ++ toLE 2 w.anchor.toNat ++ toLE 2 0

/-- A stock word from 20 bytes; the reserved field is ignored (R68). -/
def StockWord.ofBytes (bs : List Byte) : StockWord :=
  ⟨BitVec.ofNat 128 (leNat (bs.take 16)), BitVec.ofNat 16 (leNat ((bs.drop 16).take 2))⟩

/-- Does a stock word carry another anchor than the element (R66, R69)? -/
def StockWord.clashes (w : StockWord) (x : Elem) : Bool :=
  w.special.isNone && decide (w.anchor.toInt ≠ x.l)

/-- add_stock_word of R66 for a word that does not clash. -/
def addStockWord (x : Elem) (w : StockWord) : Elem :=
  match w.special with
  | some c => { x with s := mergeCls x.s c }
  | none => { x with v := x.v + w.value }

/-- The exact value of an element (R59, R67). -/
def Elem.dec (x : Elem) : Dec :=
  match x.s with
  | .finite => ⟨.finite, x.v.msb, x.v.toInt.natAbs, x.l⟩
  | .posInf => Dec.inf false | .negInf => Dec.inf true | .nan => Dec.nan

/-- One element drained (R67): a zero sum is +0. -/
def drainElem (f : Fmt) (x : Elem) (mode : Rnd) : Nat × Arith := encode f x.dec mode

/-- The exact quotient of spec/07 R200 as a value with a sticky bit, and NAN_GEN. -/
def normDec (f : Fmt) (o l : Elem) : Dec × Bool :=
  if o.s = .nan ∨ l.s = .nan then (Dec.nan, false)
  else if o.s ≠ .finite ∧ l.s ≠ .finite then (Dec.nan, true)
  else if o.s ≠ .finite then (Dec.inf (decide (o.s = .negInf)), false)
  else if l.s ≠ .finite then (Dec.zero, false)
  else if l.v = 0 ∨ o.v = 0 then (Dec.zero, false)
  else
    let a := o.v.toInt.natAbs
    let b := l.v.toInt.natAbs
    let k : Int := max 0 (max ((f.p : Int) + 3 + bitlen b - bitlen a) (o.l - l.l + 2))
    let n := a * 2 ^ k.toNat
    let q := n / b
    let q := if n % b ≠ 0 ∧ q % 2 = 0 then q + 1 else q
    (⟨.finite, o.v.msb != l.v.msb, q, o.l - l.l - k⟩, false)

/-- 1.0 in a format, or 1 in an integer format (spec/07 R190, R195). -/
def oneDec : Dec := ⟨.finite, false, 1, 0⟩

/-- τ₁, the tag of 1.0 (spec/07 R190). -/
def tagOne (f : Fmt) : Nat :=
  match f with
  | .e4m3 => 7 | .e5m2 => 15 | .fp16 => 15 | .bf16 => 127 | .fp32 => 127 | .fp4 => 2 | _ => 1

/-- The multipliers of R75. -/
def krMul : Nat → Nat
  | 0 => 0xA3B195C427E60D59 | 1 => 0xC2F64A8D19B7E30B | 2 => 0x8F5DC6E32B07A9D1 | _ => 0xB46E0F29D58A1C37
/-- The shifts of R75. -/
def krSh : Nat → Nat
  | 0 => 31 | 1 => 27 | 2 => 33 | _ => 29

/-- One round of keyed_random (R75). -/
def krRound (k0 : BitVec 64) (xt : BitVec 64 × BitVec 64) (r : Nat) : BitVec 64 × BitVec 64 :=
  let x := (xt.1 + xt.2) * BitVec.ofNat 64 (krMul r)
  let x := x ^^^ (x >>> krSh r)
  let t := ((xt.2 <<< 23) ||| (xt.2 >>> 41)) + k0
  (x, t)

/-- keyed_random of R75. -/
def keyedRandom (seed stream idx : Nat) : BitVec 64 :=
  let k0 := BitVec.ofNat 64 seed
  let k1 := BitVec.ofNat 64 (seed / 2 ^ 64)
  let st := BitVec.ofNat 64 (stream % 2 ^ 32)
  let t := k1 ^^^ (st <<< 32) ^^^ st
  ([0, 1, 2, 3].foldl (krRound k0) (BitVec.ofNat 64 idx ^^^ k0, t)).1

/-- Exact comparison of two finite values. -/
def Dec.cmpFinite (a b : Dec) : Ordering :=
  let e := min a.e b.e
  let x : Int := (if a.neg then -1 else 1) * (a.m * 2 ^ (a.e - e).toNat : Nat)
  let y : Int := (if b.neg then -1 else 1) * (b.m * 2 ^ (b.e - e).toNat : Nat)
  compare x y

/-- The rank of a class in the total order of R77. -/
def Cls.rank : Cls → Nat
  | .negInf => 0 | .finite => 1 | .posInf => 2 | .nan => 3

/-- The total order of R77. -/
def Dec.cmp (a b : Dec) : Ordering :=
  if a.cls = .finite ∧ b.cls = .finite then a.cmpFinite b else compare a.cls.rank b.cls.rank

/-- The least `k` elements of a list of keys, each by its logical index: equal keys rank by ascending index (R77). -/
def keyBefore (a b : Dec × Nat) : Bool :=
  match a.1.cmp b.1 with
  | .lt => true
  | .gt => false
  | .eq => decide (a.2 ≤ b.2)

end Sys2Proof.Machine
end

