-- ==== Sys2Proof/Machine/Trans.lean ====
section
/-!
DEFINITION. Sys2Proof/Machine/Trans.lean: the transcendental functions of the whisk engine, bit for bit (spec/02 R72, R73).
The coefficients C_j[i] = RN48(f^(j)(x_i)/j!) are computed here in fixed point with 320 fraction bits and rounded once
to 48 significant bits; rational coefficients are rounded exactly.
-/
namespace Sys2Proof.Machine

/-- A dyadic number `n * 2^e`. -/
structure Dy where
  n : Int
  e : Int
  deriving DecidableEq, Repr

/-- Exact sum. -/
def Dy.add (a b : Dy) : Dy :=
  let e := min a.e b.e
  ⟨a.n * (2 ^ (a.e - e).toNat : Nat) + b.n * (2 ^ (b.e - e).toNat : Nat), e⟩

/-- Exact product. -/
def Dy.mul (a b : Dy) : Dy := ⟨a.n * b.n, a.e + b.e⟩

/-- A dyadic number as a decoded value. -/
def Dy.dec (a : Dy) : Dec := ⟨.finite, decide (a.n < 0), a.n.natAbs, a.e⟩

/-- Multiply by 2^k. -/
def Dy.shift (a : Dy) (k : Int) : Dy := ⟨a.n, a.e + k⟩

/-- RN48 of the magnitude n / d: nearest with 48 significant bits, ties to even; zero stays zero (R73). -/
def rn48Nat (n d : Nat) : Nat × Int :=
  if n = 0 ∨ d = 0 then (0, 0)
  else
    -- k with 2^47 ≤ n / d / 2^k < 2^48, found from the bit lengths and adjusted by one
    let k0 : Int := (bitlen n : Int) - bitlen d - 48
    let num (k : Int) : Nat := n * 2 ^ (-k).toNat
    let den (k : Int) : Nat := d * 2 ^ k.toNat
    let k := if num k0 < 2 ^ 48 * den k0 then k0 else k0 + 1
    let q := num k / den k
    let r := num k % den k
    let q := if 2 * r > den k ∨ (2 * r = den k ∧ q % 2 = 1) then q + 1 else q
    (q, k)

/-- RN48 of n / d (R73). -/
def rn48 (n : Int) (d : Nat) : Dy :=
  let r := rn48Nat n.natAbs d
  ⟨if n < 0 then -(r.1 : Int) else (r.1 : Int), r.2⟩

/-- Fraction bits of the fixed-point evaluation. -/
def fxBits : Nat := 320
/-- One in fixed point. -/
def fxOne : Nat := 2 ^ fxBits
/-- Fixed-point product of magnitudes. -/
def fxMul (a b : Nat) : Nat := a * b / fxOne
/-- Fixed-point quotient of magnitudes. -/
def fxDiv (a b : Nat) : Nat := a * fxOne / b
/-- Fixed-point signed product. -/
def fxMulI (a b : Int) : Int := a * b / (fxOne : Int)

/-- RN48 of a fixed-point number. -/
def fxRn48 (a : Int) : Dy := rn48 a fxOne

/-- Integer square root by digits, structural on the number of digits. -/
def isqrtDigits (n : Nat) : Nat → Nat
  | 0 => 0
  | k + 1 =>
    let r := 2 * isqrtDigits (n / 4) k
    if (r + 1) * (r + 1) ≤ n then r + 1 else r

/-- Floor of the square root. -/
def isqrt (n : Nat) : Nat := isqrtDigits n (bitlen n / 2 + 1)

/-- Fixed-point square root. -/
def fxSqrt (a : Nat) : Nat := isqrt (a * fxOne)

/-- Σ term_k with term_{k+1} = term_k * y / (k+1), from term `t` at index `k`: the exponential series. -/
def expSeries (y : Nat) : Nat → Nat → Nat → Nat
  | 0, _, _ => 0
  | fuel + 1, k, t => t + expSeries y fuel (k + 1) (fxMul t y / (k + 1))

/-- Square `n` times. -/
def sqTimes : Nat → Nat → Nat
  | 0, a => a
  | n + 1, a => sqTimes n (fxMul a a)

/-- e^y for a fixed-point y ≥ 0 (the argument is divided by 64 and the result squared six times). -/
def fxExp (y : Nat) : Nat := sqTimes 6 (expSeries (y / 64) 80 0 fxOne)

/-- Σ z^(2k+1)/(2k+1), from term `t` = z^(2k+1). -/
def atanhSeries (z2 : Nat) : Nat → Nat → Nat → Nat
  | 0, _, _ => 0
  | fuel + 1, k, t => t / (2 * k + 1) + atanhSeries z2 fuel (k + 1) (fxMul t z2)

/-- Natural logarithm of a fixed-point a in [1, 2]: 2 atanh((a-1)/(a+1)). -/
def fxLn (a : Nat) : Nat :=
  let z := fxDiv (a - fxOne) (a + fxOne)
  2 * atanhSeries (fxMul z z) 110 0 z

/-- ln 2. -/
def fxLn2 : Nat := fxLn (2 * fxOne)

/-- Σ (-1)^k z^(2k+1)/(2k+1). -/
def atanSeries (z2 : Nat) : Nat → Nat → Nat → Int
  | 0, _, _ => 0
  | fuel + 1, k, t => (t / (2 * k + 1) : Nat) - atanSeries z2 fuel (k + 1) (fxMul t z2)

/-- π by Machin's formula. -/
def fxPi : Nat :=
  let a (n : Nat) : Int := atanSeries (fxOne / (n * n)) 150 0 (fxOne / n)
  (16 * a 5 - 4 * a 239).toNat

/-- 2 ⁄ √π. -/
def fxTwoOverSqrtPi : Nat := fxDiv (2 * fxOne) (fxSqrt fxPi)

/-- Σ (-1)^k x^(2k+1)/(k! (2k+1)), from term `t` = x^(2k+1)/k!. -/
def erfSeries (x2 : Nat) : Nat → Nat → Nat → Int
  | 0, _, _ => 0
  | fuel + 1, k, t => (t / (2 * k + 1) : Nat) - erfSeries x2 fuel (k + 1) (fxMul t x2 / (k + 1))

/-- erf of a fixed-point x in [0, 4]. -/
def fxErf (x : Nat) : Int := fxMulI (erfSeries (fxMul x x) 220 0 x) fxTwoOverSqrtPi

/-- The six functions of R72. -/
inductive TransFn where
  | exp2 | log2 | rcp | rsqrt | tanh | erf
  deriving DecidableEq, Repr

/-- The coefficients C_0 to C_3 at the left end x_i = n / 2^k of an interval (R73). -/
def transCoeffs (f : TransFn) (n k : Nat) : List Dy :=
  let x : Nat := n * 2 ^ (fxBits - k)
  match f with
  | .exp2 =>
    let v := fxExp (fxMul x fxLn2)
    let c1 := fxMul v fxLn2
    let c2 := fxMul c1 fxLn2
    let c3 := fxMul c2 fxLn2
    [fxRn48 v, fxRn48 c1, rn48 c2 (2 * fxOne), rn48 c3 (6 * fxOne)]
  | .log2 =>
    let inv := fxDiv fxOne x
    let c1 := fxDiv inv fxLn2
    let c2 := fxMul c1 inv
    let c3 := fxMul c2 inv
    [fxRn48 (fxDiv (fxLn x) fxLn2), fxRn48 c1, rn48 (-(c2 : Int)) (2 * fxOne), rn48 c3 (3 * fxOne)]
  | .rcp =>
    let p : Nat := 2 ^ k
    let q : Nat := n
    [rn48 (p : Int) q, rn48 (-((p * p : Nat) : Int)) (q * q), rn48 ((p ^ 3 : Nat) : Int) (q ^ 3), rn48 (-((p ^ 4 : Nat) : Int)) (q ^ 4)]
  | .rsqrt =>
    let r := fxDiv fxOne (fxSqrt x)
    let inv := fxDiv fxOne x
    let r1 := fxMul r inv
    let r2 := fxMul r1 inv
    let r3 := fxMul r2 inv
    [fxRn48 r, rn48 (-(r1 : Int)) (2 * fxOne), rn48 ((3 * r2 : Nat) : Int) (8 * fxOne), rn48 (-((5 * r3 : Nat) : Int)) (16 * fxOne)]
  | .tanh =>
    let w := fxDiv fxOne (fxExp (2 * x))
    let den := fxOne + w
    let t : Int := fxDiv (fxOne - w) den
    let c1 : Int := fxDiv (fxDiv (4 * w) den) den
    [fxRn48 t, fxRn48 c1, fxRn48 (-(fxMulI t c1)), rn48 (fxMulI c1 (3 * fxMulI t t - (fxOne : Int))) (3 * fxOne)]
  | .erf =>
    let c1 : Int := fxDiv fxTwoOverSqrtPi (fxExp (fxMul x x))
    [fxRn48 (fxErf x), fxRn48 c1, fxRn48 (-(fxMulI x c1)),
     rn48 (fxMulI c1 (2 * (fxMul x x : Int) - (fxOne : Int))) (3 * fxOne)]

/-- P of R73: exact dyadic Horner evaluation at offset d. -/
def transPoly (f : TransFn) (n k : Nat) (d : Dy) : Dy :=
  (transCoeffs f n k).foldr (fun c acc => c.add (d.mul acc)) ⟨0, 0⟩

/-- The sign of a dyadic number forced. -/
def Dy.signed (a : Dy) (neg : Bool) : Dy := if neg then ⟨-a.n, a.e⟩ else a

/-- The exact value `n / 2^k - x` of the offset d, for a reduced argument m·2^e. -/
def Dy.minus (a : Dy) (n k : Nat) : Dy := a.add ⟨-(n : Int), -(k : Int)⟩

/-- The result of R72: a special value, or an exact value still to be rounded. -/
def transExact (f : TransFn) (x : Dec) : Dec :=
  let v : Dy := ⟨x.m, x.e⟩
  let fl := x.floorLog
  match f with
  | .exp2 =>
    if x.cls = .nan then Dec.nan
    else if x.cls = .posInf then Dec.inf false
    else if x.cls = .negInf then Dec.zero
    else
      let sv := v.signed x.neg
      let n : Int := sv.n * (2 ^ sv.e.toNat : Nat) / ((2 ^ (-sv.e).toNat : Nat) : Int)
      if n ≥ 128 then Dec.inf false
      else if n < -126 then Dec.zero
      else
        let fr := sv.add ⟨-n, 0⟩
        let i := (fr.n * 512 * (2 ^ fr.e.toNat : Nat) / ((2 ^ (-fr.e).toNat : Nat) : Int)).toNat
        ((transPoly .exp2 i 9 (fr.minus i 9)).shift n).dec
  | .log2 =>
    if x.cls = .nan then Dec.nan
    else if x.isZero then Dec.inf true
    else if x.neg then Dec.nan
    else if x.cls = .posInf then Dec.inf false
    else
      let m := v.shift (-fl)
      let i := x.m * 2 ^ 9 * 2 ^ (x.e - fl).toNat / 2 ^ (fl - x.e).toNat
      ((transPoly .log2 i 9 (m.minus i 9)).add ⟨fl, 0⟩).dec
  | .rcp =>
    if x.cls = .nan then Dec.nan
    else if x.isInf then { Dec.zero with neg := x.neg }
    else if x.isZero then Dec.inf x.neg
    else
      let m := v.shift (-fl)
      let i := x.m * 2 ^ 9 * 2 ^ (x.e - fl).toNat / 2 ^ (fl - x.e).toNat
      (((transPoly .rcp i 9 (m.minus i 9)).shift (-fl)).signed x.neg).dec
  | .rsqrt =>
    if x.cls = .nan then Dec.nan
    else if x.isZero then Dec.inf x.neg
    else if x.neg then Dec.nan
    else if x.cls = .posInf then Dec.zero
    else
      let j := fl / 2
      let e2 := x.e - 2 * j
      let i := x.m * 2 ^ 8 * 2 ^ e2.toNat / 2 ^ (-e2).toNat
      ((transPoly .rsqrt i 8 ((v.shift (-2 * j)).minus i 8)).shift (-j)).dec
  | .tanh =>
    if x.cls = .nan then Dec.nan
    else if x.isInf then { oneDec with neg := x.neg }
    else if x.isZero || decide (fl < -12) then x
    else if decide (9 ≤ fl) || decide (Dec.cmpFinite { x with neg := false } ⟨.finite, false, 9, 0⟩ ≠ .lt) then
      { oneDec with neg := x.neg }
    else
      -- x_i = 2^k (1 + q/64) = (64 + q) 2^(k-6); as n / 2^18 with n an integer for k ≥ -12
      let q64 := x.m * 64 * 2 ^ (x.e - fl).toNat / 2 ^ (fl - x.e).toNat
      let n := q64 * 2 ^ (fl + 12).toNat
      (((transPoly .tanh n 18 (v.minus n 18))).signed x.neg).dec
  | .erf =>
    if x.cls = .nan then Dec.nan
    else if x.isInf then { oneDec with neg := x.neg }
    else if x.isZero then x
    else if fl < -12 then ((fxRn48 fxTwoOverSqrtPi).mul v |>.signed x.neg).dec
    else if fl ≥ 2 then { oneDec with neg := x.neg }
    else
      let q64 := x.m * 64 * 2 ^ (x.e - fl).toNat / 2 ^ (fl - x.e).toNat
      let n := q64 * 2 ^ (fl + 12).toNat
      (((transPoly .erf n 18 (v.minus n 18))).signed x.neg).dec

/-- Is NAN_GEN set by a function of R72: NaN from an operand that is none (R55)? -/
def transNanGen (f : TransFn) (x : Dec) : Bool := x.cls ≠ .nan && decide ((transExact f x).cls = .nan)

/-- The status bits of the special range cases of exp2: a finite x ≥ 128 overflows, a finite x < -126 is flushed (R55). -/
def transRange (f : TransFn) (x : Dec) : Arith :=
  if f = .exp2 ∧ x.cls = .finite then
    { overflow := decide ((transExact f x).cls = .posInf), flushOut := (transExact f x).isZero }
  else {}

/-- The FP32 result of R73 in the given mode, with its status bits. -/
def trans (f : TransFn) (x : Dec) (mode : Rnd) : Nat × Arith :=
  let r := encode .fp32 (transExact f x) mode
  (r.1, (r.2.or (transRange f x)).or { nanGen := transNanGen f x })

end Sys2Proof.Machine
end

