-- ==== Sys2Proof/Config.lean ====
section
/-!
DEFINITION. Sys2Proof/Config.lean: the free values: what the spec leaves open and the module fixes. Each is opaque, so that
nothing proved of the model rests on its value (n4). The last argument of those that need a fresh value each time is the
state's counter `fresh`.
-/
namespace Sys2Proof.Config

/-- The r and s of an SM2 signature by the device key over a message (spec/18 R439, R440), 64 bytes, the first r's most
significant. DESIGN CHOICE (n4). -/
opaque sm2Sign : List Byte → Nat → BitVec 512
/-- Does an SM2 signature (the second) hold over a message (the first) under the key of a certificate (spec/18 R441, R445)?
DESIGN CHOICE (n4). -/
opaque sm2Verify : List Byte → List Byte → List Byte → Bool
/-- Does a certificate chain to the root key with a digest (spec/18 R441, R445)? DESIGN CHOICE (n4). -/
opaque certChains : List Byte → List Byte → Bool
/-- What a firmware image's 512-byte header says, whose layout spec/18 R441 does not give: does its certificate chain to a root key,
does its signature hold, do the controller component and the other components match their digests. DESIGN CHOICE (n4). -/
opaque imageCertOk : List Byte → List Byte → Bool
/-- See `imageCertOk`. -/
opaque imageSigOk : List Byte → Bool
/-- See `imageCertOk`. -/
opaque imageCtlOk : List Byte → Bool
/-- See `imageCertOk`. -/
opaque imagePartsOk : List Byte → Bool
/-- SV (0), the controller's version (1) and the command processor's version (2) of an image. DESIGN CHOICE (n4). -/
opaque imageNumber : List Byte → Nat → BitVec 32
/-- SV_COMMIT of an image. DESIGN CHOICE (n4). -/
opaque imageCommit : List Byte → Bool
/-- The digest of component k of an image, and for k = 4 of its micro-mode images with its profile tables. DESIGN CHOICE (n4). -/
opaque imageDigest : List Byte → Nat → BitVec 256
/-- The SM3 of the fuse image, whose layout spec/18 R439 does not give, by what it holds. DESIGN CHOICE (n4). -/
opaque fuseDigest : List Byte → BitVec 256
/-- Is a PMBus reading that LINEAR11 does not hold exactly rounded up (spec/18 R435 states no rounding), by the value and the exponent's
index? DESIGN CHOICE (n4). -/
opaque linearUp : Int → Nat → Bool
/-- The case of the letters of MFR_REVISION (spec/18 R436 states none). DESIGN CHOICE (n4). -/
opaque hexLower : Bool
/-- How many of the records of the last second are lost when the hot-swap opens (spec/17 R427, spec/19 R461). DESIGN CHOICE
(n4). -/
opaque lostRecords : Nat → Nat
/-- The SEQ of a trace record whose log entry was dropped (spec/17 R418, R427): it has no serial. DESIGN CHOICE (n4). -/
opaque droppedSeq : Nat → BitVec 64
/-- A word whose value the spec does not state: a register word where no register lies, a field of a record or a mark that the spec gives
no value, a tag that another member chose. DESIGN CHOICE (n4). -/
opaque freeWord : Nat → BitVec 64
/-- The needed MODE (0) and FMT (1) that the record of CF_STOCKPOT_STATE gives for an op that reads a closed row and needs no
mode or format of it (spec/17 R419). DESIGN CHOICE (n4). -/
opaque neededOfRead : Nat → Nat → BitVec 8
/-- Where a message of another member goes at its core: bit 2 set for a ring, clear for a port; bits 1:0 its number. The packet (spec/16
R398, spec/12 R312) does not carry it; by the route tag and the core's index in its partition (spec/13 R327). DESIGN CHOICE (n4). -/
opaque messagePlace : Nat → Nat → BitVec 3
/-- The op address of a fault that an inbound header or row raises at its target (spec/17 R419 states none). DESIGN CHOICE
(n4). -/
opaque inboundOpAddr : Nat → BitVec 13

/-- The sign of an exactly zero FP32 sum, by its addends (spec/05 R140 states none). DESIGN CHOICE (n4). -/
opaque zeroSumNeg : Nat → Nat → Bool
/-- The sign of a zero that FLOOR (0) or RINT (1) gives, by its operand (spec/05 R140 states none). DESIGN CHOICE (n4). -/
opaque zeroIntNeg : Nat → Nat → Bool
/-- The key by which the `i`-th line that an anchor pass reads takes its place in their order, by the op's address (spec/04 R106 and R116
give no order). DESIGN CHOICE (n4). -/
opaque passKey : Nat → Nat → BitVec 16
/-- L of an element of an opened row for which the op has no operand (spec/07 R195 states none). DESIGN CHOICE (n4). -/
opaque unusedL : Nat → BitVec 16
/-- Seed and stream of a RANDU step in the program of a DRAIN, by the op's address: the op has no field for them (spec/05 R140, spec/07
R199). DESIGN CHOICE (n4). -/
opaque drainSeed : Nat → BitVec 128
opaque drainStream : Nat → BitVec 32
/-- The nanoseconds from the close of a window to the change of a copy of it (spec/11 R294 states none). DESIGN CHOICE (n4). -/
opaque copyDelay : Nat → BitVec 32
/-- UNIT of a row that STOCK_ADD opens (spec/04 R113 names the array and the MVU alone). DESIGN CHOICE (n4). -/
opaque stockAddUnit : Nat → Bool

end Sys2Proof.Config
end

