-- ==== Sys2Proof/Machine/Table.lean ====
section
/-!
DEFINITION. Sys2Proof/Machine/Table.lean: sparse tables in one canonical form.
A table is a list of (key, value) pairs, keys strictly rising, no value equal to the default `d` that an unlisted key
reads as. Memory is the table of bytes whose default is 0 (a list of `Host.Cell`).
-/
namespace Sys2Proof.Machine

/-- A sparse table over `α`. -/
abbrev Tab (α : Type) := List (Nat × α)

/-- The value at key `k`. -/
def Tab.get {α : Type} (d : α) : Tab α → Nat → α
  | [], _ => d
  | (j, v) :: t, k => if j = k then v else Tab.get d t k

/-- Insert or replace, keeping keys strictly rising. -/
def Tab.put {α : Type} (k : Nat) (v : α) : Tab α → Tab α
  | [] => [(k, v)]
  | (j, w) :: t => if k < j then (k, v) :: (j, w) :: t
                   else if k = j then (k, v) :: t else (j, w) :: Tab.put k v t

/-- Remove a key. -/
def Tab.del {α : Type} (k : Nat) : Tab α → Tab α
  | [] => []
  | (j, w) :: t => if j = k then Tab.del k t else (j, w) :: Tab.del k t

/-- Set key `k` to `v`; the default value is not listed. -/
def Tab.set {α : Type} [DecidableEq α] (d : α) (t : Tab α) (k : Nat) (v : α) : Tab α :=
  if v = d then Tab.del k t else Tab.put k v t

/-- Change the value at key `k`. -/
def Tab.modify {α : Type} [DecidableEq α] (d : α) (t : Tab α) (k : Nat) (f : α → α) : Tab α :=
  Tab.set d t k (f (Tab.get d t k))

/-- The canonical form: every key listed after `lo`, rising, and no default value. -/
def Tab.wfFrom {α : Type} [DecidableEq α] (d : α) : Nat → Tab α → Bool
  | _, [] => true
  | lo, (k, v) :: t => decide (lo ≤ k) && decide (v ≠ d) && Tab.wfFrom d (k + 1) t

/-- The canonical form of a table with default `d`. -/
def Tab.wf {α : Type} [DecidableEq α] (d : α) (t : Tab α) : Bool := Tab.wfFrom d 0 t

/-- Bytes by address; an unlisted address reads 0. -/
abbrev Memory := List Host.Cell

/-- One byte of a memory. -/
def Memory.get (m : Memory) (a : Nat) : Byte := Tab.get 0 m a

/-- Write one byte. -/
def Memory.set (m : Memory) (a : Nat) (b : Byte) : Memory := Tab.set (0 : Byte) m a b

/-- The canonical form of a memory. -/
def Memory.wf (m : Memory) : Bool := Tab.wf (0 : Byte) m

/-- `n` bytes from address `a`. -/
def Memory.read (m : Memory) (a : Nat) : Nat → List Byte
  | 0 => []
  | n + 1 => Memory.get m a :: Memory.read m (a + 1) n

/-- Write a list of bytes from address `a`. -/
def Memory.write (m : Memory) (a : Nat) : List Byte → Memory
  | [] => m
  | b :: bs => Memory.write (Memory.set m a b) (a + 1) bs

/-- A little-endian number of `n` bytes at `a`. -/
def Memory.nat (m : Memory) (a n : Nat) : Nat := leNat (Memory.read m a n)

/-- Set `n` bytes from `a` to zero: the listed bytes of the range are dropped. -/
def Memory.zero (m : Memory) (a n : Nat) : Memory :=
  m.filter fun c => decide (c.1 < a) || decide (a + n ≤ c.1)

end Sys2Proof.Machine
end

