-- ==== Sys2Proof/Machine/Forms.lean ====
section
/-!
DEFINITION. Sys2Proof/Machine/Forms.lean: the plain data of ops: macro-op words, descriptors, whisk blocks, layout control words, and
what an op keeps while a port FIFO feeds it (spec/05, 06, 08, 10; spec/03 R79).
-/
namespace Sys2Proof.Machine

/-! ## The macro-op word (spec/06 R146 to R155) -/

/-- A decoded signal word (spec/06 R152). -/
structure Sig where
  cnt    : Nat
  remote : Bool
  attach : Bool
  route  : Nat
  inc    : Nat
  deriving DecidableEq, Repr

/-- A wait word (R149). -/
structure Wait where
  cnt     : Nat
  level   : Nat
  delta   : Nat
  timeout : Nat
  step    : Nat
  deriving DecidableEq, Repr

/-- A macro-op word with its address. -/
structure Op where
  addr  : Nat
  word  : Nat
  opc   : Nat
  var   : Nat
  nw    : Nat
  ns    : Nat
  nd    : Nat
  trace : Bool
  dur   : Nat
  waits : List Wait
  sigs  : List Sig
  drefs : List Nat
  opnd  : Nat
  deriving DecidableEq, Repr

/-! ## Tensor descriptors and tile plans (spec/10 R245 to R262) -/

/-- A tensor descriptor. `ext`, `bind` and `stride` have six entries; the stride of dimension 0 is not used. -/
structure Desc where
  part   : Bool
  fmt    : Fmt
  rank   : Nat
  tagV   : Bool
  scaleV : Bool
  base   : Nat
  tagPtr : Nat
  scalePtr : Nat
  ext    : List Nat
  bind   : List Nat
  stride : List Nat
  lrow   : Nat
  deriving DecidableEq, Repr

/-- A tile plan (R259). The tiles, the extents and the bindings are in the order M, N, K. -/
structure Plan where
  order0 : Nat
  order1 : Nat
  l1v    : Bool
  t0     : List Nat
  t1     : List Nat
  ext    : List Nat
  bind   : List Nat
  abase  : Nat
  alen   : Nat
  deriving DecidableEq, Repr

/-! ## The layout control word (spec/05 R124) -/

/-- A layout control word. -/
structure LCtl where
  mode   : Nat
  width  : Nat
  owidth : Nat
  sgn    : Bool
  fifo   : Bool
  table  : Nat
  deriving DecidableEq, Repr

/-! ## The whisk block (spec/05 R138, R139) -/

/-- A table slot (R138). -/
structure TSlot where
  offset : Nat
  len    : Nat
  byRow  : Bool
  deriving DecidableEq, Repr

/-- A step word (R139). -/
structure WStep where
  opc : Nat
  dst : Nat
  a   : Nat
  b   : Nat
  c   : Nat
  deriving DecidableEq, Repr

/-- A whisk block. -/
structure WBlock where
  inputs : Nat
  out    : Nat
  fifo   : Bool
  slots  : Nat
  consts : List Nat
  steps  : List WStep
  table  : List TSlot
  deriving DecidableEq, Repr

/-! ## Ops that a port FIFO feeds (spec/03 R79, spec/12 R313) -/

/-- A MATVEC (spec/07 R183): its tensors and fields, its first panel beat `f`, its passes and masks, the cycle in which it issued. -/
structure MatvecArgs where
  w      : Desc
  pl     : Desc
  srow   : Nat
  vc     : Nat
  ko     : Nat
  kred   : Nat
  k0     : Nat
  nc     : Nat
  n      : Nat
  kEnd   : Nat
  f      : Nat
  isOpen : Bool
  opAddr : Nat
  cyc    : Nat
  deriving DecidableEq, Repr

/-- A WHISK (spec/08 R204): its block, its output with its run-time extents, the extents of the elements it computes, its inputs, and the
bytes of its tables as it issued. -/
structure WhiskArgs where
  w      : WBlock
  out    : Desc
  rt     : List Nat
  live   : List Nat
  ins    : List Desc
  mode   : Rnd
  seed   : Nat
  stream : Nat
  tables : Memory
  opAddr : Nat
  deriving DecidableEq, Repr

/-- A CONVERT (spec/08 R207) with the shuffle table as it issued. -/
structure ConvertArgs where
  ctl    : LCtl
  src    : Desc
  dst    : Desc
  live   : List Nat
  mode   : Rnd
  tab    : List Nat
  opAddr : Nat
  deriving DecidableEq, Repr

/-- A LAYOUT (spec/08 R205) with the shuffle table as it issued. -/
structure LayoutArgs where
  ctl    : LCtl
  plan   : Option Plan
  src    : Desc
  dst    : Desc
  srt    : List Nat
  drt    : List Nat
  tab    : List Nat
  opAddr : Nat
  deriving DecidableEq, Repr

/-- An op in the row that a port FIFO feeds. -/
inductive Task where
  | matvec (a : MatvecArgs)
  | whisk (a : WhiskArgs)
  | convert (a : ConvertArgs)
  | layout (a : LayoutArgs)
  deriving DecidableEq, Repr

/-- The beats that an op takes from a port FIFO: those still to come, each with its cycle and its bytes, and the bytes taken. The op
does its work as the last one is there. -/
structure Job where
  port  : Nat
  opAddr : Nat
  due   : List (Nat × Nat)
  got   : List Byte
  task  : Task
  deriving DecidableEq, Repr

end Sys2Proof.Machine
end

