-- ==== Sys2Proof/Machine/CoreState.lean ====
section
/-!
DEFINITION. Sys2Proof/Machine/CoreState.lean: the plain data of one core, its counters, tracker, queues and micro mode
(spec/03, 04, 06, 08, 09, 11, 12).
-/
namespace Sys2Proof.Machine

/-- The mark of an increment that carries an error (spec/12 R296): KIND 1 uncorrectable read, 2 target unavailable. -/
structure Mark where
  kind   : Nat
  cause  : Nat
  addr   : Nat
  opAddr : Nat
  core   : Nat
  deriving DecidableEq, Repr

/-- A sync counter (spec/12 R296). `recent` holds the increments applied and not yet visible to a wait, each with the cycle
from which a wait sees it (R297). -/
structure Counter where
  value  : Nat := 0
  isOpen : Bool := false
  mark   : Option Mark := none
  stray  : Bool := false
  base   : Nat := 0
  ceil   : Nat := 0
  recent : List (Nat × Nat) := []
  /-- One more than the cycle in which an increment last failed: no later increment of that cycle is applied (R302). -/
  barred : Nat := 0
  deriving DecidableEq, Repr

/-- A tracker entry (spec/03 R86). `retire` is the last cycle in which it is valid (R88, R89); `none` while that is not known.
`owner` is the op or transfer that registered it. -/
structure Entry where
  v      : Bool := false
  base   : Nat := 0
  len    : Nat := 0
  space  : Nat := 0
  kind   : Nat := 0
  opAddr : Nat := 0
  tag    : Nat := 0
  win    : Nat := 0
  stamp  : Nat := 0
  retire : Option Nat := none
  owner  : Nat := 0
  deriving DecidableEq, Repr

/-- The state of a stockpot row (spec/04 R113). -/
structure StockRow where
  isOpen : Bool := false
  mode   : Nat := 0
  fmt    : Nat := 0
  opAddr : Nat := 0
  unit   : Nat := 0
  deriving DecidableEq, Repr

/-- One advance of a LOOP: the slot its DREF names, SEL and STEP (spec/06 R163). -/
structure Advance where
  slot : Nat
  sel  : Nat
  step : Int
  deriving DecidableEq, Repr

/-- A level of the loop stack (spec/06 R164). -/
structure LoopLvl where
  start : Nat
  stop  : Nat
  trip  : Nat
  iter  : Nat
  advs  : List Advance
  deriving DecidableEq, Repr

/-- An op that has issued and has not reached its completion point (spec/06 R153). `left` counts the transfers of a queue op
that are not acknowledged; `completeAt` is the cycle of the completion point, once known. -/
structure PendOp where
  id     : Nat
  opAddr : Nat
  queueOp : Bool
  completeAt : Option Nat
  left   : Nat
  sigs   : List Sig
  mark   : Option Mark
  deriving DecidableEq, Repr

/-- A route table entry (spec/12 R308). -/
structure Route where
  tag   : Nat := 0
  v     : Bool := false
  plane : Nat := 0
  kind  : Nat := 0
  index : Nat := 0
  core  : Nat := 0
  rank  : Nat := 0
  xmod  : Bool := false
  seq   : Nat := 0
  deriving DecidableEq, Repr

/-- A port FIFO (spec/12 R313): the bytes committed without a gap from the head with the lengths of their messages, and the
messages behind them in order of header arrival: the transfer, its padded payload, and is it committed. -/
structure PortFifo where
  bytes : List Byte := []
  msgs  : List Nat := []
  queue : List (Nat × List Byte × Bool) := []
  deriving DecidableEq, Repr

/-- A ring (spec/12 R314 to R317). `recs` are the lengths of the records not wholly released, oldest first, the first one
counted from HEAD. -/
structure Ring where
  base    : Nat := 0
  size    : Nat := 0
  v       : Bool := false
  relCnt  : Nat := 0
  status  : Nat := 0
  head    : Nat := 0
  tail    : Nat := 0
  used    : Nat := 0
  recs    : List Nat := []
  refused : Nat := 0
  written : Nat := 0
  deriving DecidableEq, Repr

/-- A window handle of a sending core (spec/11 R290). -/
structure Handle where
  window : Nat := 0
  epoch  : Nat := 0
  v      : Bool := false
  deriving DecidableEq, Repr

/-- A core fault to be raised: its code, bytes 32-33, byte 35 and bytes 44-63 of its record (spec/17 R419). -/
structure CFault where
  code   : Nat
  opAddr : Nat
  ring   : Nat
  fields : List Byte
  deriving DecidableEq, Repr

/-- Where an increment comes from: the sender's core and rank, and its op address or message tag (spec/12 R299). -/
structure IncSrc where
  core : Nat
  rank : Nat
  word : Nat
  deriving DecidableEq, Repr

/-- What befalls a core in a later cycle: a fault of an op in its row (spec/03 R81, spec/04 R108), an op that its shuffle table turns
out to make illegal (spec/06 R160), an increment that a write or message has brought over the static or the memory plane
(spec/12 R297, R302). -/
inductive Late where
  | fault (f : CFault)
  | illegal (opAddr opc var reason : Nat)
  | inc (static : Bool) (cnt inc : Nat) (mark : Option Mark) (src : IncSrc)
  deriving DecidableEq, Repr

/-- The micro mode of a core (spec/09 R228 to R238). -/
structure Micro where
  on      : Bool := false
  priv    : Bool := false
  entry   : Nat := 0
  limit   : Nat := 0x000F4240
  pc      : Nat := 0
  /-- PC of the last instruction executed or attempted. -/
  last    : Nat := 0
  running : Bool := false
  halted  : Bool := false
  faulted : Bool := false
  aborted : Bool := false
  mfc     : Nat := 0
  exit    : Nat := 0
  g       : Tab Nat := []
  v       : Memory := []
  shadowBeats : Nat := 0
  goStamp : Nat := 0
  goCycle : Nat := 0
  openMode : Nat := 0
  deriving DecidableEq, Repr

/-- A weight plane: the beats loaded into it, in order (spec/04 R107, spec/09 R240). -/
abbrev Plane := List (List Byte)

/-- One core. -/
structure Core where
  -- run and issue (spec/06 R176, spec/03 R92, R96)
  bucket    : Nat := 0
  entry     : Nat := 0
  next      : Nat := 0
  running   : Bool := false
  halted    : Bool := false
  faulted   : Bool := false
  cycle     : Nat := 0
  startCyc  : Nat := 0
  due       : Nat := 0
  dueStamp  : Option Nat := none
  /-- The waits of the due op that have passed in some cycle, one bit each (spec/06 R151). -/
  passed    : Nat := 0
  halting   : Option (Nat × Nat) := none
  haltSigs  : List Sig := []
  stalls    : Nat := 0
  stallOp   : Nat := 0
  stallCause : Nat := 0
  stallValid : Bool := false
  stallStamp : Nat := 0
  illCount  : Nat := 0
  illOp     : Nat := 0
  illReason : Nat := 0
  illDue    : Bool := false
  /-- The due op has passed the checks of R157: the whisk block they read, empty for an op without one (spec/06 R157). -/
  legalBlk  : Option (List Byte) := none
  /-- One more than the last cycle in which the issue station took up its op (spec/03 R92; MODEL's own, n2). -/
  tried     : Nat := 0
  /-- The op of the first stall has not issued yet (spec/03 R96). -/
  stallOpen : Bool := false
  arith     : Arith := {}
  loops     : List LoopLvl := []
  shape     : Tab Nat := []
  windows   : Tab (Nat × Nat) := []
  pend      : List PendOp := []
  /-- Ops in the row that a port FIFO feeds (spec/03 R79). -/
  jobs      : List Job := []
  -- stores
  pstore    : Memory := []
  pvalid    : Nat := 0
  dtable    : Memory := []
  dvalid    : Nat := 0
  -- the last LOADPROG issued for a block (spec/08 R222)
  powner    : Tab Nat := []
  downer    : Tab Nat := []
  scratch   : Memory := []
  -- tracker, stockpot, planes, vector hold
  sieve     : Tab Entry := []
  rows      : Tab StockRow := []
  stock     : Tab Elem := []
  active    : Plane := []
  shadow    : Plane := []
  vhold     : Memory := []
  holdV     : Nat := 0
  holdK     : Nat := 0
  holdFmt   : Nat := 0
  -- counters and messages
  cnts      : Tab Counter := []
  ports     : Tab PortFifo := []
  rings     : Tab Ring := []
  routes    : Tab Route := []
  sendTag   : Nat := 0
  sendOp    : Nat := 0
  sendReason : Nat := 0
  sendStamp : Nat := 0
  sent      : Nat := 0
  refused   : Nat := 0
  -- queues and regulator
  rate      : Nat := 0
  burst     : Nat := 0x40
  tokens    : Nat := 0x10000
  /-- The rate in force: RATE as of the last refill (spec/11 R286). -/
  rateNow   : Nat := 0
  /-- By queue, one more than the cycle in which it last launched a transfer (spec/08 R210). -/
  launched  : Tab Nat := []
  handles   : Tab Handle := []
  unmarked  : Option Mark := none
  -- what is to come, each with its cycle: faults, increments; writes through WP0 (bank and op) and static-plane beats through WP1
  -- (bank); the last cycle of the row of stock words that is being added (spec/07 R198)
  later     : List (Nat × Late) := []
  wp0       : List (Nat × Nat × Nat) := []
  wp1       : List (Nat × Nat) := []
  potBusy   : Nat := 0
  micro     : Micro := {}
  deriving DecidableEq, Repr

/-- The state of a core at module reset. -/
def Core.init : Core := {}

end Sys2Proof.Machine
end

