-- ==== Sys2Proof/Machine/State.lean ====
section
/-!
DEFINITION. Sys2Proof/Machine/State.lean: the state of the module, its value at power-on, and how a step can stop.
Plain data throughout. The fields follow INVENTORY.md, "State"; each n<k> is an entry of notes/assumptions/.
-/
namespace Sys2Proof.Machine

/-! ## The part (spec/00 R1 to R5) -/

/-- The two grades (spec/00 R1). -/
inductive Grade where
  | tx960 | tx768
  deriving DecidableEq, Repr

/-- The two steppings (spec/00 R1). -/
inductive Stepping where
  | a1 | b0
  deriving DecidableEq, Repr

/-- What is fused into the part (spec/15 R374, spec/18 R438). `coreMap` holds the map of enabled physical cores of each die;
`serials` the 29 die and stack serials in IDENTIFY's order. -/
structure Fuses where
  grade      : Grade := .tx960
  stepping   : Stepping := .a1
  coreMap    : List Nat := [2 ^ 72 - 1, 2 ^ 72 - 1, 2 ^ 72 - 1, 2 ^ 72 - 1]
  serials    : Tab Nat := []
  moduleSerial : List Byte := [48, 48, 48, 48, 48, 48, 48, 48, 48, 48, 48, 48]
  macBase    : Nat := 0
  svMin      : Nat := 0
  rootDigest : List Byte := []
  deviceCert : List Byte := []
  productCA  : List Byte := []
  deriving DecidableEq, Repr

/-! ## Records, transfers and signals -/

/-- A 64-byte error record, log entry or trace record (spec/17 R418). -/
structure LogRec where
  stamp  : Nat := 0
  seq    : Nat := 0
  cls    : Nat := 0
  part   : Nat := 255
  domain : Nat := 0
  index  : Nat := 0
  code   : Nat := 0
  flags  : Nat := 0
  ctx    : List Byte := []
  /-- Not of the 64 bytes: the per-source serial of a queued record (R421), is it of micro mode (spec/09 R232), and when it entered the log,
  in nanoseconds since power-on (R427). -/
  serial : Nat := 0
  micro  : Bool := false
  wrote  : Nat := 0
  deriving DecidableEq, Repr

/-- What a transfer does (spec/08 R210 to R222, spec/07 R197; spec/11 R280). -/
inductive XKind where
  | load | store | scatter | gather | stockRow | message | ticketClaim | ticketRead | program | descriptors | signal
  deriving DecidableEq, Repr

/-- Where a transfer stands: waiting in its queue; launched; its access or header answered, so that its bytes may commit;
committed; acknowledged with an attached increment still at the edge adapter; refused; discarded by a fault at its target. -/
inductive XStage where
  | waiting | launched | accepted | committed | acked | refused | discarded
  deriving DecidableEq, Repr

/-- A block whose tag the base die computes: `n` data bytes at `off` of the transfer; the tag byte goes to `dst`
(spec/11 R269, R270). -/
structure TagBlk where
  off : Nat
  n   : Nat
  dst : Nat
  deriving DecidableEq, Repr

/-- A transfer (spec/08 R210). `src` and `dst` are module addresses or scratchpad offsets, as `kind` says; `data` holds the
source bytes once read; `fail` the byte ranges of `data` that are not written (spec/08 R213). -/
structure Xfer where
  id     : Nat := 0
  core   : Nat := 0
  part   : Nat := 0
  op     : Nat := 0
  opAddr : Nat := 0
  ordinal : Nat := 0
  last   : Bool := false
  queue  : Nat := 0
  kind   : XKind := .load
  static : Bool := false
  remote : Bool := false
  src    : Nat := 0
  dst    : Nat := 0
  len    : Nat := 0
  counted : Nat := 0
  data   : List Byte := []
  fail   : List (Nat × Nat) := []
  tagFmt : Option Fmt := none
  tags   : List TagBlk := []
  /-- bytes of `data` whose high nibble is written as zero (spec/10 R247) -/
  odd    : List Nat := []
  win    : Nat := 0
  epoch  : Nat := 0
  launch : Nat := 0
  stage  : XStage := .waiting
  tag    : Option Nat := none
  hold   : Bool := false
  att    : List Sig := []
  /-- The cores that the attached increments of a write into memory go to (spec/06 R154). -/
  attCores : List Nat := []
  attMark : Option Mark := none
  route  : Route := {}
  dstCore : Nat := 0
  place  : Nat := 0
  aux    : Nat := 0
  err    : Option Mark := none
  reason : Nat := 0
  /-- The refusal is one of a message, CF_SEND_REFUSED at the sender, and not one of a window. -/
  asSend : Bool := false
  xrank  : Option Nat := none
  /-- Partition address of the destination of a cross-module write (spec/16 R404). -/
  pa     : Nat := 0
  /-- The cycle before which it does not launch, or does not arrive where it is on the static plane. -/
  ready  : Nat := 0
  /-- The cycle in which its first beat enters the static plane. -/
  inject : Nat := 0
  /-- No slot table carries it to its destination (spec/01 R23, spec/03 R478); the core at which it leaves the plane instead. -/
  lost   : Bool := false
  lostAt : Option Nat := none
  /-- A nibble moves and not a byte (spec/10 R247): is it the high one of its byte at the source, and at the destination? -/
  nib    : Option (Bool × Bool) := none
  /-- It is the last nibble of a row of odd length: the high nibble of its byte at the destination is written as 0 (spec/10 R247). -/
  nibEnd : Bool := false
  /-- The tag it held, once HALT or the close of the run has reclaimed it (spec/08 R227, spec/12 R305). -/
  late   : Option Nat := none
  /-- It came from another module, whose reference for the acknowledgement is `aux` (spec/16 R398). -/
  foreign : Bool := false
  /-- A write into the stockpot (spec/07 R198) or a message carries its words or payload in `data`; the sequence number of a
  message on its route (spec/12 R312). -/
  seq    : Nat := 0
  deriving DecidableEq, Repr

/-- A signal message on its way (spec/06 R153, R154). `ready` is the cycle in which it is applied where it is on the static plane; `xid`
the transfer that holds its tag on the memory plane, 0 for none. -/
structure SigMsg where
  id      : Nat
  srcCore : Nat
  srcRank : Nat
  opAddr  : Nat
  tag     : Nat
  static  : Bool
  dstCore : Nat
  cnt     : Nat
  inc     : Nat
  mark    : Option Mark
  ready   : Nat
  seq     : Nat
  stamp   : Nat
  attached : Bool
  lost    : Bool := false
  lostAt  : Option Nat := none
  /-- It came from another member of the cascade. -/
  foreign : Bool := false
  xid     : Nat := 0
  /-- The reference under which its sender on another member knows it (spec/16 R398). -/
  ref     : Nat := 0
  deriving DecidableEq, Repr

/-! ## Memory stacks, segments, windows and partitions -/

/-- A channel of a stack (spec/11 R276, R277; spec/17 R424). `state` is 0 ON, 1 CLOSING, 2 OFF, 3 OPENING. -/
structure Channel where
  state  : Nat := 0
  reqOff : Bool := false
  ce     : Nat := 0
  ue     : Nat := 0
  ues    : List (Nat × Nat) := []
  deriving DecidableEq, Repr

/-- A segment register (spec/01 R33) with its generation (spec/15 R364). -/
structure Segment where
  base  : Nat := 0
  limit : Nat := 0
  v     : Bool := false
  rd    : Bool := false
  wr    : Bool := false
  pl    : Bool := false
  rm    : Bool := false
  /-- Is the segment made of memory units (KIND 0 of MEM_ALLOC)? -/
  units : Bool := false
  deriving DecidableEq, Repr

/-- A window (spec/11 R289). `held` is true from its opening until the completion of its close (R291). `copies` holds, by the die of the
core or of the edge adapters that keep a copy, the time up to which that copy still shows a closed window open (R294). -/
structure Window where
  base   : Nat := 0
  epoch  : Nat := 0
  isOpen : Bool := false
  kind   : Nat := 0
  core   : Nat := 0
  slot   : Nat := 0
  len    : Nat := 0
  held   : Bool := false
  refusals : Nat := 0
  refStamp : Nat := 0
  copies : Tab Nat := []
  /-- The (core, slot) pairs that closes still in progress hold though the window has opened again (R291). -/
  kept   : List (Nat × Nat) := []
  deriving DecidableEq, Repr

/-- A program slot (spec/15 R383): 0 empty, 1 loading, 2 binary, 3 diagnostic image. -/
structure ProgSlot where
  kind    : Nat := 0
  seg     : Nat := 0
  addr    : Nat := 0
  len     : Nat := 0
  routeAddr : Nat := 0
  routeLen : Nat := 0
  route   : List Byte := []
  wr      : Bool := false
  rm      : Bool := false
  digest  : List Byte := []
  deriving DecidableEq, Repr

/-- The present or last run of a partition (spec/15 R384 to R386, spec/17 R428). `state` is byte 0 of RUN_STATUS. -/
structure Run where
  present  : Bool := false
  state    : Nat := 0
  handle   : Nat := 0
  bucket   : Nat := 0
  diag     : Bool := false
  cores    : List Nat := []
  seq      : Nat := 0
  ts       : Nat := 0
  started  : Bool := false
  endStamp : Nat := 0
  closed   : Bool := false
  /-- When the last of its cores stopped, in nanoseconds as durations count them (spec/12 R305). -/
  lastStop : Nat := 0
  outcome  : Nat := 0
  aborted  : Option Nat := none
  firstErr : Option LogRec := none
  underruns : Nat := 0
  strays   : Nat := 0
  trace    : Option Nat := none
  traceCap : Nat := 0
  written  : Nat := 0
  dropped  : Nat := 0
  micro    : List Nat := []
  deriving DecidableEq, Repr

/-- The membership of a partition in a cascade (spec/16 R403 to R416). -/
structure Cascade where
  joining  : Bool := false
  joined   : Bool := false
  ident    : Nat := 0
  rank     : Nat := 0
  dimX     : Nat := 0
  dimY     : Nat := 0
  dimZ     : Nat := 0
  links    : Nat := 0
  master   : Bool := false
  masterRank : Nat := 0
  twin     : Bool := false
  twinIdent : Nat := 0
  /-- members out of service -/
  lost     : List Nat := []
  /-- members seen at the barrier -/
  arrived  : List Nat := []
  /-- the owner map: (window, rank that holds it open) (R404) -/
  owners   : List (Nat × Nat) := []
  succession : List Nat := []
  lastBeat : Nat := 0
  /-- Time lock has been lost and not regained (R413). -/
  timeLost : Bool := false
  twinOrdinal : Nat := 0
  /-- the outcome of a run whose digests are to be sent (R415) -/
  twinDue : Option Nat := none
  twinOwn  : Option (Nat × Nat × List (List Byte)) := none
  twinOther : Option (Nat × Nat × List (List Byte)) := none
  twinSince : Nat := 0
  /-- the entries to digest: partition address and length (R414) -/
  digests  : List (Nat × Nat) := []
  deriving DecidableEq, Repr

/-- A partition (spec/01 R36, spec/15 R375). -/
structure Part where
  exist    : Bool := false
  destroying : Bool := false
  regions  : Nat := 0
  ports    : Nat := 0
  links    : Nat := 0
  hold     : Bool := false
  memQuota : Nat := 0
  bwQuota  : Nat := 0
  rate     : Nat := 0
  burst    : Nat := 0
  wtBase   : Nat := 0
  wtCount  : Nat := 0
  buckets  : Tab (Nat × Nat) := []
  windows  : Tab Window := []
  progs    : Tab ProgSlot := []
  /-- The digest of the micro-mode images and profile tables it was created with (spec/18 R447). -/
  images   : List Byte := []
  run      : Run := {}
  cascade  : Cascade := {}
  deriving DecidableEq, Repr

/-! ## Host interface -/

/-- A queue pair (spec/15 R362): kind 0 a mailbox, 1 a data queue pair; scope 0 to 7 or 255; its path MTU (R359). Port 8 is the service
port. -/
structure QPair where
  q     : Nat
  port  : Nat
  scope : Nat
  kind  : Nat
  mtu   : Nat := 4096
  deriving DecidableEq, Repr

/-- A frame the module sends (spec/15 R365). -/
structure Frame where
  kind   : Nat
  scope  : Nat
  flags  : Nat
  opcode : Nat
  status : Nat
  seq    : Nat
  stamp  : Nat
  fields : List Byte
  deriving DecidableEq, Repr

/-- The sequence and event state of a scope (spec/15 R367, R370). -/
structure Scope where
  smax     : Nat := 0
  recorded : List Frame := []
  eventSeq : Nat := 0
  held     : List Frame := []
  dropped  : Nat := 0
  dropFirst : Nat := 0
  dropLast : Nat := 0
  deriving DecidableEq, Repr

/-- A command that waits in a receive buffer (spec/15 R392). -/
structure Waiting where
  q      : Nat
  opcode : Nat
  h      : CmdHdr
  body   : List Byte
  deriving DecidableEq, Repr

/-- A WINDOW_OPEN of a member that waits for the master (spec/16 R404): its mailbox, partition, header, fields and window, and once the
master has answered, whether it has. -/
structure Parked where
  q      : Nat
  part   : Nat
  h      : CmdHdr
  body   : List Byte
  win    : Nat
  answered : Bool
  deriving DecidableEq, Repr

/-- A long command in progress (spec/15 R369): its kind is its opcode; `a` and `b` name what it holds. -/
structure LongCmd where
  scope  : Nat
  seq    : Nat
  opcode : Nat
  a      : Nat
  b      : Nat
  stamp  : Nat
  /-- The first of the module's running numbers that was free at its acceptance. -/
  mark   : Nat
  deriving DecidableEq, Repr

/-- An RDMA write accepted and not yet answered (spec/15 R364, R379). -/
structure RdmaReq where
  id   : Nat
  q    : Nat
  part : Nat
  seg  : Nat
  deriving DecidableEq, Repr

/-- What the module has sent. -/
inductive Sent where
  | frame (q : Nat) (f : Frame)
  | rnrNak (q : Nat)
  | cnp (q : Nat)
  | cmRej (port : Nat) | cmRep (port q : Nat) | dreq (q : Nat)
  | rdmaAck (q : Nat) | rdmaData (q : Nat) (bytes : List Byte) | rdmaAccessNak (q : Nat) | rdmaOpNak (q : Nat)
  | net (port : Nat) (f : NetFrame)
  | flit (link : Nat) (f : Flit)
  | training (link : Nat) (p : PeerId)
  | smbus (bytes : List Byte)
  | smbusNack
  | alertAddress
  deriving DecidableEq, Repr

/-- The host interface. -/
structure HostIf where
  qps      : List QPair := []
  nextQ    : Nat := 1
  scopes   : Tab Scope := []
  long     : List LongCmd := []
  rdma     : List RdmaReq := []
  drops    : Tab Nat := []
  cnps     : Tab Nat := []
  slowed   : Nat := 0
  locked   : Nat := 0
  lostAt   : Tab Nat := []
  neighbours : List (Nat × Nat) := []
  addresses : Tab (List Nat) := []
  waiting  : List Waiting := []
  parked   : List Parked := []
  sent     : List Sent := []
  deriving DecidableEq, Repr

/-! ## Errors and logs -/

/-- A hedged unit (spec/17 R424, R425): kind 1 failure, 2 repeat. -/
structure Hedge where
  domain : Nat
  index  : Nat
  kind   : Nat
  stamp  : Nat
  cause  : LogRec
  returning : Option (Nat × Nat)
  deriving DecidableEq, Repr

/-- The last recovery of a unit: from the stamp of an error record until it ends (spec/17 R425). -/
structure Recovery where
  domain : Nat
  index  : Nat
  stamp  : Nat
  stop   : Option Nat
  deriving DecidableEq, Repr

/-- A sideband input (spec/17 R429): its filtered level, high or low, and is it in chatter; the stamps since when it counts as
asserted, of its last periodic entry, of the start of its chatter and of the last entry about that. -/
structure Pin where
  high     : Bool := true
  chatter  : Bool := false
  /-- 1 more than the time of the last change of the filtered level; the latest change of the raw level that is known. -/
  changed  : Nat := 0
  rawAt    : Nat := 0
  since    : Nat := 0
  noted    : Nat := 0
  chatAt   : Nat := 0
  chatNoted : Nat := 0
  deriving DecidableEq, Repr

/-- Errors, hedges and logs. -/
structure Errors where
  transit   : List LogRec := []
  queue     : List LogRec := []
  overflows : Nat := 0
  log       : List LogRec := []
  nextSeq   : Nat := 0
  dropped   : Nat := 0
  lost      : Nat := 0
  /-- The 1-second boundary after the second in which `lost` entries were dropped (R427). -/
  lostAt    : Nat := 0
  /-- The serial of the next queued record (R421); the SEQ below which every record is in the flash since the last power-on (R427). -/
  serial    : Nat := 0
  flashed   : Nat := 0
  inSecond  : Nat := 0
  hedges    : List Hedge := []
  recoveries : List Recovery := []
  /-- The dies with a bridge slip that have not been retrained since, one bit each (spec/03 R99). -/
  slipped   : Nat := 0
  rstN      : Pin := {}
  throttleN : Pin := {}
  presentN  : Pin := {}
  deriving DecidableEq, Repr

/-! ## Clocks, time and power (spec/14) -/

/-- A region's replica (spec/14 R344). -/
structure Replica where
  margin  : Nat := 255
  warn    : Bool := false
  alarm   : Bool := false
  warnTh  : Nat := 0x10
  alarmTh : Nat := 0x08
  deriving DecidableEq, Repr

/-- Clocks, time base and power. -/
structure Clocks where
  now      : Nat := 0
  source   : Nat := 0
  /-- The source that the management controller has set, which a member of a cascade uses where it is the master, and after it has left
  (R349, spec/16 R413). -/
  ownSource : Nat := 0
  locked   : Bool := false
  refLost  : Bool := false
  /-- When the reference was lost, in nanoseconds since power-on (R350). -/
  refLostAt : Nat := 0
  offset   : Int := 0
  /-- What is left of the offset last measured, once corrections have been made (R349). -/
  toGo     : Int := 0
  inBand   : Nat := 0
  ppsStamp : Nat := 0
  /-- The last accepted PPS edge, in nanoseconds since power-on (spec/19 R469). -/
  ppsAt    : Option Nat := none
  ppsCands : List Nat := []
  ppsRejects : Nat := 0
  ppsFirst : Nat := 0
  slew     : Int := 0
  cycles   : Nat := 0
  phase    : Int := 0
  /-- The value of the counter at the rising edge of the present cycle, with which the cores stamp its events (R348). -/
  edgeAt   : Nat := 0
  /-- One more than the last cycle whose own events have taken place (MODEL's own, n2). -/
  settled  : Nat := 0
  /-- Nanoseconds since power-on: what is left of the counter without its corrections (MODEL's own, n2). Durations are counted on it. -/
  ns       : Nat := 0
  present  : Nat := 0
  target   : Nat := 0
  cap      : Nat := 0x18
  gliding  : Bool := false
  /-- The step that the step in progress of a glide ends at, and when (R341). -/
  heading  : Nat := 0
  glideAt  : Nat := 0
  throttle : Bool := false
  cause    : Nat := 0
  glides   : Nat := 0
  /-- A firmware target that waits for a step boundary, with its cause (R342). -/
  pendTarget : Option (Nat × Nat) := none
  /-- The alarm hold: its target and when the alarm came (R345). -/
  alarmHold : Option (Nat × Nat) := none
  thermalHold : Bool := false
  fwStep   : Nat := 0
  /-- The last evaluation of the firmware step (R340). -/
  evalAt   : Option Nat := none
  lastRaise : Nat := 0
  lastLower : Nat := 0
  /-- A warning came while the controller restarted: its step down is still due (R345, R430). -/
  warnDue  : Bool := false
  /-- A warning or an alarm has not been recovered from (R345). -/
  recover  : Bool := false
  /-- By region, 1 more than the time since which its margin stands at or above WARN_TH + 8, and than that at which it fell below
  ALARM_TH; the time at which F0 was reached. -/
  goodSince : Tab Nat := []
  badSince : Tab Nat := []
  f0Since  : Nat := 0
  replicas : Tab Replica := []
  lastRefill : Option Nat := none
  slewAt   : Option Nat := none
  powerLimit : Option Nat := none
  /-- What forces FLOOR (R352): bit 0 a kit mismatch, bit 1 cooling lost. -/
  floorForced : Nat := 0
  deriving DecidableEq, Repr

/-! ## Links (spec/16) -/

/-- A Galed link (spec/16 R394 to R401). Credits and buffers are indexed by 2·vc + class, flits to be sent by channel. -/
structure Link where
  state    : Nat := 0
  role     : Nat := 7
  twin     : Bool := false
  peerRank : Nat := 0
  peerLink : Nat := 0
  retrains : Nat := 0
  corr     : Nat := 0
  uncorr   : Nat := 0
  replays  : Nat := 0
  -- transmitter: next FSEQ, flits not acknowledged, flits to be sent, how many flits of other channels data has let pass, credits
  txSeq    : Nat := 0
  replay   : List Flit := []
  txq      : Tab (List Flit) := []
  passed   : Nat := 0
  credits  : Tab Nat := []
  -- packets not wholly acknowledged: channel, class, packet, and the FSEQ of its last flit once sent
  packets  : List (Nat × Nat × Packet × Option Nat) := []
  -- receiver: next FSEQ, last good FSEQ, discarding, flits held, credits to return
  rxSeq    : Nat := 0
  lastAck  : Nat := 4095
  asked    : Bool := false
  buf      : Tab (List Flit) := []
  owed     : Tab Nat := []
  -- training: the step in progress and the last one to take, the attempt, since when; the flit last asked for again, and how often
  step     : Nat := 0
  upto     : Nat := 4
  attempt  : Nat := 0
  since    : Nat := 0
  /-- the one-way delay that step 4 has fixed, in tenths of a nanosecond (R399) -/
  delay    : Nat := 0
  /-- when it last left service -/
  outAt    : Nat := 0
  again    : Nat × Nat := (0, 0)
  deriving DecidableEq, Repr

/-! ## Management (spec/18, spec/19) -/

/-- A firmware slot: the image's bytes, and what its header and its checks give (spec/18 R441, R442): does the certificate chain to the
root, does the signature hold, do the controller component and the other components match their digests; how many pages the last write of
the slot has put into its spare pages (R431); SV, SV_COMMIT, the versions of the controller and the command
processor firmware; and the digests of the four components and of the micro-mode images with the profile tables (R439, R447). -/
structure Slot where
  bytes   : List Byte := []
  certOk  : Bool := true
  sigOk   : Bool := true
  ctlOk   : Bool := true
  partsOk : Bool := true
  spares  : Nat := 0
  sv      : Nat := 0
  commit  : Bool := false
  mgtVer  : Nat := 0
  cpVer   : Nat := 0
  digests : List (List Byte) := []
  deriving DecidableEq, Repr

/-- The management controller. -/
structure Mgt where
  phase      : Nat := 0
  activeSlot : Nat := 0
  stagedOk   : Bool := false
  staging    : Bool := false
  activating : Bool := false
  paused     : Bool := false
  /-- The last step of R446 that an activation has taken, by 3 its switch of the slots. -/
  actStep    : Nat := 0
  /-- The controller or the hub has failed in start-up; E0 to E7 are trained (R449, R450). -/
  failed     : Bool := false
  portsDone  : Bool := false
  /-- The cables in the Galed connectors as last read (spec/19 R460). -/
  cables     : Tab Cable := []
  profile    : Nat := 0
  slotId     : Nat := 0
  key        : Nat := 0
  mgtVer     : Nat := 0
  cpVer      : Nat := 0
  /-- Slots A (0) and B (1). -/
  slots      : Tab Slot := [(1, { certOk := false })]
  staged     : List Byte := []
  /-- The ROM has booted the controller; the slot and the check that failed if it fell back (R441). -/
  booted     : Bool := false
  fallback   : Option (Nat × Nat) := none
  restarting : Bool := false
  restartAt  : Nat := 0
  sensors    : Tab (Int × Bool) := []
  page       : Nat := 0
  stInput    : Nat := 0
  stTemp     : Nat := 0
  stCml      : Nat := 0
  stMfr      : Nat := 0
  vinUv      : Bool := false
  off        : Bool := false
  condInput  : Nat := 0
  condTemp   : Nat := 0
  condMfr    : Nat := 0
  kitKind    : Nat := 0
  /-- When FLOOR was last forced; the last inlet temperature, and the first after a gap of 1 s; since when the flow is low, and when it
  last was good again after 1 s of it; when the kit last came to bear out the key (spec/14 R352). -/
  forcedAt   : Nat := 0
  inletAt    : Nat := 0
  inletBack  : Nat := 0
  flowLowAt  : Option Nat := none
  flowBack   : Nat := 0
  matchAt    : Nat := 0
  /-- The last 100 readings of the input power and of the input current, the newest first (spec/14 R353; spec/19 R464). -/
  powers     : List Int := []
  currents   : List Int := []
  kitSerial  : Nat := 0
  moduleOn   : Bool := false
  /-- The breaker has latched the hot-swap open (spec/19 R464). -/
  latched    : Bool := false
  inputMv    : Int := 0
  deriving DecidableEq, Repr

/-! ## The state -/

/-- The module. -/
structure State where
  fuses    : Fuses
  clk      : Clocks
  cores    : Tab Core
  mem      : Memory
  ecc      : Tab Nat
  chans    : Tab Channel
  unitOwner : Tab Nat
  segs     : Tab Segment
  gens     : Tab Nat
  parts    : Tab Part
  tickets  : Tab Nat
  slotTables : Memory
  xfers    : List Xfer
  sigs     : List SigMsg
  host     : HostIf
  err      : Errors
  links    : Tab Link
  mgt      : Mgt
  nextId   : Nat
  fresh    : Nat
  pending  : List Instr
  deriving DecidableEq, Repr

/-- The faults of the model: the module stops with none that the spec describes as an effect on its state. -/
inductive Fault where
  /-- An input above 100 V or a reverse voltage beyond −100 V may damage the module (spec/19 R461); raised by the input
  commands. Safe: nothing is said of what follows. -/
  | mayBeDamaged
  deriving DecidableEq, Repr

/-- The refusals of the model. -/
inductive Refusal where
  /-- An arm of exec that has no meaning yet. Safe. -/
  | notModelled (mnemonic : String)
  /-- The command names an event that cannot happen in this state: no such op is due, no such transfer is in flight, no such
  command is in progress (n5). Raised by the meanings of events. Safe: the hardware has no such step. -/
  | notEnabled (mnemonic : String)
  deriving DecidableEq, Repr

/-- The outcome of a command. -/
abbrev Out := Host.Outcome State Fault Refusal

/-- The module at power-on, before the input rail is up (spec/18 R449 PHASE 0). -/
def State.reset : State :=
  { fuses := {}, clk := {}, cores := [], mem := [], ecc := [], chans := [], unitOwner := [],
    segs := [], gens := [], parts := [], tickets := [], slotTables := [], xfers := [], sigs := [], host := {}, err := {},
    links := [], mgt := {}, nextId := 1, fresh := 0, pending := [] }

end Sys2Proof.Machine
end

