-- ==== Sys2Proof/Machine/Ops.lean ====
section
/-!
DEFINITION. Sys2Proof/Machine/Ops.lean: the named operations over the state: geometry and the address map (spec/00, 01),
records and logs (spec/17), the fault of a core (spec/17 R419, R423), counters (spec/12), the range tracker (spec/03),
transfers and tags (spec/08 R210), translation (spec/01 R35), and events to the host (spec/15 R370).
-/
namespace Sys2Proof.Machine

/-! ## Geometry and profiles -/

/-- Enabled cores of a die (spec/00 R5). -/
def State.perDie (s : State) : Nat := if s.fuses.grade = .tx960 then 72 else 64

/-- Number of cores: 288 or 256. -/
def State.nCores (s : State) : Nat := 4 * s.perDie

/-- The compute die of a core. -/
def State.dieOf (s : State) (c : Nat) : Nat := c / s.perDie

/-- The logical number of a core on its die. -/
def State.localOf (s : State) (c : Nat) : Nat := c % s.perDie

/-- The clock region of a core (spec/01 R19): a quarter of the die's enabled cores each. -/
def State.regionOf (s : State) (c : Nat) : Nat := 4 * s.dieOf c + s.localOf c / (s.perDie / 4)

/-- A core. -/
def State.core (s : State) (c : Nat) : Core := Tab.get {} s.cores c

/-- Replace a core. -/
def State.setCore (s : State) (c : Nat) (k : Core) : State := { s with cores := Tab.set {} s.cores c k }

/-- Change a core. -/
def State.modCore (s : State) (c : Nat) (f : Core → Core) : State := s.setCore c (f (s.core c))

/-- Every core of a list changed. -/
def State.modCores (s : State) (cs : List Nat) (f : Core → Core) : State := cs.foldl (fun s c => s.modCore c f) s

/-- A partition. -/
def State.part (s : State) (p : Nat) : Part := Tab.get {} s.parts p

/-- Replace a partition. -/
def State.setPart (s : State) (p : Nat) (x : Part) : State := { s with parts := Tab.set {} s.parts p x }

/-- Change a partition. -/
def State.modPart (s : State) (p : Nat) (f : Part → Part) : State := s.setPart p (f (s.part p))

/-- Change the run of a partition. -/
def State.modRun (s : State) (p : Nat) (f : Run → Run) : State := s.modPart p fun x => { x with run := f x.run }

/-- The eight partition numbers. -/
def partNumbers : List Nat := [0, 1, 2, 3, 4, 5, 6, 7]

/-- The partition that owns a clock region, if any (spec/01 R36). -/
def State.regionOwner (s : State) (r : Nat) : Option Nat :=
  partNumbers.find? fun p => (s.part p).exist && bit (s.part p).regions r

/-- The partition that owns a core. -/
def State.partOf (s : State) (c : Nat) : Option Nat := s.regionOwner (s.regionOf c)

/-- The cores of a partition in ascending global index: the partition core index counts them (spec/06 R172). -/
def State.coresOf (s : State) (p : Nat) : List Nat :=
  (List.range s.nCores).filter fun c => bit (s.part p).regions (s.regionOf c)

/-- Has the core's partition a run (spec/12 R306)? -/
def State.runOf (s : State) (c : Nat) : Option Nat :=
  match s.partOf c with
  | some p => if (s.part p).run.present then some p else none
  | none => none

/-- Does the core run under TP1 (spec/03 R101)? -/
def State.tp1 (s : State) (c : Nat) : Bool :=
  s.fuses.stepping = .a1 || (match s.partOf c with | some p => (s.part p).hold | none => false)

/-- The time base. -/
def State.now (s : State) : Nat := s.clk.now
/-- The count of compute cycles (MODEL's own, n2). -/
def State.cyc (s : State) : Nat := s.clk.cycles
/-- The low 32 bits of the time stamp. -/
def State.stamp32 (s : State) : Nat := s.clk.now % 2 ^ 32
/-- The stamp of a core's events: the counter at the rising edge of the present cycle (spec/14 R348). -/
def State.coreNow (s : State) : Nat := s.clk.edgeAt
/-- Its low 32 bits. -/
def State.coreStamp (s : State) : Nat := s.clk.edgeAt % 2 ^ 32
/-- Nanoseconds, as durations count them. -/
def State.ns (s : State) : Nat := s.clk.ns

/-- CORE_CYCLE of a core (spec/03 R96). -/
def State.coreCycle (s : State) (c : Nat) : Nat :=
  if (s.core c).running then s.cyc - (s.core c).startCyc else (s.core c).cycle

/-- A fresh number. -/
def State.takeId (s : State) : Nat × State := (s.nextId, { s with nextId := s.nextId + 1 })

/-! ## Latencies of spec/03 R100 -/

/-- Issue to first loader request or hand-off. -/
def latIss (tp1 : Bool) : Nat := if tp1 then 4 else 3
/-- Loader. -/
def latLd (tp1 : Bool) : Nat := if tp1 then 6 else 5
/-- Layout unit. -/
def latLay (tp1 : Bool) : Nat := if tp1 then 4 else 3
/-- Matrix array. -/
def latArr (tp1 : Bool) : Nat := if tp1 then 262 else 260
/-- Matrix-vector unit. -/
def latMvu (tp1 : Bool) : Nat := if tp1 then 14 else 12
/-- Stockpot: term in to element updated. -/
def latPot (tp1 : Bool) : Nat := if tp1 then 5 else 4
/-- Stockpot: row read for DRAIN to row out. -/
def latRow (tp1 : Bool) : Nat := if tp1 then 4 else 3
/-- Whisk engine with a program of `n` steps. -/
def latWhisk (tp1 : Bool) (n : Nat) : Nat := (if tp1 then 6 else 4) + n
/-- Convert unit. -/
def latCv (tp1 : Bool) : Nat := if tp1 then 3 else 2
/-- Store: beat in to commit. -/
def latSt (tp1 : Bool) : Nat := if tp1 then 4 else 3
/-- Own counter: increment to visible value. -/
def latCnt (tp1 : Bool) : Nat := if tp1 then 3 else 2
/-- Static plane: b beats through h routers (spec/01 R22). -/
def latStatic (tp1 : Bool) (b h : Nat) : Nat := (if tp1 then 6 else 4) + 2 * h + (b - 1)

/-! ## The module address map (spec/01 R27 to R32) -/

/-- What a module address names. -/
inductive Loc where
  | mem (die stack chan : Nat)
  | absent
  | scratch (core off : Nat)
  | reg (a : Nat)
  | reserved
  deriving DecidableEq, Repr

/-- decode_memory of R28, without the test for absence. -/
def decodeMemory (pa : Nat) : Nat × Nat × Nat :=
  let d := pa / 0x3C00000000
  let o := pa % 0x3C00000000
  let st := 5 * d + o / 0xC00000000
  let w := o % 0xC00000000
  let g := w / 0x300000000
  (d, st, 8 * g + bits pa 11 9)

/-- The place a module address names (R27, R29, R31, R32). -/
def State.locate (s : State) (a : Nat) : Loc :=
  if a < 0xF000000000 then
    let m := decodeMemory a
    if s.fuses.grade = .tx768 ∧ a % 0x3C00000000 ≥ 0x3000000000 then .absent else .mem m.1 m.2.1 m.2.2
  else if 0x10000000000 ≤ a ∧ a < 0x10200000000 then
    let o := a - 0x10000000000
    let d := o / 0x80000000
    let n := o % 0x80000000 / 0x1000000
    let f := o % 0x1000000
    if n < s.perDie ∧ f < 0xC00000 then .scratch (d * s.perDie + n) f else .reserved
  else if 0x80000000000 ≤ a ∧ a < 0x90500000000 then .reg a
  else .reserved

/-- The module address of a scratchpad offset (R31). -/
def State.aliasOf (s : State) (c f : Nat) : Nat :=
  0x10000000000 + s.dieOf c * 0x80000000 + s.localOf c * 0x1000000 + f

/-- The memory unit of an address (R29). -/
def unitOf (a : Nat) : Nat := a / 0x40000000

/-- The partition that owns a memory unit. -/
def State.ownerOfUnit (s : State) (u : Nat) : Option Nat :=
  match Tab.get 0 s.unitOwner u with
  | 0 => none
  | p + 1 => some p

/-- The number of a channel of a stack: 32s + c (spec/15 R373). -/
def chanNo (stack chan : Nat) : Nat := 32 * stack + chan

/-- A channel. A channel absent in the grade is never accepted (R276). -/
def State.chan (s : State) (n : Nat) : Channel := Tab.get {} s.chans n

/-- Change a channel. -/
def State.modChan (s : State) (n : Nat) (f : Channel → Channel) : State :=
  { s with chans := Tab.modify {} s.chans n f }

/-! ## Hedges (spec/17 R424) -/

/-- Is a unit hedged? -/
def State.hedgedUnit (s : State) (domain index : Nat) : Bool :=
  s.err.hedges.any fun h => h.domain == domain && h.index == index

/-- Is a die hedged? -/
def State.dieHedged (s : State) (d : Nat) : Bool := s.hedgedUnit 2 d

/-- Is a core hedged, by itself, its region or its die (spec/01 R41)? -/
def State.coreHedged (s : State) (c : Nat) : Bool :=
  s.hedgedUnit 0 c || s.hedgedUnit 1 (s.regionOf c) || s.dieHedged (s.dieOf c)

/-- Has a bridge of a die slipped since the die was last trained (spec/03 R99)? -/
def State.slipped (s : State) (d : Nat) : Bool := bit s.err.slipped d

/-- Is a core closed to remote accesses: hedged, or in micro mode (spec/11 R288)? -/
def State.coreShut (s : State) (c : Nat) : Bool := s.coreHedged c || (s.core c).micro.on

/-- Why an address cannot be reached: the cause of CF_TARGET_UNAVAILABLE (spec/11 R279). -/
def State.unreachable (s : State) (a : Nat) : Option Nat :=
  match s.locate a with
  | .mem d st ch =>
    if s.dieHedged d then some 2
    else if (s.chan (chanNo st ch)).state ≠ 0 ∨ s.hedgedUnit 3 (chanNo st ch) then some 1 else none
  | .scratch c _ => if s.coreShut c then some 4 else none
  | _ => some 3

/-! ## Records and logs (spec/17) -/

/-- The 64 bytes of a record (R418). -/
def LogRec.bytes (r : LogRec) : List Byte :=
  toLE 8 r.stamp ++ toLE 8 r.seq ++ toLE 1 r.cls ++ toLE 1 r.part ++ toLE 2 r.domain ++ toLE 2 r.index ++ toLE 2 r.code
    ++ toLE 1 r.flags ++ toLE 7 0 ++ (r.ctx ++ List.replicate 32 0).take 32

/-- The log holds 262,144 records (R427). -/
def logSize : Nat := 262144

/-- Can the hub write a place of a trace buffer: memory in reach (spec/01 R41)? Its writes carry no window, so that a scratchpad accepts none
(spec/11 R288; DEDUCED, n10). -/
def State.traceable (s : State) (a : Nat) : Bool :=
  match s.locate a with | .mem _ _ _ => (s.unreachable a).isNone | _ => false

/-- Write bytes of a trace buffer, or nothing where they cannot be written. -/
def State.tracePut (s : State) (a : Nat) (bs : List Byte) : State :=
  if s.traceable a then { s with mem := Memory.write s.mem a bs } else s

/-- The bytes that stand at a module address, in memory or in a scratchpad. -/
def State.bytesAt (s : State) (a n : Nat) : List Byte :=
  match s.locate a with
  | .scratch c f => Memory.read (s.core c).scratch f n
  | _ => Memory.read s.mem a n

/-- Append a record to the trace buffer of a partition's run (R428). A record whose place cannot be written counts as dropped (DEDUCED,
n10). -/
def State.traceRec (s : State) (p : Nat) (r : LogRec) : State :=
  let run := (s.part p).run
  match run.trace with
  | none => s
  | some base =>
    if !run.present then s
    else
      let a := base + 64 * (run.written + 1)
      let fits := decide (run.written + 2 ≤ run.traceCap) && s.traceable a
      let w := if fits then run.written + 1 else run.written
      let d := if fits then run.dropped else run.dropped + 1
      let s := if fits then s.tracePut a r.bytes else s
      let hdr := toLE 8 w ++ toLE 8 d ++ toLE 8 run.ts ++ List.replicate 40 0
      (s.tracePut base hdr).modRun p fun x => { x with written := w, dropped := d }

/-- The trace of a record goes to the partition it concerns. -/
def State.traceFor (s : State) (r : LogRec) : State := if r.part < 8 then s.traceRec r.part r else s

/-- Write a record to the event log: queued records are never dropped; others are, beyond 2,000,000 in a second (R427). -/
def State.writeLog (s : State) (r : LogRec) (keep : Bool) : State :=
  if keep || decide (s.err.inSecond < 2000000) then
    let r := { r with seq := s.err.nextSeq, wrote := s.clk.ns }
    let e := s.err
    let s := { s with err := { e with log := (r :: e.log).take logSize, nextSeq := e.nextSeq + 1,
                                      inSecond := e.inSecond + 1 } }
    s.traceFor r
  else
    let r := { r with seq := (Config.droppedSeq s.fresh).toNat }
    let s := { s with fresh := s.fresh + 1, err := { s.err with dropped := s.err.dropped + 1 } }
    s.traceFor r

/-- The partition of a record, 0xFF for none (R418). -/
def partByte (p : Option Nat) : Nat := p.getD 255

/-- An entry that does not pass the error queue (R420). -/
def State.logEntry (s : State) (domain index : Nat) (p : Option Nat) (code : Nat) (ctx : List Byte) : State :=
  s.writeLog { stamp := s.now, part := partByte p, domain := domain, index := index, code := code, ctx := ctx } false

/-- LG_LOG_LOST, stamped with the boundary after the second in which entries were dropped (R427). -/
def State.logLost (s : State) : State :=
  let e := s.err
  ({ s with err := { e with lost := 0 } } : State).writeLog
    { stamp := e.lostAt, part := 255, domain := 8, index := 0, code := 0x0053, ctx := toLE 4 e.lost } true

/-- An entry of a core (R420), with the stamp of its cycle (spec/14 R348). -/
def State.logCore (s : State) (c code : Nat) (ctx : List Byte) : State :=
  s.writeLog { stamp := s.coreNow, part := partByte (s.partOf c), domain := 0, index := c, code := code, ctx := ctx } false

/-- A record that passes the error queue: it is on its way there, with the next serial of its source (R421). -/
def State.raise (s : State) (r : LogRec) : State :=
  { s with err := { s.err with transit := s.err.transit ++ [{ r with serial := s.err.serial }], serial := s.err.serial + 1 } }

/-- A queued entry (R420). -/
def State.queueEntry (s : State) (domain index : Nat) (p : Option Nat) (code : Nat) (ctx : List Byte) : State :=
  s.raise { stamp := s.now, part := partByte p, domain := domain, index := index, code := code, ctx := ctx }

/-! ## Core faults (spec/17 R419, R423; spec/06 R168, R476) -/

/-- The transfers of a core that have not launched are dropped (spec/15 R385, spec/06 R476). -/
def State.dropWaiting (s : State) (c : Nat) : State :=
  { s with xfers := s.xfers.filter fun x => !(x.core == c && x.stage == .waiting) }

/-- LOADPROG data in flight is discarded (spec/06 R168): its acknowledgement writes nothing. -/
def State.dropPrograms (s : State) (c : Nat) : State :=
  { s with xfers := s.xfers.map fun x =>
      if x.core == c && (x.kind == .program || x.kind == .descriptors) then { x with stage := .discarded } else x }

/-- A core stops issuing for a fault, a hedge or an abort: it sends no further signal, launches nothing more and its program
and descriptor blocks are invalid (R168, R385, R476). -/
def State.stopCore (s : State) (c : Nat) (faulted : Bool) : State :=
  let k := s.core c
  let live := k.running || k.halting.isSome
  let cycle := if k.running then s.cyc - k.startCyc + 1 else k.cycle
  let k := { k with running := false, cycle := cycle, faulted := k.faulted || (faulted && live), halting := none,
                    haltSigs := [], pvalid := 0, dvalid := 0, pend := k.pend.map fun o => { o with sigs := [] } }
  let s := match s.runOf c with
    | some p => s.modRun p fun r => { r with lastStop := s.ns }
    | none => s
  ((s.setCore c k).dropWaiting c).dropPrograms c

/-- A core raises a fault: the record goes to the error queue, and the core stops (R419, R421, R423). -/
def State.coreFault (s : State) (c : Nat) (f : CFault) : State :=
  let k := s.core c
  let cyc := if k.running then s.cyc - k.startCyc + 1 else k.cycle
  let ctx := toLE 2 f.opAddr ++ toLE 1 (if k.micro.on then k.micro.mfc else 0) ++ toLE 1 f.ring ++ toLE 8 cyc ++ f.fields
  let s := s.raise { stamp := s.coreNow, cls := 1, part := partByte (s.partOf c), domain := 0, index := c, code := f.code,
                     ctx := ctx, micro := k.micro.on }
  if k.running || k.halting.isSome then s.stopCore c true else s

/-- CF_MEM_UNCORRECTABLE or CF_TARGET_UNAVAILABLE from a mark that a wait, a CLOSE or HALT at `opAddr` meets (spec/12 R296, R303,
R419). The first has a field of its own for the op that sent the mark; the record of the second names that op in bytes 32 to 33
(spec/11 R279; DEDUCED, n15). -/
def Mark.fault (m : Mark) (opAddr : Nat) : CFault :=
  if m.kind = 1 then ⟨0x09, opAddr, 0, toLE 6 m.addr ++ toLE 2 m.opAddr ++ toLE 2 m.core⟩
  else ⟨0x12, m.opAddr, 0, toLE 6 m.addr ++ toLE 1 m.cause⟩

/-- CF_SEND_REFUSED (R419). -/
def sendRefused (opAddr tag reason dst rank : Nat) : CFault :=
  ⟨0x05, opAddr, 0, toLE 2 tag ++ toLE 1 reason ++ toLE 2 dst ++ toLE 2 rank⟩

/-- CF_WINDOW_CLOSED (R419). -/
def windowClosed (opAddr win epoch reason : Nat) : CFault :=
  ⟨0x0A, opAddr, 0, toLE 1 win ++ toLE 2 epoch ++ toLE 1 reason⟩

/-! ## Banks and what is still to come (spec/03 R80, R81) -/

/-- The bank of a scratchpad offset (R80). -/
def bankOf (a : Nat) : Nat := a / 512 % 48

/-- The banks that `n` bytes from an offset lie in, line by line. -/
def banksOf (a n : Nat) : List Nat :=
  if n = 0 then [] else (List.range ((a + n - 1) / 512 - a / 512 + 1)).map fun i => (a / 512 + i) % 48

/-- CF_BANK_CONFLICT of two ports (R81, spec/17 R419). -/
def bankConflict (opAddr bank a b : Nat) : CFault := ⟨0x0F, opAddr, 0, toLE 1 bank ++ toLE 1 a ++ toLE 1 b⟩

/-- Something befalls a core in a cycle to come. -/
def Core.await (k : Core) (cyc : Nat) (l : Late) : Core := { k with later := k.later ++ [(cyc, l)] }

/-! ## Counters (spec/12) -/

/-- A counter of a core. -/
def Core.cnt (k : Core) (n : Nat) : Counter := Tab.get {} k.cnts n

/-- Replace a counter. -/
def Core.setCnt (k : Core) (n : Nat) (x : Counter) : Core := { k with cnts := Tab.set {} k.cnts n x }

/-- The value a wait sees at a cycle: increments not yet visible do not count (R297). -/
def Counter.visible (x : Counter) (cyc : Nat) : Nat :=
  x.value - (x.recent.filter fun r => decide (cyc < r.1)).foldl (fun t r => t + r.2) 0

/-- The bytes of a ring's status word (R317). -/
def Ring.statusWord (r : Ring) (now : Nat) : List Byte :=
  toLE 4 r.head ++ toLE 4 r.tail ++ toLE 4 r.recs.length ++ toLE 4 r.refused ++ toLE 8 r.written ++ toLE 8 now

/-- A ring of a core. -/
def Core.ring (k : Core) (i : Nat) : Ring := Tab.get {} k.rings i

/-- Ring size Z (R314). -/
def Ring.z (r : Ring) : Nat := 4096 * 2 ^ r.size

/-- Records left after `n` bytes from HEAD are released: a record goes when its last byte does (R316). -/
def dropRecs : List Nat → Nat → List Nat
  | [], _ => []
  | l :: ls, n => if n = 0 then l :: ls else if l ≤ n then dropRecs ls (n - l) else (l - n) :: ls

/-- A release of `n` bytes (R316). -/
def Ring.release (r : Ring) (n : Nat) : Ring :=
  { r with head := (r.head + n) % r.z, used := r.used - n, recs := dropRecs r.recs n }

/-- Write a ring back, with its status word (R317). -/
def Core.putRing (k : Core) (i : Nat) (r : Ring) (now : Nat) : Core :=
  { k with rings := Tab.set {} k.rings i r, scratch := Memory.write k.scratch r.status (r.statusWord now) }

/-- The ring a counter releases (R316). -/
def Core.ringOf (k : Core) (n : Nat) : Option Nat :=
  [0, 1, 2, 3].find? fun i => let r := k.ring i; r.v && r.relCnt == n

/-- CF_COUNTER_OVER (R419). -/
def counterOver (x : Counter) (n inc ring : Nat) (src : IncSrc) : CFault :=
  ⟨0x02, src.word, ring, toLE 1 n ++ toLE 2 src.core ++ toLE 2 src.rank ++ toLE 6 x.ceil ++ toLE 6 x.value ++ toLE 3 inc⟩

/-- LG_COUNTER_MARKED for a mark that finds one recorded (R303). -/
def State.logMark (s : State) (c n : Nat) (m : Mark) : State :=
  s.logCore c 0x000A (toLE 1 n ++ toLE 1 m.kind ++ toLE 1 m.cause ++ toLE 6 m.addr ++ toLE 2 m.opAddr ++ toLE 2 m.core)

/-- An increment reaches counter `n` of core `c` (R297, R299, R302, R303, R306, R316). -/
def State.increment (s : State) (c n inc : Nat) (mark : Option Mark) (src : IncSrc) : State :=
  let k := s.core c
  let x := k.cnt n
  if (s.runOf c).isNone then
    (s.setCore c (k.setCnt n { x with stray := true })).logCore c 0x0004
      (toLE 1 n ++ toLE 2 src.core ++ toLE 2 src.rank ++ toLE 2 src.word ++ toLE 3 inc)
  else if x.barred = s.cyc + 1 then s
  else
    let ring := k.ringOf n
    let past := !x.isOpen || decide (x.ceil < x.value + inc)
    let excess := match ring with
      | some i => decide ((k.ring i).used < 32 * inc)
      | none => false
    if past || excess then
      (s.setCore c (k.setCnt n { x with barred := s.cyc + 1 })).coreFault c
        (counterOver x n inc (if past then 255 else ring.getD 0) src)
    else
      let seen := (x.recent.filter fun r => decide (s.cyc < r.1)) ++ [(s.cyc + latCnt (s.tp1 c), inc)]
      let again := x.mark.isSome && mark.isSome
      let x := { x with value := x.value + inc, recent := seen, mark := if x.mark.isSome then x.mark else mark }
      let k := k.setCnt n x
      let k := match ring with
        | some i => k.putRing i ((k.ring i).release (32 * inc)) s.coreNow
        | none => k
      let s := s.setCore c k
      match again, mark with
      | true, some m => s.logMark c n m
      | _, _ => s

/-! ## The range tracker (spec/03 R85 to R91) -/

/-- Is an entry valid in a cycle (R88, R89)? -/
def Entry.live (e : Entry) (cyc : Nat) : Bool :=
  e.v && (match e.retire with | some r => decide (cyc ≤ r) | none => true)

/-- Entry `i` of a core. -/
def Core.ent (k : Core) (i : Nat) : Entry := Tab.get {} k.sieve i

/-- A range to be registered: kind codes of R85, space 0 scratchpad or 1 stockpot. -/
structure Range where
  base   : Nat
  len    : Nat
  space  : Nat
  kind   : Nat
  retire : Option Nat
  deriving DecidableEq, Repr

/-- Does an entry conflict with a range (R87)? -/
def Entry.hits (e : Entry) (r : Range) (cyc : Nat) : Bool :=
  e.live cyc && e.space == r.space && decide (r.base < e.base + e.len) && decide (e.base < r.base + r.len)
    && !(r.kind == 1 && e.kind == 1)

/-- The lowest-numbered entry a range conflicts with (R87). -/
def Core.hit (k : Core) (r : Range) (cyc : Nat) : Option Nat :=
  (List.range 96).find? fun i => (k.ent i).hits r cyc

/-- The fault of an overlap (R87, R419). -/
def Core.hitFault (k : Core) (i opAddr : Nat) : CFault :=
  let e := k.ent i
  if e.kind = 3 ∨ e.kind = 4 then ⟨0x0C, opAddr, 0, toLE 1 i ++ toLE 1 e.win ++ toLE 4 e.base ++ toLE 4 e.len⟩
  else ⟨0x01, opAddr, 0, toLE 1 i ++ toLE 1 255 ++ toLE 4 e.base ++ toLE 4 e.len ++ toLE 1 e.kind ++ toLE 2 e.opAddr⟩

/-- The first range that conflicts decides (R87). -/
def Core.checkRanges (k : Core) (rs : List Range) (cyc opAddr : Nat) : Option CFault :=
  rs.findSome? fun r => (k.hit r cyc).map fun i => k.hitFault i opAddr

/-- The free entries of a pool, lowest first: 0 to 63 for ops, 64 to 95 for inbound headers (R85, R475). -/
def Core.freeEntries (k : Core) (inbound : Bool) (cyc : Nat) : List Nat :=
  ((List.range 96).drop (if inbound then 64 else 0)).take (if inbound then 32 else 64) |>.filter
    fun i => !(k.ent i).live cyc

/-- CF_TRACKER_FULL (R91, R419). -/
def trackerFull (opAddr pool need free : Nat) : CFault :=
  ⟨0x0B, opAddr, 0, toLE 1 pool ++ toLE 1 need ++ toLE 1 free⟩

/-- Register ranges in the lowest free entries, in order (R475). -/
def Core.register (k : Core) (rs : List Range) (free : List Nat) (opAddr tag win stamp owner : Nat) : Core :=
  let put (t : Tab Entry) (x : Range × Nat) : Tab Entry :=
    Tab.set {} t x.2 { v := true, base := x.1.base, len := x.1.len, space := x.1.space, kind := x.1.kind,
                       opAddr := opAddr, tag := tag, win := win, stamp := stamp, retire := x.1.retire, owner := owner }
  { k with sieve := (rs.zip free).foldl put k.sieve }

/-- Set the retirement of the entries of an owner that satisfy a test. -/
def Core.retireOwner (k : Core) (owner : Nat) (cyc : Nat) (p : Entry → Bool) : Core :=
  let stop (t : Tab Entry) (i : Nat) : Tab Entry :=
    let e := Tab.get {} t i
    if e.v && e.owner == owner && e.retire.isNone && p e then Tab.set {} t i { e with retire := some cyc } else t
  { k with sieve := (List.range 96).foldl stop k.sieve }

/-! ## Tags and transfers (spec/08 R210, R211) -/

/-- The tags the core's transfers hold. -/
def State.heldTags (s : State) (c : Nat) : List Nat :=
  s.xfers.filterMap fun x => if x.core == c then x.tag else none

/-- The free tags of a core, lowest first (n8). -/
def State.freeTags (s : State) (c : Nat) : List Nat :=
  let held := s.heldTags c
  (List.range 256).filter fun t => !held.contains t

/-- A transfer. -/
def State.xfer (s : State) (x : Nat) : Option Xfer := s.xfers.find? fun t => t.id == x

/-- Change a transfer. -/
def State.modXfer (s : State) (x : Nat) (f : Xfer → Xfer) : State :=
  { s with xfers := s.xfers.map fun t => if t.id == x then f t else t }

/-- Remove a transfer: its tag is free. -/
def State.delXfer (s : State) (x : Nat) : State := { s with xfers := s.xfers.filter fun t => t.id != x }

/-- A freed tag goes to the oldest transfer of the core that waits for one (R210). Another takes a free tag as it launches (n8). -/
def State.giveTag (s : State) (c : Nat) : State :=
  match s.freeTags c with
  | [] => s
  | t :: _ =>
    match s.xfers.find? fun x => x.core == c && x.stage == .waiting && x.tag.isNone && !x.static with
    | some x => s.modXfer x.id fun y => { y with tag := some t }
    | none => s

/-! ## Translation (spec/01 R35) -/

/-- The right a transfer needs: the bit's index within [100:97] (R419). -/
inductive Need where
  | rd | wr | pl | rm
  deriving DecidableEq, Repr

/-- The code of a right. -/
def Need.code : Need → Nat
  | .rd => 0 | .wr => 1 | .pl => 2 | .rm => 3

/-- Does a segment grant a right? -/
def Segment.grants (g : Segment) : Need → Bool
  | .rd => g.rd | .wr => g.wr | .pl => g.pl | .rm => g.rm

/-- Segment `k` of partition `p`. -/
def State.seg (s : State) (p k : Nat) : Segment := Tab.get {} s.segs (64 * p + k)

/-- Change a segment. -/
def State.modSeg (s : State) (p k : Nat) (f : Segment → Segment) : State :=
  { s with segs := Tab.modify {} s.segs (64 * p + k) f }

/-- translate of R35: the module address, or none where the check fails. -/
def State.translate (s : State) (p a len : Nat) (need : Need) : Option Nat :=
  let g := s.seg p (a / 2 ^ 38 % 64)
  let off := a % 2 ^ 38
  if !g.v || decide ((g.limit + 1) * 4096 < off + len) || !g.grants need then none else some (g.base + off)

/-- CF_SEGMENT_RANGE of a failed translation (R419). -/
def segFault (opAddr a len : Nat) (need : Need) : CFault :=
  ⟨0x0E, opAddr, 0, toLE 1 (a / 2 ^ 38 % 64) ++ toLE 1 need.code ++ toLE 6 (a % 2 ^ 38) ++ toLE 4 len⟩

/-- CF_SEGMENT_RANGE of the scratchpad bound (spec/03 R80). -/
def scratchFault (opAddr off len : Nat) : CFault :=
  ⟨0x0E, opAddr, 0, toLE 1 255 ++ toLE 1 255 ++ toLE 6 off ++ toLE 4 len⟩

/-- The size of a scratchpad (R80). -/
def scratchSize : Nat := 0xC00000

/-! ## Sideband inputs (spec/17 R429) -/

/-- Does an input count as asserted: low, or in chatter? -/
def Pin.asserted (x : Pin) : Bool := x.chatter || !x.high

/-! ## What the module sends (spec/15 R370) -/

/-- Send something. -/
def State.send (s : State) (x : Sent) : State := { s with host := { s.host with sent := x :: s.host.sent } }

/-- The bytes of a frame: the 32-byte header, and the fields (R365). -/
def Frame.bytes (f : Frame) : List Byte :=
  toLE 1 1 ++ toLE 1 f.kind ++ toLE 1 f.scope ++ toLE 1 f.flags ++ toLE 2 f.opcode ++ toLE 2 f.status ++ toLE 4 f.fields.length ++ toLE 4 0
    ++ toLE 8 f.seq ++ toLE 8 f.stamp ++ f.fields

/-- The state of a scope: 0 to 7, and 8 for the module. -/
def State.scope (s : State) (i : Nat) : Scope := Tab.get {} s.host.scopes i

/-- Replace the state of a scope. -/
def State.setScope (s : State) (i : Nat) (x : Scope) : State :=
  { s with host := { s.host with scopes := Tab.set {} s.host.scopes i x } }

/-- The SCOPE byte of a scope index. -/
def scopeByte (i : Nat) : Nat := if i < 8 then i else 255

/-- The index of a SCOPE byte. -/
def scopeIndex (b : Nat) : Nat := if b < 8 then b else 8

/-- The mailboxes of a scope. -/
def State.mailboxes (s : State) (i : Nat) : List QPair :=
  s.host.qps.filter fun q => q.kind == 0 && q.scope == scopeByte i

/-- Generate an event of a scope (R370): to every mailbox, or held, 64 at most. It is held in the pause of an activation too (spec/18
R446). -/
def State.event (s : State) (i code : Nat) (fields : List Byte) : State :=
  let x := s.scope i
  let f : Frame := ⟨2, scopeByte i, 0, code, 0, x.eventSeq + 1, s.now, fields⟩
  let x := { x with eventSeq := x.eventSeq + 1 }
  match (if s.mgt.paused then [] else s.mailboxes i) with
  | [] =>
    if x.held.length < 64 then s.setScope i { x with held := x.held ++ [f] }
    else
      match x.held with
      | [] => s.setScope i { x with held := [f] }
      | o :: t =>
        s.setScope i { x with held := t ++ [f], dropped := x.dropped + 1, dropLast := o.seq,
                              dropFirst := if x.dropped = 0 then o.seq else x.dropFirst }
  | qs => qs.foldl (fun s q => s.send (.frame q.q f)) (s.setScope i x)

/-- An event to the module scope and to the partitions a test names. -/
def State.eventBoth (s : State) (code : Nat) (fields : List Byte) (touches : Nat → Bool) : State :=
  (partNumbers.filter fun p => (s.part p).exist && touches p).foldl (fun s p => s.event p code fields)
    (s.event 8 code fields)

/-- CMD_DONE (R370). -/
def State.cmdDone (s : State) (scope seq opcode status : Nat) (result : List Byte) : State :=
  s.event scope 0x8001 (toLE 8 seq ++ toLE 2 opcode ++ toLE 2 status ++ result)

/-- The refusal of an event that cannot happen in the state (n5). -/
def notNow (mnemonic : String) : Out := .refused (.notEnabled mnemonic)

/-- While the input is absent no part of the module runs (spec/18 R448). -/
def State.whenOn (s : State) (mnemonic : String) (o : Out) : Out := if s.mgt.moduleOn then o else notNow mnemonic

end Sys2Proof.Machine
end

