-- ==== Sys2Proof/Machine/Operands.lean ====
section
/-!
DEFINITION. Sys2Proof/Machine/Operands.lean: the macro-op word (spec/06), tensor descriptors and tile plans (spec/10), and the
reads and writes of tensors in a scratchpad with their tag and scale planes (spec/02, spec/05).
-/
namespace Sys2Proof.Machine

/-! ## Checks -/

/-- Why an op does not issue: it is illegal with a reason of spec/06 R159, or the core faults. -/
inductive Stop where
  | illegal (reason : Nat)
  | fault (f : CFault)
  deriving DecidableEq, Repr

/-- A check with its answer. -/
abbrev Check (α : Type) := Except Stop α

/-- The op is illegal with `reason` unless `b`. -/
def need (b : Bool) (reason : Nat) : Check Unit := if b then .ok () else .error (.illegal reason)

/-- The core faults unless `b`. -/
def needF (b : Bool) (f : CFault) : Check Unit := if b then .ok () else .error (.fault f)

/-! ## The macro-op word (spec/06 R146 to R155) -/

/-- The fields of a wait word (R149). -/
def Wait.ofWord (w : Nat) : Wait :=
  ⟨bits w 5 0, bits w 7 6, bits w 31 8, if bits w 51 32 = 0 then 1048576 else bits w 51 32, bits w 55 52⟩

/-- The fields of a signal word (R152). -/
def Sig.ofWord (w : Nat) : Sig := ⟨bits w 5 0, bit w 6, bit w 7, bits w 23 8, bits w 47 24⟩

/-- The macro-op at an address (R146). -/
def Op.ofWord (addr w : Nat) : Op :=
  { addr := addr, word := w, opc := bits w 7 0, var := bits w 15 8, nw := bits w 17 16, ns := bits w 19 18,
    nd := bits w 22 20, trace := bit w 23, dur := bits w 63 32,
    waits := ([bits w 127 64, bits w 191 128].take (bits w 17 16)).map Wait.ofWord,
    sigs := ([bits w 255 192, bits w 319 256].take (bits w 19 18)).map Sig.ofWord,
    drefs := [bits w 335 320, bits w 351 336, bits w 367 352, bits w 383 368].take (bits w 22 20),
    opnd := bits w 511 384 }

/-- The op a core takes next. -/
def Core.nextOp (k : Core) : Op := Op.ofWord k.next (Memory.nat k.pstore (64 * k.next) 64)

/-- Is the program block of an op address valid (spec/03 R83)? -/
def Core.blockValid (k : Core) (addr : Nat) : Bool := bit k.pvalid (addr / 64)

/-- CF_PROGRAM_NOT_LOADED (spec/17 R419). -/
def notLoaded (opAddr slot : Nat) : CFault := ⟨0x0D, opAddr, 0, toLE 1 (opAddr / 64) ++ toLE 2 slot⟩

/-- What R148 and the op references say of an opcode and variant: which variants are defined, which ND it allows, may it carry
an attached increment, and which references are tile plans. -/
structure OpRule where
  varOk  : Nat → Bool
  nds    : Nat → List Nat
  attach : Nat → Bool
  plans  : Nat → List Nat

/-- The rules by opcode (R148; spec/07, spec/08). -/
def opRule : Nat → Option OpRule
  | 0x01 => some ⟨fun v => v < 2, fun _ => [2], fun _ => false, fun _ => []⟩
  | 0x02 => some ⟨fun v => v < 4, fun _ => [1, 2], fun _ => false, fun _ => []⟩
  | 0x03 => some ⟨fun v => v < 8, fun _ => [4], fun _ => false, fun _ => []⟩
  | 0x04 => some ⟨fun v => v < 16 && decide (v % 8 < 5) && !(decide (v = 10) || decide (v = 11)),
                  fun v => if v % 8 = 2 then [0] else [1], fun v => v % 8 == 2, fun _ => []⟩
  | 0x05 => some ⟨fun v => v < 3, fun _ => [1], fun _ => false, fun _ => []⟩
  | 0x10 => some ⟨fun v => v == 0, fun _ => [1, 2, 3, 4], fun _ => false, fun _ => []⟩
  | 0x11 => some ⟨fun v => v == 0, fun _ => [2, 3], fun _ => false, fun _ => [2]⟩
  | 0x12 => some ⟨fun v => v < 4, fun _ => [2], fun _ => false, fun _ => []⟩
  | 0x13 => some ⟨fun v => decide (v % 8 < 5) && v < 32, fun v => if v % 8 = 4 then [2] else [1], fun _ => false,
                  fun _ => []⟩
  | 0x14 => some ⟨fun v => v == 0, fun _ => [1], fun _ => false, fun _ => []⟩
  | 0x20 => some ⟨fun v => v < 16 && !(bit v 1 && bit v 2), fun _ => [2], fun _ => false, fun _ => []⟩
  | 0x21 => some ⟨fun v => v < 2, fun _ => [2], fun _ => true, fun _ => []⟩
  | 0x22 => some ⟨fun v => v < 2, fun _ => [3], fun _ => false, fun _ => []⟩
  | 0x23 => some ⟨fun v => v == 0, fun _ => [3], fun _ => true, fun _ => []⟩
  | 0x24 => some ⟨fun v => v == 0, fun _ => [1], fun _ => true, fun _ => []⟩
  | 0x25 => some ⟨fun v => v < 2, fun _ => [0], fun _ => false, fun _ => []⟩
  | 0x26 => some ⟨fun v => v < 2, fun _ => [1], fun _ => false, fun _ => []⟩
  | 0x30 => some ⟨fun v => v == 0, fun _ => [0], fun _ => false, fun _ => []⟩
  | 0x31 => some ⟨fun v => v < 3, fun _ => [0], fun _ => false, fun _ => []⟩
  | 0x32 => some ⟨fun v => v == 0, fun _ => [0, 1, 2, 3, 4], fun _ => false, fun _ => []⟩
  | 0x3F => some ⟨fun v => v == 0, fun _ => [0], fun _ => false, fun _ => []⟩
  | _ => none

/-- Is a signal word legal on an op that may or may not carry an attached increment (R152)? -/
def sigOk (able : Bool) (g : Sig) : Bool := g.inc != 0 && (!g.attach || (g.remote && able))

/-- Bits of the operand field. -/
def Op.fld (o : Op) (hi lo : Nat) : Nat := bits o.opnd hi lo

/-- The rounding mode in a field of the operands, RNE where the code is none. -/
def Op.rounding (o : Op) (hi lo : Nat) : Rnd := (Rnd.ofCode (o.fld hi lo)).getD .rne

/-- The four entries of SIGNAL's operand field: an entry in use has its reserved bit clear, another is zero (spec/08 R225). -/
def Op.entriesOk (o : Op) : Bool :=
  (List.range 4).all fun e =>
    let w := o.fld (32 * e + 31) (32 * e)
    if bit w 6 then !bit w 7 else w == 0

/-- Are the reserved bits of the operand field zero (R147; spec/07, spec/08)? -/
def Op.opndOk (o : Op) : Bool :=
  let zero (hi lo : Nat) : Bool := o.fld hi lo == 0
  match o.opc with
  | 0x01 => zero 127 109
  | 0x02 => zero 127 118
  | 0x03 => zero 127 127
  | 0x04 => match o.var % 8 with | 2 => zero 127 49 | 3 => zero 127 28 | 4 => zero 127 28 | _ => zero 127 52
  | 0x05 => zero 127 75
  | 0x10 => zero 127 69
  | 0x11 => zero 127 32
  | 0x12 => zero 127 32
  | 0x13 => zero 127 107
  | 0x21 => zero 127 21
  | 0x23 => zero 127 5
  | 0x24 => zero 127 29
  | 0x25 => zero 127 48
  | 0x26 => zero 127 15
  | 0x31 => if o.var = 0 then zero 127 0 else o.entriesOk
  | 0x32 => zero 39 37
  | _ => zero 127 0

/-- Does ND fit what the operand field of a LAYOUT or the block of a WHISK asks for (spec/08 R204, R205)? Where those are themselves
illegal, a later check says so. -/
def Core.ndOk (k : Core) (o : Op) : Bool :=
  match o.opc with
  | 0x10 =>
    let h := Memory.nat k.scratch (o.fld 23 0) 4
    let i := bits h 7 6
    o.fld 23 0 % 256 != 0 || decide (0xC00000 ≤ o.fld 23 0) || i == 0 || o.nd == i + (if bit h 11 then 0 else 1)
  | 0x11 =>
    let m := o.fld 2 0
    m == 7 || o.nd == if m == 2 || m == 3 || m == 4 then 3 else 2
  | _ => true

/-- The offset of the whisk block that an op names (spec/08 R204, spec/07 R199). -/
def Op.blockAt (o : Op) : Option Nat :=
  if o.opc = 0x10 then some (o.fld 23 0) else if o.opc = 0x05 ∧ o.var % 4 = 1 then some (o.fld 74 51) else none

/-- Checks 2 to 4 of R157: the word, its waits and signals, its references (R147, R149, R152, R155). Where one word breaks several parts of
check 2, reason 0x04 goes before 0x05 and that before 0x03 (R157 orders the checks alone; DESIGN CHOICE, n15). -/
def Core.checkWord (k : Core) (o : Op) : Check Unit := do
  let w := o.word
  match opRule o.opc with
  | none => .error (.illegal 0x01)
  | some ru =>
    need (ru.varOk o.var) 0x02
    need (decide (o.nw ≤ 2) && decide (o.ns ≤ 2) && decide (o.nd ≤ 4) && (ru.nds o.var).contains o.nd && k.ndOk o) 0x04
    need (o.dur != 0) 0x05
    need (bits w 31 24 == 0 && o.opndOk) 0x03
    need ((([bits w 127 64, bits w 191 128].drop o.nw) ++ ([bits w 255 192, bits w 319 256].drop o.ns)
      ++ ([bits w 335 320, bits w 351 336, bits w 367 352, bits w 383 368].drop o.nd)).all (· == 0)) 0x03
    need (([bits w 127 64, bits w 191 128].take o.nw).all fun x => bits x 63 56 == 0) 0x03
    need (([bits w 255 192, bits w 319 256].take o.ns).all fun x => bits x 63 48 == 0) 0x03
    need (o.sigs.all (sigOk (ru.attach o.var))) 0x06
    need ((o.drefs.zip [0, 1, 2, 3]).all fun x =>
      decide (x.1 < 2048) && ((ru.plans o.var).contains x.2 || x.1 % 2 == 0)) 0x07

/-- Check 5 of R157: each slot referenced lies in a valid descriptor block (R156). -/
def Core.checkSlots (k : Core) (o : Op) : Check Unit :=
  match o.drefs.find? fun d => !bit k.dvalid (d / 64) with
  | some d => .error (.fault (notLoaded o.addr d))
  | none => .ok ()

/-! ## Tensor descriptors (spec/10 R245 to R253) -/

/-- Bytes that `n` elements of a format fill. -/
def Fmt.bytes (f : Fmt) (n : Nat) : Nat := (n * f.width + 7) / 8

/-- Element size in bytes, 1 for the 4-bit formats (R249). -/
def Fmt.esize (f : Fmt) : Nat := max 1 (f.width / 8)

/-- Entry `d` of a list of six. -/
def dim (l : List Nat) (d : Nat) : Nat := l.getD d 0

/-- The outer dimensions with extent above 1, by rising stride: (stride, extent) (R249). -/
def insertPair (x : Nat × Nat) : List (Nat × Nat) → List (Nat × Nat)
  | [] => [x]
  | y :: l => if x.1 ≤ y.1 then x :: y :: l else y :: insertPair x l

/-- Do the dimensions keep apart (R249)? -/
def spansOk : Nat → List (Nat × Nat) → Bool
  | _, [] => true
  | span, (st, e) :: l => decide (span ≤ st) && spansOk (st * e) l

/-- May the tensor be written: no two elements share a byte (R249)? -/
def Desc.writable (d : Desc) : Bool :=
  let outer := ((List.range d.rank).drop 1).map fun i => (dim d.stride i, dim d.ext i)
  spansOk (d.fmt.bytes (dim d.ext 0)) ((outer.filter fun x => decide (1 < x.2)).foldr insertPair [])

/-- The descriptor in 128 bytes, with the checks of R249; `sized` false leaves out the element-size rules (spec/07 R196). -/
def Desc.parse (bs : List Byte) (sized : Bool) : Check Desc := do
  let u (o n : Nat) : Nat := leNat ((bs.drop o).take n)
  let hdr := u 0 8
  let rank := bits hdr 9 7
  let ext := (List.range 6).map fun i => u (32 + 4 * i) 4
  let bnd := (List.range 6).map fun i => u (56 + 4 * i) 4
  let str := 0 :: (List.range 5).map fun i => u (80 + 6 * i) 6
  need (decide (bits hdr 1 0 < 2)) 0x08
  match Fmt.ofCode (bits hdr 6 2) with
  | none => .error (.illegal 0x08)
  | some f =>
    need (decide (1 ≤ rank) && decide (rank ≤ 6) && bits hdr 63 12 == 0) 0x08
    need (bits (u 8 8) 63 44 == 0 && bits (u 16 8) 63 44 == 0 && bits (u 24 8) 63 44 == 0) 0x08
    need (bit hdr 10 || u 16 8 == 0) 0x08
    need (bit hdr 11 || u 24 8 == 0) 0x08
    need (u 110 2 == 0 && u 120 8 == 0) 0x08
    need ((List.range 6).all fun i =>
      if i < rank then dim ext i != 0 else dim ext i == 0 && dim bnd i == 0 && dim str i == 0) 0x08
    need (bnd.all fun b => decide (bits b 3 0 ≤ 8)) 0x08
    need (!bit hdr 11 || f.scalable) 0x08
    need (!sized || (u 8 8 % f.esize == 0 && str.all fun x => x % f.esize == 0)) 0x08
    .ok { part := bits hdr 1 0 == 1, fmt := f, rank := rank, tagV := bit hdr 10, scaleV := bit hdr 11, base := u 8 8,
          tagPtr := u 16 8, scalePtr := u 24 8, ext := ext, bind := bnd, stride := str, lrow := u 112 8 }

/-- The advances of the active loops on a slot with a selector, in bytes (spec/06 R165). -/
def Core.advance (k : Core) (slot sel : Nat) : Int :=
  k.loops.foldl (fun t l => t + (l.advs.filter fun a => a.slot == slot && a.sel == sel).foldl
    (fun t a => t + (l.iter : Int) * a.step * 64) 0) 0

/-- A pointer with an advance; a sum outside the naturals keeps its place below zero as the largest address, which every
bound refuses. -/
def advPtr (p : Nat) (a : Int) : Nat := if (p : Int) + a < 0 then 2 ^ 64 else ((p : Int) + a).toNat

/-- The descriptor a reference names, as the op copies it at issue (R156, R165). -/
def Core.desc (k : Core) (slot : Nat) (sized : Bool) : Check Desc := do
  let d ← Desc.parse (Memory.read k.dtable (64 * slot) 128) sized
  .ok { d with base := advPtr d.base (k.advance slot 1), tagPtr := advPtr d.tagPtr (k.advance slot 2),
               scalePtr := advPtr d.scalePtr (k.advance slot 3) }

/-- rt_extent of R251. -/
def rtExtent (shape : Tab Nat) (ext bnd : Nat) : Nat :=
  let sv := bits bnd 3 0
  if sv = 0 then ext
  else
    let x := Tab.get 0 shape (sv - 1) - bits bnd 31 8
    min ext ((x + 2 ^ bits bnd 7 4 - 1) / 2 ^ bits bnd 7 4)

/-- The run-time extents of a descriptor. -/
def Core.rt (k : Core) (d : Desc) : List Nat :=
  (List.range 6).map fun i => if i < d.rank then rtExtent k.shape (dim d.ext i) (dim d.bind i) else 0

/-- The product of a list. -/
def prod (l : List Nat) : Nat := l.foldl (· * ·) 1

/-- The rows of the compiled tensor: values of the outer indices (R248). -/
def Desc.rows (d : Desc) : Nat := prod ((d.ext.take d.rank).drop 1)

/-- Every index list over some extents, the first index fastest. -/
def indices : List Nat → List (List Nat)
  | [] => [[]]
  | e :: es => (indices es).flatMap fun o => (List.range e).map fun i => i :: o

/-- The outer indices of the rows over some extents, in row-major order. -/
def Desc.outer (d : Desc) (ext : List Nat) : List (List Nat) := indices ((ext.take d.rank).drop 1)

/-- The number of a row in row-major order over outer extents (R248). -/
def rowNo : List Nat → List Nat → Nat
  | e :: es, i :: is => i + e * rowNo es is
  | _, _ => 0

/-- The number of a row over the compiled outer extents. -/
def Desc.rowNo (d : Desc) (o : List Nat) : Nat := Machine.rowNo ((d.ext.take d.rank).drop 1) o

/-- The address of element 0 of a row (R247). -/
def Desc.rowAddr (d : Desc) (o : List Nat) : Nat :=
  d.base + ((o.zip (d.stride.drop 1)).foldl (fun t x => t + x.1 * x.2) 0)

/-- The last byte the compiled extents reach, plus one, from `base` (R250). -/
def Desc.span (d : Desc) : Nat :=
  ((List.range d.rank).drop 1).foldl (fun t i => t + (dim d.ext i - 1) * dim d.stride i) (d.fmt.bytes (dim d.ext 0))

/-- Bytes of the tag plane (R56, R248). -/
def Desc.tagLen (d : Desc) : Nat := d.rows * ceilDiv (dim d.ext 0) 64
/-- Bytes of the scale plane (R47, R248). -/
def Desc.scaleLen (d : Desc) : Nat := d.rows * ceilDiv (dim d.ext 0) 32

/-- The logical index of an element (R253): `o` the outer indices, `rt` the run-time extents. -/
def Desc.logical (d : Desc) (rt : List Nat) (i0 : Nat) (o : List Nat) : Nat :=
  let idx := i0 :: o
  (List.range (d.rank - 1)).reverse.foldl (fun x j => x * dim rt j + dim idx j) (d.lrow + dim idx (d.rank - 1))

/-! ## Elements in memory -/

/-- The code of element `i` of a row that starts at `a` (R42, R247). -/
def loadElem (m : Memory) (f : Fmt) (a i : Nat) : Nat :=
  if f.width = 4 then
    let b := (Memory.get m (a + i / 2)).toNat
    if i % 2 = 0 then b % 16 else b / 16
  else Memory.nat m (a + i * f.esize) f.esize

/-- The codes of `n` elements of a row. -/
def loadRow (m : Memory) (f : Fmt) (a n : Nat) : List Nat := (List.range n).map fun i => loadElem m f a i

/-- The codes of elements packed into bytes; an odd 4-bit row ends with a zero nibble (R247). -/
def packRow (f : Fmt) : List Nat → List Byte
  | [] => []
  | x :: xs =>
    if f.width = 4 then
      match xs with
      | [] => [BitVec.ofNat 8 (x % 16)]
      | y :: ys => BitVec.ofNat 8 (x % 16 + 16 * (y % 16)) :: packRow f ys
    else toLE f.esize x ++ packRow f xs

/-- Elements from bytes. -/
def unpackBytes (f : Fmt) (bs : List Byte) (n : Nat) : List Nat :=
  loadRow (Memory.write [] 0 bs) f 0 n

/-- A list cut into pieces of `n`, at most `fuel` of them. -/
def chunks {α : Type} (n : Nat) : Nat → List α → List (List α)
  | 0, _ => []
  | fuel + 1, l => if l.isEmpty then [] else l.take n :: chunks n fuel (l.drop n)

/-- Pieces of `n` elements. -/
def pieces {α : Type} (n : Nat) (l : List α) : List (List α) := chunks n l.length l

/-- The tag bytes of a row of codes (R56, R57). -/
def rowTags (f : Fmt) (xs : List Nat) : List Byte := (pieces 64 xs).map fun b => BitVec.ofNat 8 (blockTag f b)

/-- What a code stands for as element `i` of row `o` of a tensor: decoded, under its block scale, with FLUSH_IN (R47, R50, R132). -/
def Desc.value (d : Desc) (m : Memory) (o : List Nat) (i code : Nat) : Dec × Arith :=
  let r := decodeA d.fmt code
  if d.scaleV then
    let x := (Memory.get m (d.scalePtr + d.rowNo o * ceilDiv (dim d.ext 0) 32 + i / 32)).toNat
    underScale r x
  else r

/-- The value of element `i` of row `o` of a tensor. -/
def Desc.elem (d : Desc) (m : Memory) (o : List Nat) (i : Nat) : Dec × Arith := d.value m o i (loadElem m d.fmt (d.rowAddr o) i)

/-- The codes of a row of values rounded into a format, with the block scales where the target has them (R54), and the
status. -/
def encodeRow (f : Fmt) (scaled : Bool) (ds : List Dec) (mode : Rnd) : List Nat × List Byte × Arith :=
  if scaled then
    let bl := (pieces 32 ds).map fun b =>
      let x := blockScale f b
      (x, b.map fun d => encodeScaled f x d mode)
    (bl.flatMap fun b => b.2.map Prod.fst, bl.map fun b => BitVec.ofNat 8 b.1,
     bl.foldl (fun s b => b.2.foldl (fun s r => s.or r.2) s) {})
  else
    let rs := ds.map fun d => encode f d mode
    (rs.map Prod.fst, [], rs.foldl (fun s r => s.or r.2) {})

/-- Write one row of codes with its tag and scale bytes (R133; spec/10 R248). -/
def Desc.putRow (d : Desc) (m : Memory) (o : List Nat) (xs : List Nat) (scales : List Byte) : Memory :=
  let m := Memory.write m (d.rowAddr o) (packRow d.fmt xs)
  let m := if d.tagV then Memory.write m (d.tagPtr + d.rowNo o * ceilDiv (dim d.ext 0) 64) (rowTags d.fmt xs) else m
  if d.scaleV then Memory.write m (d.scalePtr + d.rowNo o * ceilDiv (dim d.ext 0) 32) scales else m

/-- Write one row of values (R54, R133). -/
def Desc.putDecs (d : Desc) (m : Memory) (o : List Nat) (ds : List Dec) (mode : Rnd) : Memory × Arith :=
  let r := encodeRow d.fmt d.scaleV ds mode
  (d.putRow m o r.1 r.2.1, r.2.2)

/-! ## Hulls and their checks (spec/10 R250, spec/03 R80) -/

/-- A hull in the scratchpad passes the bound of R80, or the core faults. -/
def inScratch (o : Op) (base len : Nat) : Check Unit :=
  needF (decide (base + len ≤ scratchSize)) (scratchFault o.addr base len)

/-- A range of a scratchpad read or write. -/
def sRange (base len kind : Nat) (retire : Option Nat) : Range := ⟨base, len, 0, kind, retire⟩

/-- The hulls of a tensor and the planes it carries: data, tag plane, scale plane (R475). -/
def Desc.hulls (d : Desc) : List (Nat × Nat) :=
  [(d.base, d.span)] ++ (if d.tagV then [(d.tagPtr, d.tagLen)] else [])
    ++ (if d.scaleV then [(d.scalePtr, d.scaleLen)] else [])

/-- Every hull of a scratchpad tensor passes R80. -/
def Desc.checkHulls (o : Op) (d : Desc) : Check Unit := d.hulls.forM fun h => inScratch o h.1 h.2

/-- The ranges of a scratchpad tensor and the planes it carries (R250; spec/03 R85). An op holds a plane that it does not touch as
long as the data (DESIGN CHOICE, n7). -/
def Desc.ranges (d : Desc) (kind : Nat) (retire : Option Nat) : List Range := d.hulls.map fun h => sRange h.1 h.2 kind retire

/-! ## Panels (spec/04 R103, R104) -/

/-- K rows in a panel beat, g (R103): g × w = 32 bits. -/
def Fmt.g (f : Fmt) : Nat := 32 / f.width
/-- Reduction elements of a plane, Kₚ (R103). -/
def Fmt.kp (f : Fmt) : Nat := if f.width = 4 then 256 else 128
/-- The row period π (R103). -/
def Fmt.pi (f : Fmt) : Nat := match f with | .fp32 => 16 | .bf16 => 2 | .fp16 => 2 | _ => 1
/-- Beats of a plane, W (R103). -/
def Fmt.wBeats (f : Fmt) (scaled : Bool) : Nat := f.kp / f.g + (if scaled then (if f.width = 4 then 2 else 1) else 0)

/-- The code of panel element (k, n) of a panel of K rows at `base` (R104). -/
def panelElem (m : Memory) (f : Fmt) (base kExt k n : Nat) : Nat :=
  loadElem m f (base + 512 * (n / 128 * ceilDiv kExt f.g + k / f.g)) (128 * (k % f.g) + n % 128)

/-- A panel element under its scale group (R104). -/
def Desc.panel (d : Desc) (m : Memory) (k n : Nat) : Dec × Arith :=
  let r := decodeA d.fmt (panelElem m d.fmt d.base (dim d.ext 1) k n)
  if d.scaleV then
    let x := (Memory.get m (d.scalePtr + 128 * (n / 128 * ceilDiv (dim d.ext 1) 32 + k / 32) + n % 128)).toNat
    underScale r x
  else r

/-- Bytes of a panel of K × N (R104). -/
def Desc.panelLen (d : Desc) : Nat := 512 * ceilDiv (dim d.ext 0) 128 * ceilDiv (dim d.ext 1) d.fmt.g
/-- Bytes of its tag panel (R180). -/
def Desc.panelTagLen (d : Desc) : Nat := 128 * ceilDiv (dim d.ext 0) 128 * ceilDiv (dim d.ext 1) 64
/-- Bytes of its scale panel (R104). -/
def Desc.panelScaleLen (d : Desc) : Nat := 128 * ceilDiv (dim d.ext 0) 128 * ceilDiv (dim d.ext 1) 32

/-! ## Tile plans (spec/10 R259 to R262) -/

/-- The tile plan in 64 bytes, with the checks of R259 and R262. -/
def Plan.parse (bs : List Byte) : Check Plan := do
  let u (o n : Nat) : Nat := leNat ((bs.drop o).take n)
  let words (o : Nat) : List Nat := [u o 4, u (o + 4) 4, u (o + 8) 4]
  let hdr := u 0 4
  let l1v := bit hdr 8
  need (decide (bits hdr 3 0 < 6) && decide (bits hdr 7 4 < 6) && bits hdr 31 9 == 0) 0x08
  need (decide (1 ≤ u 4 2) && decide (u 4 2 ≤ 1024) && decide (1 ≤ u 6 2) && decide (u 6 2 ≤ 128) && decide (1 ≤ u 8 2)
    && decide (u 8 2 ≤ 256)) 0x08
  need (u 10 2 == 0 && u 51 1 == 0 && u 55 9 == 0) 0x08
  need (if l1v then decide (u 4 2 ≤ u 12 4) && decide (u 6 2 ≤ u 16 4) && decide (u 8 2 ≤ u 20 4)
        else u 12 4 == 0 && u 16 4 == 0 && u 20 4 == 0) 0x08
  need (u 24 4 != 0 && u 28 4 != 0 && u 32 4 != 0) 0x08
  need (decide (bits (u 36 4) 3 0 ≤ 8) && decide (bits (u 40 4) 3 0 ≤ 8) && decide (bits (u 44 4) 3 0 ≤ 8)) 0x08
  .ok { order0 := bits hdr 3 0, order1 := bits hdr 7 4, l1v := l1v, t0 := [u 4 2, u 6 2, u 8 2], t1 := words 12,
        ext := words 24, bind := words 36, abase := u 48 3, alen := u 52 3 }

/-- The run-time extent of the plan's product in dimension 0 (M), 1 (N) or 2 (K) (R251, R261). -/
def Plan.rt (p : Plan) (shape : Tab Nat) (d : Nat) : Nat := rtExtent shape (dim p.ext d) (dim p.bind d)

/-- CF_TILE_OVERFLOW (spec/17 R419): check 1 stockpot rows, 2 vector hold, 3 term limit, 4 allocation. -/
def tileOverflow (opAddr check ref value limit : Nat) : CFault :=
  ⟨0x06, opAddr, 0, toLE 1 check ++ toLE 1 ref ++ toLE 4 value ++ toLE 4 limit⟩

end Sys2Proof.Machine
end

