-- ==== Sys2Proof/Machine/Issue.lean ====
section
/-!
DEFINITION. Sys2Proof/Machine/Issue.lean: the issue station (spec/03 R92, R93, R96; spec/06 R149 to R165): when an op is due,
its waits, the skipping of an illegal op, the issue of a legal one, and the loop stack.
-/
namespace Sys2Proof.Machine

/-! ## Waits (spec/06 R150, R151; spec/12 R301) -/

/-- flat of R150. -/
def flat (loops : List LoopLvl) (lv : Nat) : Nat :=
  if loops.length ≤ lv then 0 else (loops.take (lv + 1)).foldl (fun f l => f * l.trip + l.iter) 0

/-- The value a wait expects: epoch base plus effective delta (R150). -/
def Core.expected (k : Core) (w : Wait) : Nat := (k.cnt w.cnt).base + w.delta + w.step * flat k.loops w.level

/-- CF_EPOCH_STATE (spec/17 R419). -/
def epochState (opAddr n cause expected : Nat) : CFault :=
  ⟨0x13, opAddr, 0, toLE 1 n ++ toLE 1 cause ++ toLE 6 expected⟩

/-- The checks of a wait when its op becomes due (R301). -/
def Core.waitFault (k : Core) (opAddr : Nat) (w : Wait) : Option CFault :=
  let x := k.cnt w.cnt
  if !x.isOpen then some (epochState opAddr w.cnt 1 (k.expected w))
  else if x.ceil < k.expected w then some (epochState opAddr w.cnt 2 (k.expected w))
  else none

/-- Does a wait pass in a cycle? Up to the due cycle a value counts in the cycle in which it becomes visible (R150; spec/03 R92), after
it one cycle later (spec/03 R100, "wait satisfied to op issue"); the expiry of R151 and the mark of R301 follow (DESIGN CHOICE, n15). -/
def Core.waitPasses (k : Core) (w : Wait) (cyc : Nat) : Bool :=
  decide (k.expected w ≤ (k.cnt w.cnt).visible (if cyc ≤ k.due then cyc else cyc - 1))

/-- The state of an op's waits. -/
inductive WaitState where
  | pass | held | fault (f : CFault)
  deriving DecidableEq, Repr

/-- CF_WAIT_TIMEOUT (spec/17 R419). -/
def waitTimeout (k : Core) (opAddr i : Nat) (w : Wait) : CFault :=
  ⟨0x04, opAddr, 0, toLE 1 w.cnt ++ toLE 1 i ++ toLE 6 (k.expected w) ++ toLE 6 (k.cnt w.cnt).value⟩

/-- The wait that has expired by a stamp: it has passed in no cycle whose stamp lies below its limit (R151). -/
def Core.expired (k : Core) (o : Op) (now : Nat) : Option (Wait × Nat) :=
  k.dueStamp.bind fun st => ((o.waits.zip [0, 1]).filter fun w => !bit k.passed w.2).find? fun w =>
    decide (st + 1000 * w.1.timeout ≤ now)

/-- The waits of the due op: the checks of R301, a wait that has expired, the mark of a wait that would pass, and whether all pass. -/
def Core.waits (k : Core) (o : Op) (cyc now : Nat) : WaitState :=
  match o.waits.findSome? (k.waitFault o.addr) with
  | some f => .fault f
  | none =>
    match k.expired o now with
    | some w => .fault (waitTimeout k o.addr w.2 w.1)
    | none =>
      match o.waits.findSome? fun w => if k.waitPasses w cyc then (k.cnt w.cnt).mark else none with
      | some m => .fault (m.fault o.addr)
      | none => if o.waits.all fun w => k.waitPasses w cyc then .pass else .held

/-- The waits that pass in a cycle are noted: they cannot expire any more (R151). -/
def Core.notePassed (k : Core) (o : Op) (cyc : Nat) : Core :=
  (o.waits.zip [0, 1]).foldl (fun k w => if k.waitPasses w.1 cyc then { k with passed := k.passed ||| 2 ^ w.2 } else k) k

/-! ## Stalls (spec/03 R96) -/

/-- A stall cycle of a core: the first of a run is noted, with all that holds its op back until it issues. -/
def Core.stall (k : Core) (cause now : Nat) : Core :=
  let k := { k with stalls := satAdd 64 k.stalls 1 }
  if !k.stallValid then
    { k with stallValid := true, stallOpen := true, stallOp := k.next, stallCause := cause, stallStamp := now }
  else if k.stallOpen && k.stallCause != cause then { k with stallCause := 2 }
  else k

/-- The cycle is a stall cycle of a core. -/
def State.stall (s : State) (c cause : Nat) : State := s.modCore c fun k => k.stall cause s.coreNow

/-! ## The loop stack (spec/06 R164) -/

/-- after_issue of R164: the next op address and the loop stack. -/
def afterIssue (x : Nat) : List LoopLvl → Nat → Nat × List LoopLvl
  | loops, 0 => ((x + 1) % 8192, loops)
  | loops, fuel + 1 =>
    match loops.getLast? with
    | none => ((x + 1) % 8192, loops)
    | some l =>
      if l.stop ≠ x then ((x + 1) % 8192, loops)
      else if l.iter + 1 < l.trip then (l.start, loops.dropLast ++ [{ l with iter := l.iter + 1 }])
      else afterIssue x loops.dropLast fuel

/-- The station has issued the op at `x` (skipped ones included): the next op and its due cycle (R92, R158, R164). -/
def Core.advanceOp (k : Core) (x dur cyc : Nat) : Core :=
  let r := afterIssue x k.loops 5
  { k with next := r.1, loops := r.2, due := cyc + max dur 1, dueStamp := none, passed := 0, illDue := false,
           legalBlk := none, stallOpen := false }

/-! ## Issue -/

/-- What an op does once it issues. Retirements, windows and the completion point are offsets from the issue cycle. -/
structure Issue where
  ranges  : List Range := []
  windows : List (Nat × Nat × Nat) := []
  queueOp : Bool := false
  done    : Option Nat := none
  left    : Nat := 0
  silent  : Bool := false
  /-- The route on which the attached increments of a fully masked SEND travel as signal messages (spec/10 R257). -/
  asSignals : Option Nat := none
  /-- Faults to come (spec/03 R81), and the banks written through WP0. -/
  faults  : List (Nat × CFault) := []
  wp0     : List (Nat × Nat) := []
  /-- A control op, which has no completion point after its issue cycle (spec/08 R223). -/
  control : Bool := false
  effect  : Nat → State → State

/-- A legal op: the DMA tags it needs to issue (spec/08 R211), and the checks of its issue cycle with what it then does. -/
structure Legal where
  tags : Nat
  go   : Check Issue

/-- A legal op that needs `tags` DMA tags. -/
def legal (tags : Nat) (go : Check Issue) : Check Legal := .ok ⟨tags, go⟩

/-- CF_RANGE_HAZARD of a station (R93, spec/17 R419). -/
def stationFault (opAddr station owner : Nat) : CFault :=
  ⟨0x01, opAddr, 0, toLE 1 255 ++ toLE 1 station ++ toLE 4 0 ++ toLE 4 0 ++ toLE 1 0 ++ toLE 2 owner⟩

/-- The window check of R93: `windows` of the core holds, for each station, the cycle after the last granted one and its op. -/
def Core.checkWindows (k : Core) (ws : List (Nat × Nat × Nat)) (cyc opAddr : Nat) : Option CFault :=
  ((List.range 10).findSome? fun st =>
    if ws.any fun w => w.1 == st && decide (cyc + w.2.1 < (Tab.get (0, 0) k.windows st).1) then some st else none).map
      fun st => stationFault opAddr st (Tab.get (0, 0) k.windows st).2

/-- Grant the windows of an op. -/
def Core.grant (k : Core) (ws : List (Nat × Nat × Nat)) (cyc opAddr : Nat) : Core :=
  let put (t : Tab (Nat × Nat)) (w : Nat × Nat × Nat) : Tab (Nat × Nat) :=
    Tab.set (0, 0) t w.1 (max (Tab.get (0, 0) t w.1).1 (cyc + w.2.2 + 1), opAddr)
  { k with windows := ws.foldl put k.windows }

/-- The checks of the issue cycle: tracker, then windows, then free entries (R87, R91, R93). The spec has the tracker's ranges before the
windows and does not place the full tracker of R91 (DESIGN CHOICE, n15). -/
def Core.checkIssue (k : Core) (i : Issue) (cyc opAddr : Nat) : Check Unit := do
  match k.checkRanges i.ranges cyc opAddr with
  | some f => .error (.fault f)
  | none =>
    match k.checkWindows i.windows cyc opAddr with
    | some f => .error (.fault f)
    | none =>
      let free := (k.freeEntries false cyc).length
      needF (decide (i.ranges.length ≤ free)) (trackerFull opAddr 0 i.ranges.length free)

/-- LG_OP_TRACE, if the op asks for it and the run has a trace buffer (spec/06 R146). -/
def State.traceOp (s : State) (c : Nat) (o : Op) : State :=
  match s.runOf c with
  | some p =>
    if o.trace && (s.part p).run.trace.isSome then
      s.logCore c 0x0008 (toLE 2 o.addr ++ toLE 1 o.opc ++ toLE 8 (s.coreCycle c))
    else s
  | none => s

/-- The signals an op sends at its completion point. -/
def Issue.signalsOf (i : Issue) (o : Op) : List Sig :=
  match i.asSignals with
  | some t => o.sigs.map fun g => if g.attach then { g with attach := false, route := t } else g
  | none => o.sigs

/-- The op issues: its entries and windows, its place among the ops not yet complete, the next op, its effect. -/
def State.issue (s : State) (c : Nat) (o : Op) (i : Issue) : State :=
  let (id, s) := s.takeId
  let k := s.core c
  let cyc := s.cyc
  let rs := i.ranges.map fun r => { r with retire := r.retire.map (· + cyc) }
  let tag := if i.queueOp then (s.freeTags c).headD 0 else 0
  let k := (k.register rs (k.freeEntries false cyc) o.addr tag 0 s.coreStamp id).grant i.windows cyc o.addr
  let pend : PendOp := { id := id, opAddr := o.addr, queueOp := i.queueOp, completeAt := i.done.map (· + cyc), left := i.left,
                         sigs := if i.silent then [] else i.signalsOf o, mark := none }
  let k := if i.control then k else { k with pend := k.pend ++ [pend] }
  let k := { k with later := k.later ++ i.faults.map fun (f : Nat × CFault) => (cyc + f.1, Late.fault f.2),
                    wp0 := k.wp0 ++ i.wp0.map fun (w : Nat × Nat) => (cyc + w.1, w.2, o.addr) }
  i.effect id ((s.setCore c (k.advanceOp o.addr o.dur cyc)).traceOp c o)

/-- LG_ILLEGAL_OP and CORE_ILLEGAL (spec/06 R158, R161). -/
def State.logIllegal (s : State) (c opAddr opc var reason : Nat) : State :=
  let s := s.logCore c 0x0001 (toLE 2 opAddr ++ toLE 1 opc ++ toLE 1 var ++ toLE 1 reason)
  s.modCore c fun k => { k with illCount := satAdd 32 k.illCount 1, illOp := opAddr, illReason := reason }

/-- An op found illegal when it is due: logged once, held by its waits, then skipped (R158). It writes no LG_OP_TRACE, TRACE or not
(R146 has the record of an op that issues; DESIGN CHOICE, n15). -/
def State.skip (s : State) (c : Nat) (o : Op) (reason : Nat) : State :=
  let s := if (s.core c).illDue then s
           else (s.logIllegal c o.addr o.opc o.var reason).modCore c fun k => { k with illDue := true }
  match (s.core c).waits o s.cyc s.coreNow with
  | .fault f => s.coreFault c f
  | .held => s.stall c 0
  | .pass => s.modCore c fun k => k.advanceOp o.addr o.dur s.cyc

/-- Is the core's issue station at work (spec/01 R41, spec/06 R176)? -/
def State.issuing (s : State) (c : Nat) : Bool :=
  decide (c < s.nCores) && (s.core c).running && !(s.core c).micro.on && !s.coreHedged c && !s.slipped (s.dieOf c)

/-- A plan: the legality checks of R157 that are an op's own. -/
abbrev PlanFn := State → Nat → Op → Check Legal

/-- Every check of R157 in order, then the op's own. An op that has passed them stays legal while its waits hold it. -/
def legality (plan : PlanFn) (s : State) (c : Nat) (o : Op) : Check Legal := do
  if (s.core c).legalBlk.isNone then
    (s.core c).checkWord o
    (s.core c).checkSlots o
  plan s c o

/-- The due op has passed its checks (R157). -/
def Core.noteLegal (k : Core) (o : Op) : Core :=
  { k with legalBlk := some (k.legalBlk.getD (match o.blockAt with | some a => Memory.read k.scratch a 256 | none => [])) }

/-- Record a refusal in SYNC_SEND_STAT and SYNC_SEND_CNT (spec/12 R318). -/
def State.noteRefused (s : State) (c tag opAddr reason : Nat) : State :=
  let now := s.coreStamp
  s.modCore c fun k => { k with sendTag := tag, sendOp := opAddr, sendReason := reason, sendStamp := now,
                                refused := satAdd 32 k.refused 1 }

/-- A fault at issue; a refused route is recorded (R318). -/
def State.issueFault (s : State) (c : Nat) (f : CFault) : State :=
  let s := if f.code = 0x05 then s.noteRefused c (leNat (f.fields.take 2)) f.opAddr (leNat ((f.fields.drop 2).take 1)) else s
  s.coreFault c f

/-- A legal op whose waits have passed, with enough free tags, is checked and issues (R92, R93). Else the cycle is a stall cycle
(spec/03 R96): the cause is 0 for a wait, 1 for DMA tags, 2 for both. -/
def State.tryIssue (s : State) (c : Nat) (o : Op) (l : Legal) : State :=
  let short := decide ((s.freeTags c).length < l.tags)
  match (s.core c).waits o s.cyc s.coreNow with
  | .fault f => s.coreFault c f
  | .held => s.stall c (if short then 2 else 0)
  | .pass =>
    if short then s.stall c 1
    else
      match l.go with
      | .error (.fault f) => s.issueFault c f
      | .error (.illegal r) => s.skip c o r
      | .ok i =>
        match (s.core c).checkIssue i s.cyc o.addr with
        | .error (.fault f) => s.coreFault c f
        | .error (.illegal r) => s.skip c o r
        | .ok _ => s.issue c o i

/-- The station looks at the op at NEXT, once in a cycle: which of its waits pass is kept. The stamp of the first cycle in which it does so
for an op is that from which the op is due (spec/06 R151). -/
def State.look (s : State) (c : Nat) : State :=
  let s := s.modCore c fun k => { k with tried := s.cyc + 1, dueStamp := some (k.dueStamp.getD s.coreNow) }
  let o := (s.core c).nextOp
  s.modCore c fun k => if (k.expired o s.coreNow).isNone then k.notePassed o s.cyc else k

/-- The station takes up the op at NEXT (R92, R157, R158). -/
def State.takeOp (plan : PlanFn) (c : Nat) (s : State) : State :=
  let s := s.look c
  let k := s.core c
  let o := k.nextOp
  if !k.blockValid k.next then s.coreFault c (notLoaded k.next 0xFFFF)
  else if k.illDue then s.skip c o 0
  else
    match legality plan s c o with
    | .error (.illegal r) => s.skip c o r
    | .error (.fault f) => s.coreFault c f
    | .ok l => (s.modCore c fun k => k.noteLegal o).tryIssue c o l

/-- Is an op due at a core that the station has not taken up in this cycle? -/
def State.offered (s : State) (c : Nat) : Bool :=
  s.issuing c && decide ((s.core c).due ≤ s.cyc) && (s.core c).tried != s.cyc + 1

/-- The op at NEXT is taken up. One not yet due, or taken up before in this cycle, leaves the state as it is. `mine` says whether the op
is of the command's kind. -/
def issueRow (mnemonic : String) (mine : Op → Bool) (plan : PlanFn) (c : Nat) (s : State) : Out :=
  if !s.issuing c then notNow mnemonic
  else if !s.offered c then .next s
  else if (s.core c).blockValid (s.core c).next && !mine (s.core c).nextOp then notNow mnemonic
  else .next (s.takeOp plan c)

/-- An op of an opcode. -/
def isOpc (n : Nat) (o : Op) : Bool := o.opc == n

/-- The descriptor of reference `i`. -/
def Core.ref (k : Core) (o : Op) (i : Nat) (sized : Bool := true) : Check Desc := k.desc (o.drefs.getD i 0) sized

/-- Every descriptor an op names, in DREF order (R157 check 6); `written` holds the references of tensors it writes. -/
def Core.refs (k : Core) (o : Op) (n : Nat) (written : List Nat) : Check (List Desc) :=
  (List.range n).mapM fun i => do
    let d ← k.ref o i
    need (!written.contains i || d.writable) 0x08
    .ok d

/-- Tensors of the element and product ops lie in the core's own scratchpad (spec/07 R177, spec/08 R202). -/
def ownScratch (ds : List Desc) : Check Unit := need (ds.all fun d => !d.part) 0x08

end Sys2Proof.Machine
end

