-- ==== Sys2Proof/Machine/Stockpot.lean ====
section
/-!
DEFINITION. Sys2Proof/Machine/Stockpot.lean: the stockpot's rows and elements, its checks, products added row by row
(spec/04 R108 to R116, spec/02 R59 to R70), and beats taken from a port FIFO (spec/03 R79, spec/12 R313).
-/
namespace Sys2Proof.Machine

/-- Element (row, column). -/
def Core.elem (k : Core) (row col : Nat) : Elem := Tab.get {} k.stock (128 * row + col)

/-- Replace an element. -/
def Core.setElem (k : Core) (row col : Nat) (x : Elem) : Core :=
  { k with stock := Tab.set {} k.stock (128 * row + col) x }

/-- The state of a row (R113). -/
def Core.row (k : Core) (r : Nat) : StockRow := Tab.get {} k.rows r

/-- Replace columns `col` onward of a row. -/
def Core.setElems (k : Core) (row : Nat) : Nat → List Elem → Core
  | _, [] => k
  | col, x :: xs => (k.setElem row col x).setElems row (col + 1) xs

/-- The columns of a row. -/
def Core.elems (k : Core) (row n : Nat) : List Elem := (List.range n).map fun c => k.elem row c

/-- Open a row (R111): V and S 0 in all 128 columns, L per element. -/
def Core.openRow (k : Core) (row mode fmt opAddr unit : Nat) (l : Nat → Int) : Core :=
  let k := { k with rows := Tab.set {} k.rows row ⟨true, mode, fmt, opAddr, unit⟩ }
  k.setElems row 0 ((List.range 128).map fun c => { v := 0, l := l c, s := .finite })

/-- Close every row (R111). -/
def Core.closeRows (k : Core) : Core := 
  { k with rows := k.rows.filterMap fun r =>
      let x := { r.2 with isOpen := false }
      if x = {} then none else some (r.1, x) }

/-- The rows of a residency pass the bound of R109 and R477. -/
def rowBound (o : Op) (last : Nat) : Check Unit := needF (decide (last ≤ 1024)) (tileOverflow o.addr 1 0 last 1024)

/-- The reduction extent passes the term limit (spec/02 R65). -/
def termBound (o : Op) (mode : AccMode) (n : Nat) : Check Unit :=
  needF (decide (n ≤ termLimit mode)) (tileOverflow o.addr 3 0 n (termLimit mode))

/-- CF_STOCKPOT_STATE (spec/17 R419). -/
def potState (k : Core) (opAddr row mode fmt : Nat) : CFault :=
  let r := k.row row
  ⟨0x10, opAddr, 0, toLE 2 row ++ toLE 1 (b2n r.isOpen) ++ toLE 1 r.mode ++ toLE 1 r.fmt ++ toLE 1 mode ++ toLE 1 fmt⟩

/-- Rows `r0` to `r0 + n − 1` are open in a mode and format (R112). -/
def rowsOpenIn (k : Core) (o : Op) (r0 n mode fmt : Nat) : Check Unit :=
  match (List.range n).find? fun i =>
    let r := k.row (r0 + i); !(r.isOpen && r.mode == mode && r.fmt == fmt) with
  | some i => .error (.fault (potState k o.addr (r0 + i) mode fmt))
  | none => .ok ()

/-- Rows `r0` to `r0 + n − 1` are open (R112). -/
def rowsOpen (k : Core) (o : Op) (r0 n : Nat) : Check Unit :=
  match (List.range n).find? fun i => !(k.row (r0 + i)).isOpen with
  | some i => .error (.fault (potState k o.addr (r0 + i) (Config.neededOfRead o.addr 0).toNat
      (Config.neededOfRead o.addr 1).toNat))
  | none => .ok ()

/-- A stockpot range: 2,048 bytes a row (R114). -/
def potRange (r0 n kind : Nat) (retire : Nat) : Range := ⟨2048 * r0, 2048 * n, 1, kind, some retire⟩

/-! ## Adding products (R108) -/

/-- An element being added to: its new value, the status, and the K index of its first breach. -/
structure Acc where
  elem   : Elem
  arith  : Arith := {}
  breach : Option Nat := none
  deriving DecidableEq, Repr

/-- Was a NaN made out of two infinities (spec/02 R55, R66)? -/
def mergeGen (a b : Cls) : Bool := mergeCls a b == .nan && a != .nan && b != .nan

/-- Add the product of two decoded operands at K index `k` (R60, R66). -/
def Acc.add (x : Acc) (mode : AccMode) (k : Nat) (a b : Dec × Arith) : Acc :=
  let p := product a.1 b.1 0
  let st := (x.arith.or (a.2.or b.2)).or { nanGen := p.2 }
  if breaches mode x.elem.l p.1 then { x with arith := st, breach := if x.breach.isSome then x.breach else some k }
  else
    { x with elem := addProduct x.elem p.1,
             arith := st.or { nanGen := decide (p.1.cls ≠ .finite) && mergeGen x.elem.s p.1.cls } }

/-- The first element of a row, in column order, that a product breached: column, K index and its L. -/
def firstBreach : Nat → List Acc → Option (Nat × Nat × Int)
  | _, [] => none
  | c, x :: xs => match x.breach with | some k => some (c, k, x.elem.l) | none => firstBreach (c + 1) xs

/-- CF_ANCHOR_BREACH (spec/17 R419). -/
def anchorBreach (opAddr row col k : Nat) (l anchor : Int) : CFault :=
  ⟨0x07, opAddr, 0, toLE 2 row ++ toLE 1 col ++ toLE 4 k ++ toLE 2 (lowBits 16 l) ++ toLE 2 (lowBits 16 anchor)⟩

/-- OR a status into CORE_ARITH_STATUS (spec/02 R55). -/
def Core.orArith (k : Core) (a : Arith) : Core := { k with arith := k.arith.or a }

/-- The terms of one pass of one row, or of one panel beat: for each column of row `row`, the products of the K indices.
Nothing is added if one of them breaches its anchor. `recRow` is the row that the fault names. -/
def Core.addTerms (k : Core) (opAddr row recRow n : Nat) (ks : List Nat) (a : Nat → Dec × Arith)
    (w : Nat → Nat → Dec × Arith) : Except CFault Core :=
  let mode := (AccMode.ofCode (k.row row).mode).getD .exact
  let xs := (List.range n).map fun c =>
    ks.foldl (fun x kk => x.add mode kk (a kk) (w kk c)) { elem := k.elem row c }
  match firstBreach 0 xs with
  | some b => .error (anchorBreach opAddr recRow b.1 b.2.1 b.2.2 0)
  | none =>
    .ok ((k.setElems row 0 (xs.map Acc.elem)).orArith (xs.foldl (fun s x => s.or x.arith) {}))

/-- Run steps over a core until one faults; the core keeps what earlier steps did, and undergoes the fault in the cycle `at_` gives
for its step (R108). -/
def runSteps {α : Type} (at_ : α → Nat) (f : Core → α → Except CFault Core) : Core → List α → Core
  | k, [] => k
  | k, x :: xs => match f k x with
    | .ok k' => runSteps at_ f k' xs
    | .error e => k.await (at_ x) (.fault e)

/-! ## Conflicts of the loader's ports (spec/03 R81) -/

/-- The later of two ports that address one bank, in the order of the requests of one cycle: the bank and both ports. -/
def firstClash : List (Nat × Nat) → List (Nat × Nat) → Option (Nat × Nat × Nat)
  | _, [] => none
  | seen, r :: rs =>
    match seen.find? fun q => q.2 == bankOf r.2 with
    | some q => some (bankOf r.2, q.1, r.1)
    | none => firstClash (seen ++ [(r.1, bankOf r.2)]) rs

/-- The conflict of an op's requests in one cycle, each a port and an address; the op owns the later port. -/
def portFault (opAddr : Nat) (reqs : List (Nat × Nat)) : Option CFault :=
  (firstClash [] reqs).map fun x => bankConflict opAddr x.1 x.2.1 x.2.2

/-! ## The anchor pass (R62, R116) -/

/-- α of an element (R62). -/
def anchorOf (nb : Nat) (ta tb : Nat → Nat) : Int := 1 + ((List.range nb).foldl (fun m b => max m (ta b + tb b)) 0 : Nat)

/-- Sb of an element (R62): pairs with a byte 0xFF are ignored. -/
def scaleMaxOf (nb : Nat) (xa xb : Nat → Nat) : Int :=
  let ps := (List.range nb).filterMap fun b =>
    if xa b = 255 ∨ xb b = 255 then none else some ((xa b : Int) + xb b - 254)
  match ps with
  | [] => 0
  | p :: r => r.foldl max p

/-- L of an element as the op opens it (R61): `pa b` and `pb b` are the tag or scale bytes of block `b` of both operands. -/
def openL (f : Fmt) (mode : AccMode) (nb : Nat) (pa pb : Nat → Nat) : Int :=
  match mode with
  | .exact => exactL f
  | .scaled => scaledL f (scaleMaxOf nb pa pb)
  | .anchored => anchoredL f (anchorOf nb pa pb)

/-- The byte at an address of the core's scratchpad. -/
def Core.byte (k : Core) (a : Nat) : Nat := (Memory.get k.scratch a).toNat

/-- Elements under one byte of the plane a mode reads: 64 a tag, 32 a scale. -/
def AccMode.block (m : AccMode) : Nat := if m = .scaled then 32 else 64

/-- Byte `b` of row `r` of the plane a mode reads of a tensor: its tags or its scales (spec/10 R248). -/
def Desc.planeByte (d : Desc) (k : Core) (m : AccMode) (r b : Nat) : Nat :=
  if m = .scaled then k.byte (d.scalePtr + r * ceilDiv (dim d.ext 0) 32 + b)
  else k.byte (d.tagPtr + r * ceilDiv (dim d.ext 0) 64 + b)

/-- Byte of block `b` of column `n` in the scale panel of a weight panel (R104), or in its tag panel for a reduction of `nb` blocks
(spec/07 R180). -/
def Desc.panelByte (d : Desc) (k : Core) (m : AccMode) (nb n b : Nat) : Nat :=
  if m = .scaled then k.byte (d.scalePtr + 128 * (n / 128 * ceilDiv (dim d.ext 1) 32 + b) + n % 128)
  else k.byte (d.tagPtr + 128 * (n / 128 * nb + b) + n % 128)

/-- Has a tensor the plane a mode reads, over `n` elements along the reduction extent `ext` (R116)? -/
def Desc.planeCovers (d : Desc) (m : AccMode) (ext n : Nat) : Bool :=
  decide (n ≤ ext) && (if m = .scaled then d.scaleV else d.tagV)

/-! ## Port FIFOs (spec/03 R79, spec/12 R313) -/

/-- A port FIFO of a core. -/
def Core.port (k : Core) (p : Nat) : PortFifo := Tab.get {} k.ports p

/-- Take `n` bytes from the head of a port's FIFO for one beat: zeros, and an underrun, where they are not there. -/
def Core.takeBeat (k : Core) (p n : Nat) : List Byte × Core × Bool :=
  let q := k.port p
  if q.bytes.length < n then (List.replicate n 0, k, true)
  else
    (q.bytes.take n,
     { k with ports := Tab.set {} k.ports p { q with bytes := q.bytes.drop n, msgs := dropRecs q.msgs n } }, false)

/-- LG_FIFO_UNDERRUN, counted in the run (R79; spec/13 R325). -/
def State.underrun (s : State) (c opAddr port : Nat) : State :=
  let s := s.logCore c 0x0002 (toLE 2 opAddr ++ toLE 1 port)
  match s.runOf c with
  | some p => s.modRun p fun r => { r with underruns := r.underruns + 1 }
  | none => s

/-- The op takes the beats of a port FIFO in the cycles from its issue on that `due` gives with their sizes; its work is done as the last
one is there. -/
def State.feed (s : State) (c port opAddr : Nat) (due : List (Nat × Nat)) (task : Task) : State :=
  s.modCore c fun k => { k with jobs := k.jobs ++ [⟨port, opAddr, due.map fun b => (s.cyc + b.1, b.2), [], task⟩] }

end Sys2Proof.Machine
end

