-- ==== Sys2Proof/Machine/Product.lean ====
section
/-!
DEFINITION. Sys2Proof/Machine/Product.lean: MATMUL and MATVEC (spec/07 R177 to R185, spec/04).
-/
namespace Sys2Proof.Machine

/-- The outer indices of row `r` over outer extents, in row-major order. -/
def unrank : List Nat → Nat → List Nat
  | [], _ => []
  | e :: es, r => r % e :: unrank es (r / e)

/-- The outer indices of row `r` of a tensor. -/
def Desc.rowIdx (d : Desc) (r : Nat) : List Nat := unrank ((d.ext.take d.rank).drop 1) r

/-- Is a row within the run-time extents? -/
def rowLive (d : Desc) (rt : List Nat) (o : List Nat) : Bool :=
  (o.zip ((rt.take d.rank).drop 1)).all fun x => decide (x.1 < x.2)

/-- The run-time number of rows. -/
def Desc.rtRows (d : Desc) (rt : List Nat) : Nat := prod ((rt.take d.rank).drop 1)

/-- Operand formats and block scales of a product (R181; spec/02 R48). -/
def productFormats (s : State) (f g : Fmt) (sf sg : Bool) : Check Unit := do
  need (decide (f = g) && sf == sg) 0x09
  need (f.arrayOperand && g.arrayOperand) 0x11
  need (!(s.fuses.grade = .tx768 && f.fusedOn768)) 0x0A

/-- Does some row's run of elements cross a 512-byte line (R105)? Of the last pass the elements up to Kₒ count, and not those up to the end
of its plane (R105 names A[i][k₀ + pKₚ] to A[i][k₀ + pKₚ + Kₚ − 1]; DESIGN CHOICE, n15). -/
def rowsCross (d : Desc) (rows k0 ko : Nat) : Bool :=
  (List.range (ceilDiv ko d.fmt.kp)).any fun p => (List.range rows).any fun i =>
    let lo := k0 + p * d.fmt.kp
    let n := min d.fmt.kp (k0 + ko - lo)
    let a := d.rowAddr (d.rowIdx i) + d.fmt.bytes lo
    a / 512 != (a + d.fmt.bytes n - 1) / 512

/-- The row period of R105. -/
def rowPeriod (d : Desc) (cross : Bool) : Nat := if cross then max d.fmt.pi 2 else d.fmt.pi

/-- The hulls of a panel and of the tag and scale panels it carries (R104, R180): `nb` is the number of 64-element blocks of the
reduction, that of the whole panel where the op runs no anchor pass over the tags. -/
def Desc.panelHulls (d : Desc) (nb : Nat) : List (Nat × Nat) :=
  [(d.base, d.panelLen)] ++ (if d.tagV then [(d.tagPtr, 128 * ceilDiv (dim d.ext 0) 128 * nb)] else [])
    ++ (if d.scaleV then [(d.scalePtr, d.panelScaleLen)] else [])

/-- The row reads of a tensor's hulls (spec/03 R85, spec/10 R250), with the last cycle in which data, tags and scales are read. A plane
that the op does not read is held as long as the data (DESIGN CHOICE, n7). -/
def Desc.readRanges (d : Desc) (hulls : List (Nat × Nat)) (dataEnd tagEnd scaleEnd : Nat) : List Range :=
  (hulls.zip ([dataEnd] ++ (if d.tagV then [tagEnd] else []) ++ (if d.scaleV then [scaleEnd] else []))).map fun x =>
    sRange x.1.1 x.1.2 1 (some x.2)

/-- The last cycle in which a plane is read: that of the data, or of the anchor pass if that reads it longer (R116). -/
def passEnd (pass : Bool) (dataEnd passLast : Nat) : Nat := if pass then passLast else dataEnd

/-- The first cycle in which the loader's ports conflict, of the requests given for each. -/
def firstConflict (opAddr : Nat) (reqs : List (Nat × List (Nat × Nat))) : List (Nat × CFault) :=
  let faults := reqs.filterMap fun r => (portFault opAddr r.2).map fun f => (r.1, f)
  match faults with
  | [] => []
  | f :: fs => [fs.foldl (fun m x => if x.1 < m.1 then x else m) f]

/-- The request on RP0 for beat `b` of the plane at K index `lo`, if it is read (spec/04 R104, R106, R110). A beat or a scale group of a panel
whose base is not that of a line lies in two lines: the bank of the first alone counts (DESIGN CHOICE, n7). -/
def planeRequest (f : Fmt) (w : Desc) (kEnd lo b : Nat) : List (Nat × Nat) :=
  if b < f.kp / f.g then (if lo + b * f.g < kEnd then [(0, w.base + 512 * (lo / f.g + b))] else [])
  else if w.scaleV && decide (b < f.wBeats true) && decide (lo + 128 * (b - f.kp / f.g) < kEnd) then
    [(0, w.scalePtr + 4 * lo + 512 * (b - f.kp / f.g))]
  else []

/-- The requests of the loader `x` cycles after pass `p` of a MATMUL begins: the next plane's line on RP0, on RP1 the line of the row whose
slot it is, on RP2 the row's scale bytes (spec/04 R105 to R107). `per` is the row period, `np` the number of passes, `mc` that of rows. -/
def passRequests (a w : Desc) (live : Nat → Bool) (k0 kEnd per np mc p x : Nat) : List (Nat × Nat) :=
  let f := a.fmt
  let lo := k0 + p * f.kp
  let n := f.bytes (min (lo + f.kp) kEnd - lo)
  let i := x / per
  let d := x % per
  let ra := a.rowAddr (a.rowIdx i) + f.bytes lo
  let plane := if np ≤ p + 1 then [] else planeRequest f w kEnd (lo + f.kp) x
  let row :=
    if kEnd ≤ lo || mc ≤ i || !live i || 2 ≤ d then []
    else if d = 0 then (1, ra) :: (if a.scaleV then [(2, a.scalePtr + i * ceilDiv (dim a.ext 0) 32 + lo / 32)] else [])
    else if ra / 512 = (ra + n - 1) / 512 then [] else [(1, ra + n - 1)]
  plane ++ row

/-- The lines that `n` bytes from an offset lie in (spec/03 R80). -/
def linesAt (a n : Nat) : List Nat := (List.range (ceilDiv (a % 512 + n) 512)).map fun i => 512 * (a / 512 + i)

/-- One more line, by its number, in the place that its key gives it. -/
def placeLine (key : Nat → Nat) (x : Nat × Nat) : List (Nat × Nat) → List (Nat × Nat)
  | [] => [x]
  | y :: ys => if key x.2 ≤ key y.2 then x :: y :: ys else y :: placeLine key x ys

/-- The lines that an anchor pass reads, in their order on RP3: R106 and R116 give none, and it is free (n4). -/
def passOrder (opAddr : Nat) (lines : List Nat) : List Nat :=
  (lines.zipIdx.foldr (placeLine fun i => (Config.passKey opAddr i).toNat) []).map Prod.fst

/-- The lines of the weight side of an anchor pass: of each of `t` column tiles `n`, at `stride` bytes from the one before (R116). -/
def weightLines (base stride t n : Nat) : List Nat :=
  (List.range t).flatMap fun tau => (List.range n).map fun i => base + stride * tau + 512 * i

/-- Of lines that go out on RP3 one a cycle from cycle `start` on, be it beyond the length of the pass (DESIGN CHOICE, n7), that of cycle
`t`. -/
def tagPort (lines : List Nat) (start t : Nat) : List (Nat × Nat) :=
  if t < start then [] else (match lines[t - start]? with | some x => [(3, x)] | none => [])

/-- MATMUL (R180 to R182). An M above 1,024 is an extent above the limit of R109 (reason 0x0B; DEDUCED, n15). The rows opened beyond the
rows of A have a free L (R116 gives none; n4). -/
def planMatmul : PlanFn := fun s c o => do
  let k := s.core c
  let ds ← k.refs o 2 []
  let a := ds.getD 0 default_desc
  let w := ds.getD 1 default_desc
  ownScratch [a, w]
  need (w.rank == 2) 0x08
  let srow := o.fld 9 0; let mc := o.fld 20 10; let nc := o.fld 28 21
  let k0 := o.fld 52 29; let ko := o.fld 76 53; let kred := o.fld 108 77
  need (mc != 0 && nc != 0 && k0 % 64 == 0 && ko != 0 && decide (k0 + ko ≤ kred)) 0x11
  need (decide (mc ≤ 1024) && decide (nc ≤ 128)) 0x0B
  productFormats s a.fmt w.fmt a.scaleV w.scaleV
  let isOpen := bit o.var 0
  let mode := accModeOf a.fmt a.scaleV
  let pass := isOpen && mode != .exact
  need (!pass || (a.planeCovers mode (dim a.ext 0) kred && w.planeCovers mode (dim w.ext 1) kred)) 0x0F
  let tp := s.tp1 c
  let nb := ceilDiv kred mode.block
  let iss := latIss tp; let ld := latLd tp
  let ap := if pass then ld + max (ceilDiv nb 4) (mc * ceilDiv nb 64) else 0
  let wb := w.fmt.wBeats w.scaleV
  let cross := rowsCross a (min mc a.rows) k0 ko
  let per := rowPeriod a cross
  let q := max (mc * per) wb
  let np := ceilDiv ko a.fmt.kp
  let a0 := iss + max ap (ld + wb) + 1
  let aLast := a0 + (np - 1) * (q + 1)
  let lastTerm := aLast + (mc - 1) * per + latArr tp
  let u := lastTerm + latPot tp
  let wEnd := if np = 1 then iss + ld + wb - 1 else aLast - (q + 1) + wb - 1
  let aEnd := aLast + (mc - 1) * per + b2n cross
  let art := k.rt a
  let live (i : Nat) : Bool := decide (i < a.rows) && rowLive a art (a.rowIdx i)
  let rows := (List.range mc).filter live
  let n := min nc (dim (k.rt w) 0)
  let kEnd := min (k0 + ko) (dim art 0)
  let masked := rows.isEmpty || decide (n = 0) || decide (kEnd ≤ k0)
  let anchored := pass && mode == .anchored
  let wHulls := w.panelHulls (if anchored then nb else ceilDiv (dim w.ext 1) 64)
  legal 0 do
    a.checkHulls o
    wHulls.forM fun h => inScratch o h.1 h.2
    rowBound o (srow + mc)
    termBound o mode kred
    if !isOpen && !masked then rowsOpenIn k o srow mc mode.code a.fmt.code
    let wSide := if mode = .scaled then w.scalePtr else w.tagPtr
    let aSide := if mode = .scaled then a.scalePtr else a.tagPtr
    let lines := if pass then
        passOrder o.addr (linesAt aSide (mc * ceilDiv (dim a.ext 0) mode.block) ++ weightLines wSide 0 1 (ceilDiv nb 4))
      else []
    let tagLine (t : Nat) : List (Nat × Nat) := tagPort lines iss t
    let start := (List.range wb).map fun t => (iss + t, planeRequest a.fmt w kEnd k0 t ++ tagLine (iss + t))
    let rowsOf (p : Nat) : List (Nat × List (Nat × Nat)) := (List.range q).map fun x =>
      let t := a0 + p * (q + 1) + x - ld
      (t, passRequests a w live k0 kEnd per np mc p x ++ tagLine t)
    .ok { ranges := a.readRanges a.hulls aEnd (passEnd anchored aEnd (iss + ap - 1)) aEnd
            ++ w.readRanges wHulls wEnd (passEnd anchored wEnd (iss + ap - 1)) (if pass then max wEnd (iss + ap - 1) else wEnd)
            ++ [potRange srow mc 0 u]
          windows := [(1, 0, 0), (2, iss, max aEnd wEnd - ld), (4, iss + ld, aLast + mc * per - 1),
                      (6, if pass then iss + ld else a0 + latArr tp, lastTerm)]
          done := some (u + 1)
          faults := if masked then [] else firstConflict o.addr (start ++ (List.range np).flatMap rowsOf)
          effect := fun _ s =>
            if masked then s
            else
              let k := s.core c
              let k := if !isOpen then k else (List.range mc).foldl (fun k i =>
                k.openRow (srow + i) mode.code a.fmt.code o.addr 0 fun j =>
                  if mode != .exact && decide (a.rows ≤ i) then (Config.unusedL (128 * (srow + i) + j)).toInt
                  else openL a.fmt mode nb (a.planeByte k mode i) (w.panelByte k mode nb j)) k
              let steps := (List.range np).flatMap fun p => rows.map fun i => (p, i)
              s.setCore c (runSteps (fun pi => s.cyc + a0 + pi.1 * (q + 1) + pi.2 * per + latArr tp + latPot tp)
                (fun k (pi : Nat × Nat) =>
                let lo := k0 + pi.1 * a.fmt.kp
                let hi := min (lo + a.fmt.kp) kEnd
                let ks := (List.range (hi - lo)).map (lo + ·)
                k.addTerms o.addr (srow + pi.2) pi.2 n ks (fun kk => a.elem k.scratch (a.rowIdx pi.2) kk)
                  (fun kk j => w.panel k.scratch kk j)) k steps) }
where
  default_desc : Desc := ⟨false, .fp32, 1, false, false, 0, 0, 0, [], [], [], 0⟩

/-- MATMUL issues (spec/07 R180). -/
def execMatmul (c : Nat) (s : State) : Out := issueRow "MATMUL" (isOpc 0x01) planMatmul c s

/-! ## MATVEC -/

/-- Padded bytes of one vector in the hold (spec/04 R118). -/
def vecBytes (f : Fmt) (scaled : Bool) (ko : Nat) : Nat :=
  32 * ceilDiv (f.bytes ko + (if scaled then ceilDiv ko 32 else 0)) 32

/-- Element `j` of held vector `v`, under its scale byte. -/
def Core.vecElem (k : Core) (f : Fmt) (scaled : Bool) (ko v j : Nat) : Dec × Arith :=
  let base := v * vecBytes f scaled ko
  let r := decodeA f (loadElem k.vhold f base j)
  if scaled then underScale r (Memory.get k.vhold (base + f.bytes ko + j / 32)).toNat else r

/-- The tag or scale byte of block `b` of held vector `v` (R120): elements at or beyond `n` are masked (spec/10 R254), and so is the scale
of a block that holds no other (DEDUCED, n15). -/
def Core.vecPlane (k : Core) (f : Fmt) (m : AccMode) (ko n v b : Nat) : Nat :=
  let base := v * vecBytes f (m = .scaled) ko
  if m = .scaled then (if n ≤ 32 * b then 255 else (Memory.get k.vhold (base + f.bytes ko + b)).toNat)
  else blockTag f ((List.range (min 64 (min ko n - 64 * b))).map fun i => loadElem k.vhold f base (64 * b + i))

/-- Sizes of the beats that fill the hold (R118). -/
def holdBeats (total : Nat) : List Nat :=
  (List.range (ceilDiv total 512)).map fun b => min 512 (total - 512 * b)

/-- All vectors of one panel beat: nothing is added if one of them breaches (R108). -/
def runBeat (k : Core) (vs : List Nat) (f : Core → Nat → Except CFault Core) : Except CFault Core := vs.foldlM f k

/-- The L of an element of row `r` of a MATVEC's residency (R61, R116, R120): free where the panel has no such column (n4). -/
def MatvecArgs.openL (a : MatvecArgs) (k : Core) (r j : Nat) : Int :=
  let mode := accModeOf a.w.fmt a.w.scaleV
  let nb := ceilDiv a.kred mode.block
  let col := 128 * (r / a.vc) + j
  let vp (b : Nat) : Nat :=
    if a.kred = a.ko then k.vecPlane a.w.fmt mode a.ko a.kEnd (r % a.vc) b else a.pl.planeByte k mode (r % a.vc) b
  if mode != .exact && decide (128 * ceilDiv (dim a.w.ext 0) 128 ≤ col) then (Config.unusedL (128 * (a.srow + r) + j)).toInt
  else Machine.openL a.w.fmt mode nb vp (a.w.panelByte k mode nb col)

/-- The products of a MATVEC (R117, R119), with the vectors in the hold. The record of a breach names the row of the stockpot: R108 speaks of
the array's activation rows alone (DESIGN CHOICE, n15). -/
def MatvecArgs.run (a : MatvecArgs) (tp : Bool) (k : Core) : Core :=
  let mode := accModeOf a.w.fmt a.w.scaleV
  let t := ceilDiv a.nc 128
  let nq := ceilDiv a.ko a.w.fmt.g
  let k := if !a.isOpen then k else (List.range (a.vc * t)).foldl (fun k r =>
    k.openRow (a.srow + r) mode.code a.w.fmt.code a.opAddr 1 fun j => a.openL k r j) k
  let beats := (List.range t).flatMap fun i => (List.range nq).map fun q => (i, q)
  runSteps (fun tq => a.cyc + a.f + tq.1 * nq + tq.2 + latMvu tp + latPot tp) (fun k (tq : Nat × Nat) =>
    let lo := a.k0 + tq.2 * a.w.fmt.g
    let hi := min (lo + a.w.fmt.g) a.kEnd
    let ks := (List.range (hi - lo)).map (lo + ·)
    runBeat k (List.range a.vc) fun k v =>
      k.addTerms a.opAddr (a.srow + a.vc * tq.1 + v) (a.srow + a.vc * tq.1 + v) (min 128 (a.n - 128 * tq.1)) ks
        (fun kk => k.vecElem a.w.fmt a.w.scaleV a.ko v (kk - a.k0))
        (fun kk j => a.w.panel k.scratch kk (128 * tq.1 + j))) k beats

/-- The bytes that a MATVEC has taken fill the hold; what it holds beyond them is zero (R118 says nothing of the rest; DESIGN CHOICE, n15). -/
def Core.fillHold (k : Core) (bs : List Byte) : Core := { k with vhold := Memory.write (Memory.zero k.vhold 0 16384) 0 bs }

/-- What a MATVEC works with: its panel, the tensor of its planes where it names one, and its fields, over the run-time extents (R178, R183);
`f` is the offset of its first panel beat, `cyc` the cycle in which it issues. -/
def Core.matvecArgs (k : Core) (o : Op) (w pl : Desc) (f cyc : Nat) : MatvecArgs :=
  let k0 := o.fld 61 38; let ko := o.fld 85 62; let nc := o.fld 37 14
  ⟨w, pl, o.fld 9 0, o.fld 13 10, ko, o.fld 117 86, k0, nc, min nc (dim (k.rt w) 0), min (k0 + ko) (dim (k.rt w) 1), f, bit o.var 0,
   o.addr, cyc⟩

/-- MATVEC (R183 to R185; spec/04 R117 to R121). Its products are formed as the first panel beat enters; its rows count as open, and the
record of R184 is written, from its issue (DESIGN CHOICE, n15). Planes for the vectors are asked of an op that opens its rows alone, whose
anchor pass reads them (R111, R116, R120; DESIGN CHOICE, n15), and have a row for each vector. -/
def planMatvec : PlanFn := fun s c o => do
  let k := s.core c
  let ds ← k.refs o o.nd []
  let w := ds.getD 0 planMatmul.default_desc
  let pl := ds.getD 1 planMatmul.default_desc
  ownScratch ds
  need (w.rank == 2) 0x08
  let srow := o.fld 9 0; let vc := o.fld 13 10; let nc := o.fld 37 14
  let k0 := o.fld 61 38; let ko := o.fld 85 62; let kred := o.fld 117 86
  need (vc != 0 && nc != 0 && k0 % 64 == 0 && ko != 0 && decide (k0 + ko ≤ kred)) 0x11
  need (decide (vc ≤ 8)) 0x0B
  productFormats s w.fmt w.fmt w.scaleV w.scaleV
  let isOpen := bit o.var 0
  let keep := bit o.var 1
  need (!keep || (k.holdV == vc && k.holdK == ko && k.holdFmt == w.fmt.code)) 0x11
  let mode := accModeOf w.fmt w.scaleV
  let pass := isOpen && mode != .exact
  let fromHold := kred == ko
  need (!pass || w.planeCovers mode (dim w.ext 1) kred) 0x0F
  need (!pass || fromHold || (o.nd == 2 && pl.planeCovers mode (dim pl.ext 0) kred && decide (vc ≤ pl.rows))) 0x0F
  let tp := s.tp1 c
  let iss := latIss tp; let ld := latLd tp
  let t := ceilDiv nc 128
  let nb := ceilDiv kred mode.block
  let total := vc * vecBytes w.fmt w.scaleV ko
  let bv := if keep then 0 else ceilDiv total 512
  let passLen := t * max (ceilDiv nb 4) (vc * ceilDiv nb 64)
  let bh := max ld (if fromHold then bv else 0)
  let ap := if pass then bh + passLen else 0
  let f := iss + max ld (max bv ap)
  let nq := ceilDiv ko w.fmt.g
  let b := t * nq
  let u := f + b - 1 + latMvu tp + latPot tp
  let a := k.matvecArgs o w pl f s.cyc
  let masked := decide (a.n = 0) || decide (a.kEnd ≤ k0)
  let anchored := pass && mode == .anchored
  let wHulls := w.panelHulls (if anchored then nb else ceilDiv (dim w.ext 1) 64)
  legal 0 do
    wHulls.forM fun h => inScratch o h.1 h.2
    (ds.drop 1).forM (Desc.checkHulls o)
    rowBound o (srow + vc * t)
    needF (decide (total ≤ 16384)) (tileOverflow o.addr 2 0 total 16384)
    termBound o mode kred
    if !isOpen && !masked then rowsOpenIn k o srow (vc * t) mode.code w.fmt.code
    let last := f + b - 1
    let side (d : Desc) : Nat := if mode = .scaled then d.scalePtr else d.tagPtr
    let lines := if pass then passOrder o.addr (
        (if fromHold then [] else linesAt (side pl) (vc * ceilDiv (dim pl.ext 0) mode.block))
          ++ weightLines (side w) (128 * if mode = .scaled then ceilDiv (dim w.ext 1) 32 else nb) t (ceilDiv nb 4))
      else []
    .ok { ranges := w.readRanges wHulls last (passEnd anchored last (f - 1)) last
            ++ (ds.drop 1).flatMap (fun d => d.ranges 1 (some (passEnd (pass && !fromHold) last (f - 1))))
            ++ [potRange srow (vc * t) 0 u]
          windows := [(1, 0, 0), (2, if pass then iss + bh - ld else f - ld, last - ld), (5, f, last),
                      (6, if pass then iss + bh else f + latMvu tp, last + latMvu tp)]
          done := some (u + 1)
          faults := if masked then [] else firstConflict o.addr ((List.range b).map fun i =>
            let lo := k0 + i % nq * w.fmt.g
            (f + i - ld, (if a.kEnd ≤ lo then [] else
              (0, w.base + 512 * (i / nq * ceilDiv (dim w.ext 1) w.fmt.g + lo / w.fmt.g)) ::
                (if w.scaleV && lo % 32 == 0 then [(1, w.scalePtr + 128 * (i / nq * ceilDiv (dim w.ext 1) 32 + lo / 32))] else []))
              ++ tagPort lines (iss + bh - ld) (f + i - ld)))
          effect := fun _ s =>
            if masked then s
            else
              let fill := if keep then [] else (List.range bv).zip (holdBeats total) |>.map fun x => (iss + x.1, x.2)
              let s := s.modCore c fun k =>
                let k := if !isOpen then k else (List.range (vc * t)).foldl (fun k r =>
                  k.openRow (srow + r) mode.code w.fmt.code o.addr 1 fun _ => 0) k
                if keep then k else { k with holdV := vc, holdK := ko, holdFmt := w.fmt.code }
              s.feed c 0 o.addr (fill ++ [(f, 0)]) (.matvec a) }

/-- MATVEC issues (spec/07 R183). -/
def execMatvec (c : Nat) (s : State) : Out := issueRow "MATVEC" (isOpc 0x02) planMatvec c s

end Sys2Proof.Machine
end

