-- ==== Sys2Proof/Machine/Whisk.lean ====
section
/-!
DEFINITION. Sys2Proof/Machine/Whisk.lean: the whisk engine (spec/05 R137 to R145), the timeline of the element ops with its
side lines (spec/08 R203, spec/05 R134), and WHISK (spec/08 R204).
-/
namespace Sys2Proof.Machine

/-! ## The whisk block (R138, R139, R143) -/

/-- The operands a step reads: 1, 2 or 3 of them, or none (R140). -/
def WStep.uses (t : WStep) : List Nat :=
  match t.opc with
  | 0x01 | 0x02 | 0x03 | 0x05 | 0x06 | 0x0A | 0x0B | 0x0C | 0x16 => [t.a, t.b]
  | 0x04 | 0x09 | 0x0F => [t.a, t.b, t.c]
  | 0x18 => []
  | _ => [t.a]

/-- Has the program a RANDU step? -/
def WBlock.random (w : WBlock) : Bool := w.steps.any fun t => t.opc == 0x18

/-- The whisk block at an offset, with the checks of R143; `cols` and `rows` are the op's innermost extent and row count. -/
def WBlock.parse (bs : List Byte) (cols rows : Nat) : Check WBlock := do
  let u (o n : Nat) : Nat := leNat ((bs.drop o).take n)
  let h := u 0 4
  let n := bits h 5 0
  let inputs := bits h 7 6
  need (decide (1 ≤ n) && decide (n ≤ 32) && inputs != 0 && bits h 31 18 == 0 && u 52 12 == 0 && u 240 16 == 0) 0x0D
  let words := (List.range n).map fun i => u (64 + 4 * i) 4
  let steps := words.map fun w => (⟨bits w 5 0, bits w 8 6, bits w 13 9, bits w 18 14, bits w 23 19⟩ : WStep)
  need (words.all fun w => bits w 31 24 == 0) 0x0D
  need (steps.all fun t => decide (1 ≤ t.opc) && decide (t.opc ≤ 0x18) && t.a != 13 && t.b != 13 && t.c != 13) 0x0D
  need (steps.all fun t => t.uses.all fun x => (x != 10 || inputs == 3) && (x != 9 || decide (2 ≤ inputs))
    && !(decide (14 ≤ x) && decide (x ≤ 19) && !bit h (12 + (x - 14)))) 0x0D
  let table := (List.range 6).map fun v =>
    let w := u (192 + 8 * v) 8
    (⟨bits w 23 0, bits w 34 24, bit w 35⟩ : TSlot)
  need ((List.range 6).all fun v =>
    let t := table.getD v ⟨0, 0, false⟩
    bits (u (192 + 8 * v) 8) 63 36 == 0 && (!bit h (12 + v) || (t.offset % 512 == 0 && t.len != 0 && decide (t.len ≤ 1024)
      && decide ((if t.byRow then rows else cols) ≤ t.len)))) 0x0D
  .ok { inputs := inputs, out := bits h 10 8, fifo := bit h 11, slots := bits h 17 12,
        consts := (List.range 12).map fun i => u (4 + 4 * i) 4, steps := steps, table := table }

/-- Do the inputs of a block fit the references of its op: those of a WHISK its ND, that of a DRAIN the rows (spec/08 R204, spec/07 R199)? -/
def WBlock.fitsOp (w : WBlock) (o : Op) : Bool :=
  if o.opc = 0x10 then o.nd == w.inputs + (if w.fifo then 0 else 1) else w.inputs == 1 && !w.fifo

/-- The whisk block of an op: that in the scratchpad. An op found legal when it was due stays so (R157) if the block then changes to one that is
not: it runs the one that was checked (DESIGN CHOICE, n15). -/
def Core.whiskBlock (k : Core) (o : Op) (off cols rows : Nat) : Check WBlock :=
  let now := WBlock.parse (Memory.read k.scratch off 256) cols rows
  match k.legalBlk, now with
  | some old, .ok w => if w.fitsOp o then now else WBlock.parse old cols rows
  | some old, .error _ => WBlock.parse old cols rows
  | none, _ => now

/-- The table slots in use, in slot order. -/
def WBlock.used (w : WBlock) : List TSlot :=
  ((List.range 6).filter fun v => bit w.slots v).map fun v => w.table.getD v ⟨0, 0, false⟩

/-- Preload cycles Pᵥ (R144). -/
def WBlock.preload (w : WBlock) : Nat := w.used.foldl (fun t x => t + ceilDiv (4 * x.len) 512) 1

/-- The ranges of the block and its tables, in order (R85, R475), with their retirement. -/
def WBlock.ranges (w : WBlock) (off iss ld : Nat) : List Range :=
  sRange off 256 1 (some (iss + ld)) ::
    (w.used.foldl (fun (r : List Range × Nat) x =>
      let e := r.2 + ceilDiv (4 * x.len) 512
      (r.1 ++ [sRange x.offset (4 * x.len) 1 (some (iss + e - 1 + ld))], e)) ([], 1)).1

/-! ## Steps (R140 to R142) -/

/-- What a lane sees of its element: inputs, coordinates, logical index, seed and stream. -/
structure Lane where
  x      : List Nat
  col    : Nat
  row    : Nat
  idx    : Nat
  seed   : Nat
  stream : Nat

/-- A natural number as FP32 by RNE (R139). -/
def nat32 (n : Nat) : Nat := (encode .fp32 ⟨.finite, false, n, 0⟩ .rne).1

/-- The operand a select code names (R139). -/
def operand (w : WBlock) (m : Memory) (l : Lane) (ws : List Nat) (sel : Nat) : Nat :=
  if sel < 8 then ws.getD sel 0
  else if sel < 11 then l.x.getD (sel - 8) 0
  else if sel = 11 then nat32 l.col
  else if sel = 12 then nat32 l.row
  else if sel < 14 then 0
  else if sel < 20 then
    let t := w.table.getD (sel - 14) ⟨0, 0, false⟩
    Memory.nat m (t.offset + 4 * (if t.byRow then l.row else l.col)) 4
  else w.consts.getD (sel - 20) 0

/-- A value of a step before rounding, with NAN_GEN. -/
abbrev Raw := Dec × Bool

/-- The sum of two values (R141); `za` and `zb` are the codes that name the sign of a zero sum. -/
def addRaw (a b : Dec) (za zb : Nat) : Raw :=
  if a.cls = .nan ∨ b.cls = .nan then (Dec.nan, false)
  else if a.isInf && b.isInf then (if a.cls = b.cls then (a, false) else (Dec.nan, true))
  else if a.isInf then (a, false)
  else if b.isInf then (b, false)
  else
    let e := min a.e b.e
    let v : Int := (if a.neg then -1 else 1) * (a.m * 2 ^ (a.e - e).toNat : Nat)
      + (if b.neg then -1 else 1) * (b.m * 2 ^ (b.e - e).toNat : Nat)
    (⟨.finite, if v = 0 then Config.zeroSumNeg za zb else decide (v < 0), v.natAbs, e⟩, false)

/-- The negation of a value. -/
def Dec.negate (a : Dec) : Dec :=
  ⟨match a.cls with | .posInf => .negInf | .negInf => .posInf | x => x, !a.neg, a.m, a.e⟩

/-- The magnitude of a value. -/
def Dec.abs (a : Dec) : Dec := ⟨match a.cls with | .negInf => .posInf | x => x, false, a.m, a.e⟩

/-- MIN and MAX of R141: of equal values, a. -/
def minMax (isMax : Bool) (a b : Dec) : Dec :=
  if a.cls = .nan ∨ b.cls = .nan then Dec.nan
  else match a.cmp b with
    | .eq => a
    | .lt => if isMax then b else a
    | .gt => if isMax then a else b

/-- A finite value as an integer: FLOOR (toward −inf) or RINT (ties to even). -/
def intPart (rint : Bool) (a : Dec) : Int :=
  if rint then
    let q := roundShift a.m (-a.e) .rne
    if a.neg then -(q : Int) else q
  else
    let q := roundShift a.m (-a.e) .rtz
    let exact := decide (a.e ≥ 0) || a.m % 2 ^ (-a.e).toNat == 0
    if a.neg then (if exact then -(q : Int) else -(q : Int) - 1) else q

/-- FLOOR and RINT (R140, R141). -/
def roundStep (rint : Bool) (a : Dec) (code : Nat) : Raw :=
  match a.cls with
  | .nan => (Dec.nan, true)
  | .finite =>
    let v := intPart rint a
    (⟨.finite, if v = 0 then Config.zeroIntNeg (b2n rint) code else decide (v < 0), v.natAbs, 0⟩, false)
  | _ => (a, false)

/-- A comparison: never true of a NaN (R141). -/
def cmpStep (p : Ordering → Bool) (a b : Dec) : Nat :=
  if a.cls = .nan ∨ b.cls = .nan then 0 else if p (a.cmp b) then 0x3F800000 else 0

/-- One FP32 result rounded from a raw value. -/
def roundRaw (r : Raw) (mode : Rnd) : Nat × Arith :=
  let e := encode .fp32 r.1 mode
  (e.1, e.2.or { nanGen := r.2 })

/-- One step (R140): the FP32 code of its result and the status bits it sets. -/
def stepValue (t : WStep) (l : Lane) (mode : Rnd) (ca cb cc : Nat) : Nat × Arith :=
  let da := decodeA .fp32 ca
  let db := decodeA .fp32 cb
  let dc := decodeA .fp32 cc
  let a := da.1; let b := db.1; let c := dc.1
  let exact (d : Dec) : Nat × Arith := ((encode .fp32 d .rne).1, {})
  let r : Nat × Arith := match t.opc with
    | 0x01 => roundRaw (addRaw a b ca cb) mode
    | 0x02 => roundRaw (addRaw a b.negate ca cb) mode
    | 0x03 => roundRaw (product a b 0) mode
    | 0x04 =>
      let p := product a b 0
      let q := addRaw p.1 c ca cb
      roundRaw (q.1, p.2 || q.2) mode
    | 0x05 => exact (minMax false a b)
    | 0x06 => exact (minMax true a b)
    | 0x07 => exact a.abs
    | 0x08 => exact a.negate
    | 0x09 => if a.cls ≠ .nan ∧ !a.isZero then exact b else exact c
    | 0x0A => (cmpStep (· == .lt) a b, {})
    | 0x0B => (cmpStep (· != .gt) a b, {})
    | 0x0C => (cmpStep (· == .eq) a b, {})
    | 0x0D => let q := roundStep false a ca; ((exact q.1).1, { nanGen := q.2 })
    | 0x0E => let q := roundStep true a ca; ((exact q.1).1, { nanGen := q.2 })
    | 0x0F => exact (minMax false (minMax true a b) c)
    | 0x10 => trans .exp2 a mode
    | 0x11 => trans .log2 a mode
    | 0x12 => trans .rcp a mode
    | 0x13 => trans .rsqrt a mode
    | 0x14 => trans .tanh a mode
    | 0x15 => trans .erf a mode
    | 0x16 =>
      if a.cls = .nan ∨ b.cls = .nan then (Fmt.nanCode .fp32, {})
      else
        let n : Int := match b.cls with
          | .posInf => 300 | .negInf => -300 | _ => max (-300) (min 300 (intPart true b))
        roundRaw (a.scale n, false) mode
    | 0x17 => exact a
    | _ => exact ⟨.finite, false, bits (keyedRandom l.seed l.stream l.idx).toNat 63 40, -24⟩
  let used := t.uses.length
  let st := (if used = 0 then {} else da.2).or ((if used ≤ 1 then {} else db.2).or (if used ≤ 2 then {} else dc.2))
  (r.1, r.2.or st)

/-- Run the steps on the working registers; the last step rounds in `last` (R142). -/
def runProgram (w : WBlock) (m : Memory) (l : Lane) (last : Rnd) : List WStep → List Nat → List Nat × Arith
  | [], ws => (ws, {})
  | t :: ts, ws =>
    let r := stepValue t l (if ts.isEmpty then last else .rne) (operand w m l ws t.a) (operand w m l ws t.b)
      (operand w m l ws t.c)
    let q := runProgram w m l last ts (ws.set t.dst r.1)
    (q.1, r.2.or q.2)

/-- The result of an element (R137, R142): its FP32 code and the status. -/
def WBlock.run (w : WBlock) (m : Memory) (l : Lane) (last : Rnd) : Nat × Arith :=
  let r := runProgram w m l last w.steps (List.replicate 8 0)
  (r.1.getD w.out 0, r.2)

/-- The mode of the last step (R51, R142). -/
def lastMode (f : Fmt) (mode : Rnd) : Rnd := if f = .fp32 then mode else .rto

/-- A value widened into FP32 (R137). -/
def widen (d : Dec × Arith) : Nat × Arith :=
  let r := encode .fp32 d.1 .rne
  (r.1, d.2.or r.2)

/-! ## Rows and the parts of rows -/

/-- The rows of a tensor over its compiled extents: number and outer indices. -/
def Desc.allRows (d : Desc) : List (Nat × List Nat) := (List.range d.rows).map fun r => (r, d.rowIdx r)

/-- Part of a row: its outer indices, first element and number of elements. -/
abbrev RowPart := List Nat × Nat × Nat

/-- Where the bytes of the live elements of a part of a row lie, and how many there are: none where it is masked (spec/10 R254). -/
def Desc.segBytes (d : Desc) (rt : List Nat) (g : RowPart) : Nat × Nat :=
  if rowLive d rt g.1 then (d.rowAddr g.1 + d.fmt.bytes g.2.1, d.fmt.bytes (min (g.2.1 + g.2.2) (dim rt 0) - g.2.1)) else (0, 0)

/-- Where the live bytes of line `l` of a plane with one byte for `per` elements lie: those of each row (spec/10 R248). -/
def Desc.planeBytes (d : Desc) (rt : List Nat) (base per l : Nat) : List (Nat × Nat) :=
  let w := ceilDiv (dim d.ext 0) per
  d.allRows.filterMap fun r =>
    let lo := max (512 * l) (r.1 * w)
    let hi := min (512 * l + 512) (r.1 * w + ceilDiv (dim rt 0) per)
    if rowLive d rt r.2 && decide (lo < hi) then some (base + lo, hi - lo) else none

/-! ## The slots of a stream, and the timeline of the element ops (spec/08 R203, spec/05 R134) -/

/-- A slot of the loader's stream: an element group, or the empty cycle in which a line of tag or scale bytes is written. -/
inductive LoadSlot where
  | data (g : List RowPart)
  | tags (l : Nat)
  | scales (l : Nat)
  deriving DecidableEq, Repr

/-- Is it an element group? -/
def LoadSlot.isData : LoadSlot → Bool
  | .data _ => true
  | _ => false

/-- Side lines of a destination: tag lines and scale lines. -/
def sideLines (d : Desc) : Nat × Nat :=
  (if d.tagV then ceilDiv d.tagLen 512 else 0, if d.scaleV then ceilDiv d.scaleLen 512 else 0)

/-- Side bytes, one for `per` elements, that are complete when the elements of a part of a row of `n` are there. -/
def sideBytes (n per : Nat) (g : RowPart) : Nat :=
  let upto (x : Nat) : Nat := if x < n then x / per else ceilDiv n per
  upto (g.2.1 + g.2.2) - upto g.2.1

/-- The slots of element groups after `tb` tag and `sb` scale bytes, over rows of `n` elements. A group that completes a side line is
followed by its empty cycle; the lines left are written at the end. One group may complete a tag line and a scale line: the tag line
goes first (R134 gives no order; DESIGN CHOICE, n7). -/
def slotsFrom (lines : Nat × Nat) (n : Nat) : Nat → Nat → List (List RowPart) → List LoadSlot
  | tb, sb, [] => ((List.range lines.1).drop (tb / 512)).map .tags ++ ((List.range lines.2).drop (sb / 512)).map .scales
  | tb, sb, g :: gs =>
    let tb' := g.foldl (fun t x => t + sideBytes n 64 x) tb
    let sb' := g.foldl (fun t x => t + sideBytes n 32 x) sb
    .data g :: (if tb / 512 < min lines.1 (tb' / 512) then [LoadSlot.tags (tb / 512)] else [])
      ++ (if sb / 512 < min lines.2 (sb' / 512) then [LoadSlot.scales (sb / 512)] else []) ++ slotsFrom lines n tb' sb' gs

/-- The cycle of each slot's last beat, from the first on: a group takes `beats` cycles. -/
def slotTimes (beats : Nat) : Nat → List LoadSlot → List (LoadSlot × Nat)
  | _, [] => []
  | t, x :: xs => let n := if x.isData then beats else 1; (x, t + n - 1) :: slotTimes beats (t + n) xs

/-- The offsets of a streaming op: the last cycle of its loader window, the last data beat and its commit, the commits of its last tag
and scale lines, the last commit, and the commit of every slot. -/
structure Timeline where
  loadEnd  : Nat
  lastRead : Nat
  lastData : Nat
  lastTags : Nat
  lastScales : Nat
  last     : Nat
  slots    : List (LoadSlot × Nat)
  deriving DecidableEq, Repr

/-- The common timeline of R203: slots whose first loader cycle is `first`, groups of `beats` input beats, `ld` cycles to the first
station and `path` cycles from there to the commit. -/
def timeline (first beats ld path : Nat) (slots : List LoadSlot) : Timeline :=
  let ts := slotTimes beats first slots
  let lastOf (p : LoadSlot → Bool) : Nat := ts.foldl (fun t x => if p x.1 then x.2 else t) first
  let e := lastOf fun _ => true
  let r := lastOf LoadSlot.isData
  let c := ld + path
  ⟨e, r + ld, r + c, lastOf (fun x => match x with | .tags _ => true | _ => false) + c,
   lastOf (fun x => match x with | .scales _ => true | _ => false) + c, e + c, ts.map fun x => (x.1, x.2 + c)⟩

/-- The ranges a tensor's planes and data are written in, with their retirement: data, tags, scales (R88, R134). -/
def writeRanges (d : Desc) (t : Timeline) : List Range :=
  [sRange d.base d.span 0 (some t.lastData)]
    ++ (if d.tagV then [sRange d.tagPtr d.tagLen 0 (some t.lastTags)] else [])
    ++ (if d.scaleV then [sRange d.scalePtr d.scaleLen 0 (some t.lastScales)] else [])

/-- The banks that a stream writes through WP0, with the cycles (spec/03 R81): each once a cycle. -/
def Desc.wp0 (d : Desc) (rt : List Nat) (t : Timeline) : List (Nat × Nat) :=
  t.slots.flatMap fun x =>
    let rs : List (Nat × Nat) := match x.1 with
      | .data g => g.map (d.segBytes rt)
      | .tags l => d.planeBytes rt d.tagPtr 64 l
      | .scales l => d.planeBytes rt d.scalePtr 32 l
    (rs.flatMap fun r => banksOf r.1 r.2).eraseDups.map fun b => (x.2, b)

/-- The groups of `n` elements that each row of a tensor is cut into. -/
def Desc.rowGroups (d : Desc) (n : Nat) : List (List RowPart) :=
  let n0 := dim d.ext 0
  d.allRows.flatMap fun r => (List.range (ceilDiv n0 n)).map fun j => [(r.2, n * j, min n (n0 - n * j))]

/-- Is an op on the tensor fully masked: is one of its extents 0 at run time (spec/10 R255)? -/
def Desc.masked (d : Desc) (rt : List Nat) : Bool := (rt.take d.rank).any (· == 0)

/-- The least of two extent lists. -/
def minExt (a b : List Nat) : List Nat := (a.zip b).map fun x => min x.1 x.2

/-- The least run-time extents of tensors of equal compiled extents: an element beyond those of any of them is masked (spec/10 R254; DEDUCED,
n15). -/
def Core.least (k : Core) (ds : List Desc) : List Nat :=
  match ds with
  | [] => []
  | d :: r => r.foldl (fun e x => minExt e (k.rt x)) (k.rt d)

/-- The rows within the run-time extents. -/
def Desc.liveRows (d : Desc) (rt : List Nat) : List (Nat × List Nat) := d.allRows.filter fun r => rowLive d rt r.2

/-! ## Seed records (spec/08 R204) -/

/-- The seed in a descriptor slot, with its checks. -/
def Core.seed (k : Core) (slot : Nat) : Check Nat := do
  need (bit k.dvalid (slot / 64)) 0x08
  need (Memory.nat k.dtable (64 * slot + 16) 48 == 0) 0x08
  .ok (Memory.nat k.dtable (64 * slot) 16)

/-! ## WHISK (spec/08 R204) -/

/-- What the lane of an element sees: `fifo` are the beats taken from the whisk port FIFO, whose elements are FP32 (R137 names no format;
DESIGN CHOICE, n15). `r` is the number of the row `o`. -/
def WhiskArgs.lane (a : WhiskArgs) (fifo : List Byte) (m : Memory) (r : Nat) (o : List Nat) (i : Nat) : Lane × Arith :=
  let per := ceilDiv (dim a.out.ext 0) 128
  let ins := a.ins.map fun d => widen (d.elem m o i)
  let x0 := widen (decodeA .fp32 (leNat ((fifo.drop (512 * (r * per + i / 128) + 4 * (i % 128))).take 4)))
  let all := if a.w.fifo then x0 :: ins else ins
  (⟨all.map Prod.fst, i, r, a.out.logical a.rt i o, a.seed, a.stream⟩, all.foldl (fun s x => s.or x.2) {})

/-- The result of a WHISK for an element, before the rounding into the output format, with the status (R137, R142). -/
def WhiskArgs.result (a : WhiskArgs) (fifo : List Byte) (m : Memory) (r : Nat) (o : List Nat) (i : Nat) : Dec × Arith :=
  let l := a.lane fifo m r o i
  let v := a.w.run a.tables l.1 (lastMode a.out.fmt a.mode)
  (decode .fp32 v.1, l.2.or v.2)

/-- A WHISK writes the results of its program for every element within the run-time extents. -/
def WhiskArgs.run (a : WhiskArgs) (fifo : List Byte) (k : Core) : Core :=
  (a.out.liveRows a.live).foldl (fun t r =>
    let xs := (List.range (dim a.live 0)).map (a.result fifo k.scratch r.1 r.2)
    let p := a.out.putDecs t.scratch r.2 (xs.map Prod.fst) a.mode
    ({ t with scratch := p.1 } : Core).orArith ((xs.foldl (fun (s : Arith) x => s.or x.2) {}).or p.2)) k

/-- The beats of a port FIFO for the element groups of a timeline, whose groups take `beats` cycles: the first beat of each, `ld` cycles after
its request. -/
def Timeline.fifoBeats (t : Timeline) (beats ld path : Nat) : List (Nat × Nat) :=
  (t.slots.filter fun x => x.1.isData).map fun x => (x.2 - (ld + path) - (beats - 1) + ld, 512)

/-- The tables in use as they stand in a scratchpad (R144). -/
def WBlock.tables (w : WBlock) (m : Memory) : Memory :=
  w.used.foldl (fun t x => Memory.write t x.offset (Memory.read m x.offset (4 * x.len))) []

/-- What a WHISK computes with: its tensors, the output first, its block, its seed and its fields (R204). -/
def Core.whiskArgs (k : Core) (o : Op) (ds : List Desc) (w : WBlock) (seed : Nat) : WhiskArgs :=
  let out := ds.getD 0 planMatmul.default_desc
  ⟨w, out, k.rt out, k.least ds, ds.drop 1, o.rounding 68 67, seed, o.fld 55 24, w.tables k.scratch, o.addr⟩

/-- WHISK (R204). -/
def planWhisk : PlanFn := fun s c o => do
  let k := s.core c
  let ds ← k.refs o o.nd [0]
  ownScratch ds
  let out := ds.getD 0 planMatmul.default_desc
  need ((ds.drop 1).all fun d => d.ext == out.ext) 0x08
  let wblk := o.fld 23 0
  need (wblk % 256 == 0 && decide (wblk < scratchSize) && decide (o.fld 68 67 < 3)) 0x11
  let w ← k.whiskBlock o wblk (dim out.ext 0) out.rows
  let seed ← if w.random then k.seed (o.fld 66 56) else .ok 0
  let tp := s.tp1 c
  let path := latWhisk tp w.steps.length + latCv tp
  let iss := latIss tp; let ld := latLd tp
  let t := timeline (iss + w.preload) w.inputs ld (path + latSt tp) (slotsFrom (sideLines out) (dim out.ext 0) 0 0 (out.rowGroups 128))
  let start := iss + w.preload + ld
  let rt := k.rt out
  let masked := out.masked rt
  legal 0 do
    ds.forM (Desc.checkHulls o)
    w.used.forM fun x => inScratch o x.offset (4 * x.len)
    .ok { ranges := writeRanges out t ++ (ds.drop 1).flatMap (fun d => d.ranges 1 (some t.lastRead)) ++ w.ranges wblk iss ld
          windows := [(1, 0, 0), (2, iss, t.loadEnd), (7, start, t.lastRead),
                      (8, start + w.inputs - 1 + latWhisk tp w.steps.length, t.last - latSt tp - latCv tp),
                      (9, start + w.inputs - 1 + path, t.last - latSt tp)]
          done := some (t.last + 1)
          wp0 := if masked then [] else out.wp0 rt t
          effect := fun _ s =>
            if masked then s
            else
              let k := s.core c
              let a := k.whiskArgs o ds w seed
              if w.fifo then s.feed c 1 o.addr (t.fifoBeats w.inputs ld (path + latSt tp)) (.whisk a)
              else s.setCore c (a.run [] k) }

/-- WHISK issues (spec/08 R204). -/
def execWhisk (c : Nat) (s : State) : Out := issueRow "WHISK" (isOpc 0x10) planWhisk c s

end Sys2Proof.Machine
end

