-- ==== Sys2Proof/Machine/Attend.lean ====
section
/-!
DEFINITION. Sys2Proof/Machine/Attend.lean: ATTEND, its max phase and its sum phase (spec/07 R186 to R193).
-/
namespace Sys2Proof.Machine

/-- −inf in FP32. -/
def negInf32 : Nat := 0xFF800000

/-- max32 of R189 on FP32 codes, with FLUSH_IN of those it reads as zero (spec/02 R44, R55). -/
def max32 (a b : Nat) : Nat × Arith :=
  let x := decodeA .fp32 a
  let y := decodeA .fp32 b
  let st := x.2.or y.2
  if x.1.cls = .nan ∨ y.1.cls = .nan then (Fmt.nanCode .fp32, st)
  else
    let m := if x.1.cmp y.1 = .lt then y.1 else x.1
    (if m.isZero then 0 else (encode .fp32 m .rne).1, st)

/-- The score of R188 from its stockpot element: FP32 bits and status. -/
def scoreOf (sacc : Elem) (scale : Nat) : Nat × Arith :=
  let c := decodeA .fp32 scale
  if sacc.s ≠ .finite ∨ c.1.cls ≠ .finite then
    let p := product sacc.dec c.1 0
    let r := encode .fp32 p.1 .rne
    (r.1, (c.2.or { nanGen := p.2 }).or r.2)
  else if sacc.v = 0 then (0, c.2)
  else
    let r := encode .fp32 (product sacc.dec c.1 0).1 .rne
    (r.1, c.2.or r.2)

/-- The fields of an ATTEND (R186): `rows` are the query rows within the run-time extents, `nb` the 64-element blocks of the compiled
dₕ. -/
structure AttendArgs where
  q     : Desc
  kp    : Desc
  vp    : Desc
  stats : Desc
  srow  : Nat
  mc    : Nat
  nkc   : Nat
  kpos  : Nat
  qpos  : Nat
  scale : Nat
  pline : Nat
  isOpen : Bool
  causal : Bool
  opAddr : Nat
  rows  : List Nat
  nk    : Nat
  nb    : Nat
  dh    : Nat
  dv    : Nat

/-- The accumulation mode of the op. -/
def AttendArgs.mode (a : AttendArgs) : AccMode := accModeOf a.q.fmt false

/-- A key is visible (R188). -/
def AttendArgs.visible (a : AttendArgs) (i j : Nat) : Bool :=
  decide (j < a.nk) && (!a.causal || decide (a.kpos + j ≤ a.qpos + i))

/-- L of the score element of a query row and key (R188). -/
def AttendArgs.scoreL (a : AttendArgs) (k : Core) (i j : Nat) : Int :=
  openL a.q.fmt a.mode (ceilDiv a.dh 64) (a.q.planeByte k a.mode i) (a.kp.panelByte k a.mode a.nb j)

/-- The score element of R188. -/
def AttendArgs.sacc (a : AttendArgs) (k : Core) (i j : Nat) : Acc :=
  (List.range a.dh).foldl (fun x d => x.add a.mode d (a.q.elem k.scratch (a.q.rowIdx i) d) (a.kp.panel k.scratch d j))
    { elem := { v := 0, l := a.scoreL k i j, s := .finite } }

/-- The address of STATS[n]. -/
def AttendArgs.statAddr (a : AttendArgs) (n : Nat) : Nat := a.stats.base + 4 * n

/-- STATS[n]. -/
def AttendArgs.stat (a : AttendArgs) (k : Core) (n : Nat) : Nat := Memory.nat k.scratch (a.statAddr n) 4

/-- A value as an unsigned 8-bit tag: truncated toward zero and clamped to 0..255 (R189; DEDUCED, n9). The clamp sets no OVERFLOW, unlike
the saturation of R53 (DESIGN CHOICE, n9). -/
def tagOfStat (w : Nat) : Nat × Arith :=
  let d := decodeA .fp32 w
  match d.1.cls with
  | .nan => (0, { nanZero := true })
  | .posInf => (255, d.2)
  | .negInf => (0, d.2)
  | .finite => (if d.1.neg then 0 else min 255 (roundShift d.1.m (-d.1.e) .rtz), d.2)

/-- The score pass of one row of a key tile into its score buffer (R187, R193). -/
def AttendArgs.scoreRow (a : AttendArgs) (buf : Nat) (k : Core) (tau i : Nat) : Except CFault Core :=
  let js := (List.range 128).map (128 * tau + ·)
  let xs := js.map fun j => if a.visible i j then a.sacc k i j else { elem := { v := 0, l := a.scoreL k i j, s := .finite } }
  match firstBreach 0 xs with
  | some b => .error (anchorBreach a.opAddr i b.1 b.2.1 b.2.2 0)
  | none =>
    .ok ((k.setElems (buf + (tau % 2) * a.mc + i) 0 (xs.map Acc.elem)).orArith
      (xs.foldl (fun s x => s.or x.arith) {}))

/-- The maximum of one query row over its visible keys (R189). -/
def AttendArgs.rowMax (a : AttendArgs) (k : Core) (i : Nat) : Nat × Arith :=
  let m0 := if a.isOpen then negInf32 else a.stat k i
  (List.range a.nkc).foldl (fun r j =>
    if a.visible i j then
      let t := scoreOf (a.sacc k i j).elem a.scale
      let m := max32 r.1 t.1
      (m.1, (r.2.or t.2).or m.2)
    else r) (m0, {})

/-- The tags of the blocks of STATS that hold an element written, where it has a tag plane (spec/02 R58): they count the elements of a block
that keep their values too (DESIGN CHOICE, n15). -/
def AttendArgs.tagStats (a : AttendArgs) (k : Core) : Core :=
  if !a.stats.tagV then k
  else
    let wrote (b : Nat) : Bool := (List.range 64).any fun i =>
      let n := 64 * b + i
      if n < 128 then a.rows.contains n else decide (n < 128 + a.dv)
    { k with scratch := ([0, 1, 2, 3].filter wrote).foldl (fun m b =>
        Memory.write m (a.stats.tagPtr + b) (rowTags .fp32 (loadRow k.scratch .fp32 (a.statAddr (64 * b)) 64))) k.scratch }

/-- maxphase of R189 after the scores have passed their checks. -/
def AttendArgs.writeStats (a : AttendArgs) (k : Core) : Core :=
  let k1 := a.rows.foldl (fun t i =>
    let r := a.rowMax k i
    ({ t with scratch := Memory.write t.scratch (a.statAddr i) (toLE 4 r.1) } : Core).orArith r.2) k
  a.tagStats <| (List.range a.dv).foldl (fun t n =>
    let v0 := if a.isOpen then (0, {}) else tagOfStat (a.stat k (128 + n))
    let vt := (List.range (ceilDiv a.nk 64)).foldl (fun m b => max m (a.vp.panelByte k .anchored 0 n b)) v0.1
    let w := toLE 4 (encode .fp32 ⟨.finite, false, vt, 0⟩ .rne).1
    ({ t with scratch := Memory.write t.scratch (a.statAddr (128 + n)) w } : Core).orArith v0.2) k1

/-- The exponential of a visible key in the op's format, with its status: rounded to odd into FP32, then encoded, in every format (R190; where
the format is FP32 the pseudocode of R190 is followed and not the general words of R51, n15). -/
def AttendArgs.expo (a : AttendArgs) (k : Core) (i j : Nat) : Nat × Arith :=
  let m := a.stat k i
  if m = negInf32 then (0, {})
  else
    let t := scoreOf (a.sacc k i j).elem a.scale
    let dm := decodeA .fp32 m
    let x := decode .fp32 t.1
    let st := t.2.or dm.2
    let sub : Nat × Arith :=
      if x.cls = .nan ∨ dm.1.cls = .nan then (Fmt.nanCode .fp32, {})
      else if x.isInf && dm.1.isInf && x.cls = dm.1.cls then (Fmt.nanCode .fp32, { nanGen := true })
      else if x.isInf then (t.1, {})
      else if dm.1.isInf then encode .fp32 (Dec.inf (!dm.1.neg)) .rne
      else
        let e := min x.e dm.1.e
        let v : Int := (if x.neg then -1 else 1) * (x.m * 2 ^ (x.e - e).toNat : Nat)
          - (if dm.1.neg then -1 else 1) * (dm.1.m * 2 ^ (dm.1.e - e).toNat : Nat)
        encode .fp32 ⟨.finite, if v = 0 then Config.zeroSumNeg t.1 m else decide (v < 0), v.natAbs, e⟩ .rne
    let ex := trans .exp2 (decode .fp32 sub.1) .rto
    let p := convertElem .fp32 a.q.fmt ex.1 .rne
    (p.1, (st.or sub.2).or (ex.2.or p.2))

/-- The value pass of one query row and key tile (R190): the P row, the outputs and the row's sum. -/
def AttendArgs.valueRow (a : AttendArgs) (k : Core) (tau i : Nat) : Except CFault Core :=
  let js := (List.range (min 128 (a.nkc - 128 * tau))).map (128 * tau + ·)
  let ps := js.map fun j => if a.visible i j then a.expo k i j else (0, {})
  let k := { k with scratch := Memory.write k.scratch (512 * (a.pline + (tau % 2) * a.mc + i))
                      (packRow a.q.fmt (ps.map Prod.fst)) }
  let k := k.orArith (ps.foldl (fun s p => s.or p.2) {})
  let seen := (js.zip ps).filter fun x => a.visible i x.1
  let code (j : Nat) : Nat := (ps.getD (j - 128 * tau) (0, {})).1
  match k.addTerms a.opAddr (a.srow + i) i a.dv (seen.map Prod.fst) (fun j => decodeA a.q.fmt (code j))
      (fun j n => a.vp.panel k.scratch j n) with
  | .error e => .error e
  | .ok k =>
    let mode := a.mode
    let x := seen.foldl (fun (x : Acc) (y : Nat × Nat × Arith) => x.add mode y.1 (decodeA a.q.fmt y.2.1) (oneDec, {}))
      ({ elem := k.elem (a.srow + a.mc) i } : Acc)
    match x.breach with
    | some kk => .error (anchorBreach a.opAddr i i kk x.elem.l 0)
    | none => .ok ((k.setElem (a.srow + a.mc) i x.elem).orArith x.arith)

/-- The rows of a score buffer, closed (R187). -/
def closeBuffers (k : Core) (row n mode fmt opAddr : Nat) : Core :=
  (List.range n).foldl (fun k i => { k with rows := Tab.set {} k.rows (row + i) ⟨false, mode, fmt, opAddr, 0⟩ }) k

/-- The cycles of an ATTEND that its requests follow (R193): its first row, the length of a period, the offset of slot B, the lag, the row
period, the number of key tiles. -/
structure AttendTime where
  iss  : Nat
  ld   : Nat
  a0   : Nat
  per  : Nat
  slotB : Nat
  lam  : Nat
  pi   : Nat
  t    : Nat

/-- The loader's requests for one slot of an ATTEND that begins in cycle `a`: the lines of its `mc` rows on RP1, and the beats of the plane that
loads in it on RP0 (spec/04 R106, R107; DEDUCED, n7); `tags` gives what stands on RP3 in a cycle. -/
def slotRequests (u : AttendTime) (a mc : Nat) (row : Nat → List (Nat × Nat)) (beats : List (Option Nat)) (tags : Nat → List (Nat × Nat)) :
    List (Nat × List (Nat × Nat)) :=
  (List.range (max (mc * u.pi) beats.length)).map fun d =>
    (a + d - u.ld, (match beats.getD d none with | some x => [(0, x)] | none => [])
      ++ ((row (d / u.pi)).drop (d % u.pi)).take 1 ++ tags (a + d - u.ld))

/-- The lines that the pass over the tags reads for key tile `tau` of an anchored ATTEND, those of the query rows and those of the key panel,
in their order (R188; spec/04 R106, R116). -/
def AttendArgs.tagLines (a : AttendArgs) (tau : Nat) : List Nat :=
  if a.mode != .anchored then []
  else passOrder (a.opAddr + 8192 * tau)
    (linesAt a.q.tagPtr (a.mc * ceilDiv (dim a.q.ext 0) 64) ++ linesAt (a.kp.tagPtr + 128 * a.nb * tau) (128 * a.nb))

/-- Every request of an ATTEND, in the order of the cycles: the key plane of tile 0, then slot by slot. The pass over the tags of a tile runs in
the period before and adds no cycle (R188): its lines go out on RP3 from that period's first cycle on, those of tile 0 from the first request
of the op on, after the two lines of STATS where the op opens an anchored residency (R190, R193; DESIGN CHOICE, n7). -/
def AttendArgs.requests (a : AttendArgs) (sum : Bool) (u : AttendTime) : List (Nat × List (Nat × Nat)) :=
  let g := a.q.fmt.g
  let wk := ceilDiv (dim a.q.ext 0) g
  let key (tau : Nat) : List (Option Nat) :=
    if tau < u.t then (List.range wk).map fun b =>
      if b * g < a.dh then some (a.kp.base + 512 * (tau * ceilDiv (dim a.kp.ext 1) g + b)) else none
    else []
  let value (tau : Nat) : List (Option Nat) := (List.range (ceilDiv 128 g)).map fun b =>
    if 128 * tau + b * g < a.nk then some (a.vp.base + 512 * (128 * tau / g + b)) else none
  let query (i : Nat) : List (Nat × Nat) :=
    if a.rows.contains i then
      let lo := a.q.rowAddr (a.q.rowIdx i)
      let hi := lo + a.q.fmt.bytes a.dh - 1
      if lo / 512 = hi / 512 then [(1, lo)] else [(1, lo), (1, hi)]
    else []
  let line (tau i : Nat) : List (Nat × Nat) := if a.rows.contains i then [(1, 512 * (a.pline + tau % 2 * a.mc + i))] else []
  let lines0 := (if sum && a.isOpen && a.mode == .anchored then linesAt a.stats.base 1024 else []) ++ a.tagLines 0
  let tags (p t : Nat) : List (Nat × Nat) :=
    tagPort lines0 u.iss t ++ (if p + 1 < u.t then tagPort (a.tagLines (p + 1)) (u.a0 + p * u.per - u.ld) t else [])
  let first := ((key 0).zip (List.range wk)).map fun x =>
    (u.iss + x.2, (match x.1 with | some y => [(0, y)] | none => []) ++ tagPort lines0 u.iss (u.iss + x.2))
  first ++ (List.range (u.t + u.lam)).flatMap fun p =>
    let at_ := u.a0 + p * u.per
    slotRequests u at_ a.mc (fun i => if p < u.t then query i else [])
        (if sum then (if u.lam ≤ p then value (p - u.lam) else []) else key (p + 1)) (tags p)
      ++ (if sum then slotRequests u (at_ + u.slotB) a.mc (fun i => if u.lam ≤ p then line (p - u.lam) i else []) (key (p + 1)) (tags p)
          else [])

/-- The fields of an ATTEND with its four tensors, over their run-time extents (R178, R186). -/
def Core.attendArgs (k : Core) (o : Op) (q kp vp st : Desc) : AttendArgs :=
  let mc := o.fld 17 10; let nkc := o.fld 31 18
  let qrt := k.rt q; let krt := k.rt kp; let vrt := k.rt vp
  { q := q, kp := kp, vp := vp, stats := st, srow := o.fld 9 0, mc := mc, nkc := nkc, kpos := o.fld 55 32, qpos := o.fld 79 56,
    scale := o.fld 111 80, pline := o.fld 126 112, isOpen := bit o.var 1, causal := bit o.var 2, opAddr := o.addr,
    rows := (List.range mc).filter fun i => decide (i < q.rows) && rowLive q qrt (q.rowIdx i),
    nk := min nkc (min (dim krt 0) (dim vrt 1)), nb := ceilDiv (dim q.ext 0) 64, dh := min (dim qrt 0) (dim krt 1), dv := dim vrt 0 }

/-- The fields and checks common to the two phases (R186, R187, R192, R193). Of the windows that R193 says end with the op, that of the MVU
begins with the first row, and those of the stations from the stockpot on as the first row's terms reach them (DEDUCED, n7). -/
def planAttend : PlanFn := fun s c o => do
  let k := s.core c
  let sum := bit o.var 0
  let ds ← k.refs o 4 (if sum then [] else [3])
  let dd := planMatmul.default_desc
  let q := ds.getD 0 dd; let kp := ds.getD 1 dd; let vp := ds.getD 2 dd; let st := ds.getD 3 dd
  ownScratch ds
  need (kp.rank == 2 && vp.rank == 2 && st.rank == 1 && st.fmt = .fp32 && dim st.ext 0 == 256) 0x08
  let mc := o.fld 17 10; let nkc := o.fld 31 18; let srow := o.fld 9 0; let pline := o.fld 126 112
  need (mc != 0 && decide (mc ≤ 128) && nkc != 0 && decide (nkc ≤ 16383) && decide (pline ≤ 24575)) 0x11
  need (decide (q.fmt = kp.fmt) && decide (q.fmt = vp.fmt)) 0x09
  need (!q.fmt.isInt && !q.scaleV && !kp.scaleV && !vp.scaleV) 0x11
  need (!(s.fuses.grade = .tx768 && q.fmt.fusedOn768)) 0x0A
  let f := q.fmt
  let dhC := dim q.ext 0
  need (decide (dhC ≤ f.kp) && decide (dim vp.ext 0 ≤ 128)) 0x0B
  let mode := accModeOf f false
  let anchored := mode == .anchored
  need (!anchored || (q.tagV && kp.tagV && decide (dhC ≤ dim kp.ext 1))) 0x0F
  need (sum || vp.tagV) 0x0F
  let a := k.attendArgs o q kp vp st
  let masked := a.rows.isEmpty
  let tp := s.tp1 c
  let iss := latIss tp; let ld := latLd tp
  let t := ceilDiv nkc 128
  let wk := ceilDiv dhC f.g; let wv := ceilDiv 128 f.g
  let qk := max (mc * f.pi) wk; let qv := max (mc * f.pi) wv
  let ao := if sum && a.isOpen && anchored then ld + 2 else 0
  let a0 := iss + max ao (ld + wk) + 1
  let per := if sum then qk + qv + 2 else qk + 1
  let h := if tp then 294 else 285
  let lam := if sum then ceilDiv (h - qk - 1) per else 0
  let scoreEnd := a0 + (t - 1) * per + (mc - 1) * f.pi
  let valueEnd := a0 + (t - 1 + lam) * per + qk + 1 + (mc - 1) * f.pi
  let lt := latArr tp + latPot tp + latRow tp + latCv tp + latSt tp + 3
  let stop := if sum then valueEnd + latArr tp + latPot tp else scoreEnd + lt - 1
  let readEnd := if sum then valueEnd else scoreEnd
  let term := a0 + latArr tp
  let row := term + latPot tp + latRow tp
  let conv := row + (if sum then latWhisk tp 2 else 0)
  let kHulls := kp.panelHulls (if anchored then a.nb else ceilDiv (dim kp.ext 1) 64)
  let vHulls := vp.panelHulls (if sum then ceilDiv (dim vp.ext 1) 64 else ceilDiv (min nkc (dim vp.ext 1)) 64)
  legal 0 do
    q.checkHulls o
    (kHulls ++ vHulls).forM fun h => inScratch o h.1 h.2
    st.checkHulls o
    if sum then inScratch o (512 * pline) (512 * 2 * mc)
    rowBound o (if sum then srow + 3 * mc + 1 else srow + 2 * mc)
    if sum && !a.isOpen && !masked then rowsOpenIn k o srow (mc + 1) mode.code f.code
    let stats := (banksOf st.base 1024) ++ (if st.tagV then banksOf st.tagPtr 4 else [])
    .ok { ranges := q.readRanges q.hulls scoreEnd scoreEnd scoreEnd ++ kp.readRanges kHulls scoreEnd scoreEnd scoreEnd
            ++ vp.readRanges vHulls readEnd readEnd readEnd
            ++ st.ranges (if sum then 1 else 0) (some (if sum then valueEnd else stop))
            ++ (if sum then [potRange srow mc 0 stop, potRange (srow + mc) 1 0 stop, potRange (srow + mc + 1) (2 * mc) 0 stop,
                             sRange (512 * pline) (512 * 2 * mc) 0 (some valueEnd)]
                else [potRange srow (2 * mc) 0 stop])
          windows := [(1, 0, 0), (2, iss, readEnd - ld), (4, iss + ld, stop), (5, a0, stop),
                      (6, if anchored && (!sum || a.isOpen) then iss + ld else term, stop), (7, row, stop), (8, conv, stop),
                      (9, conv + latCv tp, stop)]
          done := some (stop + 1)
          faults := if masked then [] else firstConflict o.addr (a.requests sum ⟨iss, ld, a0, per, qk + 1, lam, f.pi, t⟩)
          wp0 :=
            if masked then []
            else if sum then (List.range t).flatMap fun tau => a.rows.map fun i =>
              (conv + latCv tp + latSt tp + tau * per + i * f.pi, (pline + tau % 2 * mc + i) % 48)
            else (stats.zip (List.range stats.length)).map fun x => (stop + 1 + x.2 - stats.length, x.1)
          effect := fun _ s =>
            if masked then s
            else
              let k := s.core c
              if !sum then
                let steps := (List.range t).flatMap fun tau => a.rows.map fun i => (tau, i)
                let k1 := runSteps (fun x => s.cyc + a0 + x.1 * per + x.2 * f.pi + latArr tp + latPot tp)
                  (fun k (x : Nat × Nat) => a.scoreRow srow k x.1 x.2) k steps
                s.setCore c (if k1.later.length = k.later.length then closeBuffers (a.writeStats k1) srow (2 * mc) mode.code f.code o.addr else k1)
              else
                let k := if !a.isOpen then k else
                  let vt (n : Nat) : Nat × Arith := tagOfStat (a.stat k (128 + n))
                  let lo (n : Nat) : Int := if anchored then anchoredL f (1 + tagOne f + (vt n).1) else exactL f
                  let ls : Int := if anchored then anchoredL f (1 + 2 * tagOne f) else exactL f
                  let k := (List.range mc).foldl (fun k i => k.openRow (srow + i) mode.code f.code o.addr 0 lo) k
                  let k := k.openRow (srow + mc) mode.code f.code o.addr 0 fun _ => ls
                  if anchored then k.orArith ((List.range a.dv).foldl (fun s n => s.or (vt n).2) {}) else k
                let steps := (List.range (t + lam)).flatMap fun p =>
                  (if p < t then a.rows.map fun i => (true, p, i) else []) ++
                  (if lam ≤ p then a.rows.map fun i => (false, p - lam, i) else [])
                let k := runSteps (fun x => s.cyc + a0 + (if x.1 then x.2.1 * per else (x.2.1 + lam) * per + qk + 1) + x.2.2 * f.pi
                    + latArr tp + latPot tp) (fun k (x : Bool × Nat × Nat) =>
                  if x.1 then a.scoreRow (srow + mc + 1) k x.2.1 x.2.2 else a.valueRow k x.2.1 x.2.2) k steps
                s.setCore c (closeBuffers k (srow + mc + 1) (2 * mc) mode.code f.code o.addr) }

/-- ATTEND in its max phase issues (spec/07 R189). -/
def execAttendMaxPhase (c : Nat) (s : State) : Out :=
  issueRow "ATTEND_MAX_PHASE" (fun o => o.opc == 0x03 && !bit o.var 0) planAttend c s

/-- ATTEND in its sum phase issues (spec/07 R190). -/
def execAttendSumPhase (c : Nat) (s : State) : Out :=
  issueRow "ATTEND_SUM_PHASE" (fun o => o.opc == 0x03 && bit o.var 0) planAttend c s

end Sys2Proof.Machine
end

