-- ==== Sys2Proof/Machine/Element.lean ====
section
/-!
DEFINITION. Sys2Proof/Machine/Element.lean: CONVERT, LAYOUT, RANDOM and TAGFILL (spec/08 R202 to R209, spec/05 R122 to R136).
-/
namespace Sys2Proof.Machine

/-! ## The layout control word and shuffles (spec/05 R124, R125) -/

/-- Bits of an element by its WIDTH code. -/
def widthBits (c : Nat) : Nat := 4 * 2 ^ c

/-- The pairs PACK (5) and UNPACK (6) allow (R122). -/
def widthsOk (mode i o : Nat) : Bool :=
  if mode = 5 then [(1, 0), (2, 1), (3, 2), (3, 1)].contains (i, o)
  else if mode = 6 then [(0, 1), (1, 2), (1, 3), (2, 3)].contains (i, o)
  else true

/-- The control word, with the checks of R124. -/
def LCtl.parse (w : Nat) : Check LCtl := do
  let mode := bits w 2 0
  need (mode != 7 && bits w 15 9 == 0 && !bit w 31) 0x0C
  need (widthsOk mode (bits w 4 3) (bits w 6 5)) 0x0C
  .ok ⟨mode, bits w 4 3, bits w 6 5, bit w 7, bit w 8, bits w 30 16⟩

/-- The entries of a shuffle table. -/
def shuffleTable (m : Memory) (line : Nat) : List Nat := (List.range 512).map fun b => Memory.nat m (512 * line + 2 * b) 2

/-- shuffle of R125; bytes beyond the beat's read as zero. -/
def shuffle (tab : List Nat) (bs : List Byte) : List Byte :=
  tab.map fun e => if bit e 9 then 0 else bs.getD (e % 512) 0

/-- Is every entry legal (R125)? -/
def tableOk (tab : List Nat) : Bool := tab.all fun e => decide (e < 1024)

/-- An op whose shuffle table turns out to be illegal (spec/06 R160): its entries retire as the table arrives. -/
def badTable (c : Nat) (o : Op) (i : Issue) (arrive : Nat) : Issue :=
  { i with ranges := i.ranges.map fun r => { r with retire := some arrive }, done := some (arrive + 1), silent := true,
           wp0 := [], effect := fun _ s => s.modCore c fun k => k.await (s.cyc + arrive) (.illegal o.addr o.opc o.var 0x0E) }

/-! ## CONVERT (spec/08 R207) -/

/-- The positions (row number, outer indices, index) of a tensor's compiled elements, row by row. -/
def Desc.positions (d : Desc) : List (List (Nat × List Nat × Nat)) :=
  d.allRows.map fun r => (List.range (dim d.ext 0)).map fun i => (r.1, r.2, i)

/-- Element groups of `e` elements: each row begins a new one if the target has planes (R133). -/
def elementGroups (d : Desc) (e : Nat) : List (List (Nat × List Nat × Nat)) :=
  if d.tagV || d.scaleV then d.positions.flatMap (pieces e) else pieces e d.positions.flatten

/-- A group as parts of rows. -/
def groupSegs (g : List (Nat × List Nat × Nat)) : List RowPart :=
  g.foldr (fun p t => match t with
    | (o, j, n) :: r => if o = p.2.1 ∧ j = p.2.2 + 1 then (o, p.2.2, n + 1) :: r else (p.2.1, p.2.2, 1) :: t
    | [] => [(p.2.1, p.2.2, 1)]) []

/-- Is a position within run-time extents? -/
def posLive (d : Desc) (rt : List Nat) (p : Nat × List Nat × Nat) : Bool := rowLive d rt p.2.1 && decide (p.2.2 < dim rt 0)

/-- Do two ranges overlap? -/
def overlap (a b : Nat × Nat) : Bool := decide (a.1 < b.1 + b.2) && decide (b.1 < a.1 + a.2)

/-- The overlap of source and destination that R207 permits, and its fault otherwise. -/
def convertOverlap (o : Op) (src dst : Desc) : Check Unit :=
  let inPlace := src.base == dst.base && decide (dst.fmt.width ≤ src.fmt.width) && src.stride == dst.stride
  match (src.hulls.zip (List.range 3)).find? fun a => (dst.hulls.zip (List.range 3)).any fun b =>
    overlap a.1 b.1 && !(a.2 == 0 && b.2 == 0 && inPlace) with
  | none => .ok ()
  | some a => .error (.fault ⟨0x01, o.addr, 0, toLE 1 255 ++ toLE 1 255 ++ toLE 4 a.1.1 ++ toLE 4 a.1.2 ++ toLE 1 1
      ++ toLE 2 o.addr⟩)

/-- The codes that a CONVERT converts, in the order of its groups: those of its source or of the beats taken from the layout port FIFO,
masked ones zero, shuffled where the op asks for that (R207). -/
def ConvertArgs.codes (a : ConvertArgs) (fifo : List Byte) (m : Memory) (groups : List (List (Nat × List Nat × Nat))) : List Nat :=
  (groups.zip (List.range groups.length)).flatMap fun g =>
    let taken := unpackBytes a.src.fmt ((fifo.drop (512 * g.2)).take 512) g.1.length
    let own := (g.1.zip (List.range g.1.length)).map fun p =>
      if !posLive a.dst a.live p.1 then 0
      else if a.ctl.fifo then taken.getD p.2 0 else loadElem m a.src.fmt (a.src.rowAddr p.1.2.1) p.1.2.2
    if a.ctl.mode = 1 then unpackBytes a.src.fmt (shuffle a.tab (packRow a.src.fmt own)) g.1.length else own

/-- A CONVERT decodes, rounds and writes every element within the run-time extents (R207). -/
def ConvertArgs.run (a : ConvertArgs) (fifo : List Byte) (k : Core) : Core :=
  let groups := elementGroups a.dst (4096 / max a.src.fmt.width a.dst.fmt.width)
  let flat := groups.flatten.zip (a.codes fifo k.scratch groups)
  (a.dst.liveRows a.live).foldl (fun (t : Core) r =>
    let row := ((flat.drop (r.1 * dim a.dst.ext 0)).take (dim a.live 0))
    let xs := row.map fun x => a.src.value k.scratch r.2 x.1.2.2 x.2
    let p := a.dst.putDecs t.scratch r.2 (xs.map Prod.fst) a.mode
    ({ t with scratch := p.1 } : Core).orArith ((xs.foldl (fun (s : Arith) x => s.or x.2) {}).or p.2)) k

/-- What a CONVERT works with: its tensors, its mode, and its shuffle table where it shuffles (R207). -/
def Core.convertArgs (k : Core) (o : Op) (src dst : Desc) (ctl : LCtl) : ConvertArgs :=
  ⟨ctl, src, dst, k.least [src, dst], (Rnd.ofCode (o.var % 4)).getD .rne,
   if ctl.mode == 1 then shuffleTable k.scratch ctl.table else [], o.addr⟩

/-- CONVERT. -/
def planConvert : PlanFn := fun s c o => do
  let k := s.core c
  let ds ← k.refs o 2 [1]
  let src := ds.getD 0 planMatmul.default_desc
  let dst := ds.getD 1 planMatmul.default_desc
  ownScratch ds
  need (src.ext == dst.ext) 0x08
  let ctl ← LCtl.parse (o.fld 31 0)
  need (decide (ctl.mode ≤ 1)) 0x0C
  need (decide (o.var % 4 < 3)) 0x11
  let shuf := ctl.mode == 1
  let tp := s.tp1 c
  let groups := elementGroups dst (4096 / max src.fmt.width dst.fmt.width)
  let path := latCv tp + (if shuf then latLay tp else 0)
  let iss := latIss tp; let ld := latLd tp
  let t := timeline (iss + if shuf then 2 else 0) 1 ld (path + latSt tp)
    (slotsFrom (sideLines dst) (dim dst.ext 0) 0 0 (groups.map groupSegs))
  let start := iss + (if shuf then 2 else 0) + ld
  let a := k.convertArgs o src dst ctl
  let masked := dst.masked (k.rt dst)
  legal 0 do
    src.checkHulls o
    dst.checkHulls o
    if shuf then inScratch o (512 * ctl.table) 1024
    convertOverlap o src dst
    let i : Issue :=
      { ranges := src.ranges 1 (some t.lastRead) ++ writeRanges dst t
          ++ (if shuf then [sRange (512 * ctl.table) 1024 1 (some (iss + 1 + ld))] else [])
        windows := [(1, 0, 0), (2, iss, t.loadEnd), (8, start + (path - latCv tp), t.last - latSt tp - latCv tp),
                    (9, start + path, t.last - latSt tp)] ++ (if shuf then [(3, iss + ld, t.loadEnd + ld)] else [])
        done := some (t.last + 1)
        wp0 := if masked then [] else dst.wp0 a.live t
        effect := fun _ s =>
          if masked then s
          else if ctl.fifo then s.feed c 2 o.addr (t.fifoBeats 1 ld (path + latSt tp)) (.convert a)
          else s.modCore c (a.run []) }
    .ok (if shuf && !masked && !tableOk a.tab then badTable c o i (iss + 1 + ld) else i)

/-- CONVERT issues (spec/08 R207). -/
def execConvert (c : Nat) (s : State) : Out := issueRow "CONVERT" (isOpc 0x12) planConvert c s

/-! ## LAYOUT (spec/08 R205, R206; spec/05 R122 to R129) -/

/-- Element `i` of `w` bits of a run of bytes (R42). -/
def bitsElem (m : Memory) (w a i : Nat) : Nat :=
  if w = 4 then (let b := (Memory.get m (a + i / 2)).toNat; if i % 2 = 0 then b % 16 else b / 16)
  else Memory.nat m (a + i * (w / 8)) (w / 8)

/-- Write element `i` of `w` bits; the other nibble of a 4-bit element's byte keeps its bits. -/
def putBits (m : Memory) (w a i x : Nat) : Memory :=
  if w = 4 then
    let b := (Memory.get m (a + i / 2)).toNat
    Memory.set m (a + i / 2) (BitVec.ofNat 8 (if i % 2 = 0 then b / 16 * 16 + x % 16 else b % 16 + 16 * (x % 16)))
  else Memory.write m (a + i * (w / 8)) (toLE (w / 8) x)

/-- Elements of `w` bits packed into bytes. -/
def packBits (w : Nat) : List Nat → List Byte
  | [] => []
  | x :: xs =>
    if w = 4 then
      match xs with
      | [] => [BitVec.ofNat 8 (x % 16)]
      | y :: ys => BitVec.ofNat 8 (x % 16 + 16 * (y % 16)) :: packBits w ys
    else toLE (w / 8) x ++ packBits w xs

/-- The lines that `n` bytes from `a` occupy (spec/03 R80): the bytes of each. -/
def lineSegs (a n : Nat) : List Nat :=
  let first := min n (512 - a % 512)
  first :: (List.range (ceilDiv (n - first) 512)).map fun i => min 512 (n - first - 512 * i)

/-- The elements, from `lo` up to `hi`, that each line of a row holds, over `n` elements (spec/03 R80). -/
def Desc.lineElems (d : Desc) (o : List Nat) (n : Nat) : List (Nat × Nat) :=
  let sizes := lineSegs (d.rowAddr o) (d.fmt.bytes n)
  let per (b : Nat) : Nat := b * 8 / d.fmt.width
  (sizes.foldl (fun (t : List (Nat × Nat) × Nat) b =>
    (t.1 ++ [(per t.2, min n (per (t.2 + b)))], t.2 + b)) ([], 0)).1

/-- The line segments of every compiled row of a tensor. -/
def Desc.segs (d : Desc) : List Nat := d.allRows.flatMap fun r => lineSegs (d.rowAddr r.2) (d.fmt.bytes (dim d.ext 0))

/-- The bytes of a tensor's compiled rows, masked elements zero. -/
def Desc.stream (d : Desc) (m : Memory) (rt : List Nat) : List Byte :=
  d.allRows.flatMap fun r =>
    if rowLive d rt r.2 then
      packRow d.fmt (loadRow m d.fmt (d.rowAddr r.2) (dim rt 0)) ++ List.replicate (d.fmt.bytes (dim d.ext 0) - d.fmt.bytes (dim rt 0)) 0
    else List.replicate (d.fmt.bytes (dim d.ext 0)) 0

/-- Cut a list into pieces of given lengths. -/
def cutBy {α : Type} : List Nat → List α → List (List α)
  | [], _ => []
  | n :: ns, l => l.take n :: cutBy ns (l.drop n)

/-- Write a byte stream over the compiled rows of a tensor: the live elements that it reaches (R247). -/
def Desc.putStream (d : Desc) (rt : List Nat) (bs : List Byte) (m : Memory) : Memory :=
  let rb := d.fmt.bytes (dim d.ext 0)
  (d.liveRows rt).foldl (fun m r =>
    let row := ((bs.drop (r.1 * rb)).take (d.fmt.bytes (dim rt 0)))
    Memory.write m (d.rowAddr r.2) ((packRow d.fmt (unpackBytes d.fmt row (dim rt 0))).take row.length)) m

/-- The output bytes of PASS, SHUFFLE, PACK and UNPACK from the beats of the stream. A shuffle gives 512 bytes for each segment of a source line,
which stands in its beat from byte 0 on; they are laid end to end over the rows of the destination, in row-major order (R125 says nothing of
it; DESIGN CHOICE, n7). PACK and UNPACK fill the last output beat, which begins at byte `lo`, with zeros (R122, R128). -/
def streamOut (ctl : LCtl) (tab : List Nat) (lo : Nat) (beats : List (List Byte)) : List Byte :=
  let w := widthBits ctl.width
  let v := widthBits ctl.owidth
  match ctl.mode with
  | 0 => beats.flatten
  | 1 => beats.flatMap (shuffle tab)
  | _ =>
    let bs := beats.flatten
    let xs := (List.range (bs.length * 8 / w)).map fun i => bitsElem (Memory.write [] 0 bs) w 0 i
    let ys := packBits v (xs.map fun x => if ctl.mode = 5 then x % 2 ^ v else if ctl.sgn then lowBits v (signed w x) else x)
    ys ++ List.replicate (lo + 512 - ys.length) 0

/-- The tiles of a LAYOUT: the order code of its plan, its tiles along M, N and K, and the run-time extents of the plan (spec/10 R259 to
R262). The tile of K is 1. -/
structure Tiles where
  order : Nat
  nm : Nat
  nn : Nat
  nk : Nat
  em : Nat
  en : Nat
  ek : Nat
  deriving DecidableEq, Repr

/-- How many compiled tiles there are. -/
def Tiles.count (t : Tiles) : Nat := t.nm * t.nn * t.nk

/-- The number of tile (m, n, k) in the plan's order (spec/10 R260, R261). -/
def Tiles.no (t : Tiles) (m n k : Nat) : Nat :=
  match t.order with
  | 0 => (m * t.nn + n) * t.nk + k
  | 1 => (m * t.nk + k) * t.nn + n
  | 2 => (n * t.nm + m) * t.nk + k
  | 3 => (n * t.nk + k) * t.nm + m
  | 4 => (k * t.nm + m) * t.nn + n
  | _ => (k * t.nn + n) * t.nm + m

/-- The lines of input beat `b` of column tile `tc` of a TRANSPOSE, over the rows and the columns up to `cols` that a test admits (R126). -/
def beatLines (d : Desc) (w cols : Nat) (live : Nat → Bool) (b tc : Nat) : List Nat :=
  let rho := 32 / w
  ((((List.range rho).map (rho * b + ·)).filter fun i => decide (i < d.rows) && live i).flatMap fun i =>
    let n := (min 128 (cols - 128 * tc) * w + 7) / 8
    let a := d.rowAddr (d.rowIdx i) + 128 * tc * w / 8
    if n = 0 then [] else (List.range (lineSegs a n).length).map fun j => a / 512 + j).eraseDups

/-- The most lines that an input beat of a TRANSPOSE spans (R126, R206). -/
def transposeSigma (d : Desc) (w : Nat) : Nat :=
  let cols := dim d.ext 0
  ((List.range (ceilDiv d.rows (32 / w))).flatMap fun b => (List.range (ceilDiv cols 128)).map fun tc =>
    (beatLines d w cols (fun _ => true) b tc).length).foldl max 1

/-- The tiles of a LAYOUT in a tile mode over its compiled extents (R126, R127). M runs over the rows of the source and N over its innermost
extent (spec/10 R262), so that those of a panel are K and N of R104. -/
def tilesOf (mode w order : Nat) (src : Desc) (ext rt : List Nat) : Tiles :=
  let g := 32 / w
  let nm := if mode = 4 then ceilDiv (ceilDiv (dim src.ext 1) g) 128 else ceilDiv src.rows 128
  let nn := if mode = 3 then ceilDiv (ceilDiv (dim src.ext 0) g) 128 else ceilDiv (dim src.ext 0) 128
  ⟨order, nm, nn, dim ext 2, dim rt 0, dim rt 1, dim rt 2⟩

/-- The effect of the tile modes (R126, R127): `fifo` holds the input beats where SRC_FIFO is set. The source's rows and columns at or beyond the
run-time extents of the plan are masked, and so is a tile that begins there (spec/10 R261, R262). Of the tiles that differ in K alone the
last one stands. WIDTH gives the width of the elements, whatever the formats of the descriptors say, over the extents of these (R124 says
nothing of a WIDTH that differs; DESIGN CHOICE, n15). -/
def tileMode (ctl : LCtl) (ts : Tiles) (src dst : Desc) (srt drt : List Nat) (fifo : List Byte) (m : Memory) : Memory :=
  let w := widthBits ctl.width
  let g := 32 / w
  let em := ts.em; let en := ts.en
  let from_ (beat : Nat) : Memory := Memory.write [] 0 ((fifo.drop (512 * beat)).take 512)
  let row (t : Memory) (r n : Nat) (is : List Nat) (get : Nat → Nat) : Memory :=
    let a := dst.rowAddr (dst.rowIdx r)
    let t := is.foldl (fun t i => putBits t w a i (get i)) t
    if w = 4 ∧ n % 2 = 1 ∧ is.contains (n - 1) then putBits t w a n 0 else t
  let no (a b : Nat) : Nat := ts.no a b (ts.ek - 1)
  if ts.ek = 0 then m
  else match ctl.mode with
  | 2 =>
    let get (j i : Nat) : Nat :=
      if ctl.fifo then
        bitsElem (from_ (no (i / 128) (j / 128) * (4 * w) + i % 128 / g)) w 0 (128 * (i % 128 % g) + j % 128)
      else bitsElem m w (src.rowAddr (src.rowIdx i)) j
    let is := (List.range (min src.rows (min em (dim drt 0)))).filter fun i => rowLive src srt (src.rowIdx i)
    ((List.range dst.rows).filter fun j => decide (j < min en (dim srt 0)) && rowLive dst drt (dst.rowIdx j)).foldl
      (fun t j => row t j (dim drt 0) is (get j)) m
  | 3 =>
    let n := src.rows; let kx := dim src.ext 0
    let nq := ceilDiv kx g
    let get (i k : Nat) : Nat :=
      if n ≤ i ∨ kx ≤ k then 0
      else if ctl.fifo then bitsElem (from_ (no (i / 128) (k / (128 * g)) * 128 + i % 128)) w 0 (k % (128 * g))
      else bitsElem m w (src.rowAddr (src.rowIdx i)) k
    let rm := min em (dim drt 0); let rk := min en (min (dim srt 0) (dim drt 1))
    let live (i k : Nat) : Bool :=
      decide (i / 128 * 128 < rm) && decide (k / (128 * g) * (128 * g) < rk)
        && (decide (n ≤ i) || (rowLive src srt (src.rowIdx i) && decide (i < rm))) && (decide (kx ≤ k) || decide (k < rk))
    (List.range ts.nm).foldl (fun t tt => (List.range nq).foldl (fun t q => (List.range (128 * g)).foldl (fun t p =>
      let i := 128 * tt + p % 128
      let k := g * q + p / 128
      if live i k then putBits t w (dst.base + 512 * (tt * nq + q)) p (get i k) else t) t) t) m
  | _ =>
    let kx := dim src.ext 1
    let nq := ceilDiv kx g
    let get (i k : Nat) : Nat :=
      let p := 128 * (k % g) + i % 128
      if ctl.fifo then bitsElem (from_ (no (k / g / 128) (i / 128) * 128 + k / g % 128)) w 0 p
      else bitsElem m w (src.base + 512 * (i / 128 * nq + k / g)) p
    ((List.range dst.rows).filter fun i => decide (i < min en (dim srt 0)) && rowLive dst drt (dst.rowIdx i)).foldl (fun t i =>
      row t i (dim drt 0) (List.range (min em (min (dim drt 0) (dim srt 1)))) (get i)) m

/-- Where the live bytes of a stretch of the stream over a tensor's compiled rows lie. -/
def Desc.streamBytes (d : Desc) (rt : List Nat) (lo n : Nat) : List (Nat × Nat) :=
  let rb := d.fmt.bytes (dim d.ext 0)
  if n = 0 then []
  else (List.range ((lo + n - 1) / rb - lo / rb + 1)).filterMap fun i =>
    let r := lo / rb + i
    let a := lo - r * rb
    let b := min (min (lo + n - r * rb) rb) (d.fmt.bytes (dim rt 0))
    if decide (r < d.rows) && rowLive d rt (d.rowIdx r) && decide (a < b) then some (d.rowAddr (d.rowIdx r) + a, b - a) else none

/-- The output beats of PASS, SHUFFLE, PACK and UNPACK: the cycle, counted from the first input beat, and the stretch of the output
stream; `segs` are the input beats, `r` the factor (R122, R125, R128; spec/08 R206). Of the beats of UNPACK each holds as many bytes as the
input beat (DESIGN CHOICE, n7). The last beat of PACK and UNPACK is full. -/
def streamBeats (mode r : Nat) (segs : List Nat) : List (Nat × Nat × Nat) :=
  let at_ := (segs.foldl (fun (t : List (Nat × Nat) × Nat) n => ((t.2, n) :: t.1, t.2 + n)) ([], 0)).1.reverse
  let ix := at_.zip (List.range at_.length)
  let full (l : List (Nat × Nat × Nat)) : List (Nat × Nat × Nat) :=
    l.dropLast ++ (l.getLast?.map fun x => (x.1, x.2.1, 512)).toList
  match mode with
  | 1 => ix.map fun x => (x.2, 512 * x.2, 512)
  | 5 => full ((pieces r ix).map fun g =>
      ((g.getLastD ((0, 0), 0)).2 + 1, (g.headD ((0, 0), 0)).1.1 / r, ceilDiv (g.foldl (fun t x => t + x.1.2) 0) r))
  | 6 => full (ix.flatMap fun x => (List.range r).map fun k => (r * x.2 + k, r * x.1.1 + k * x.1.2, x.1.2))
  | _ => ix.map fun x => (x.2, x.1)

/-- The output beats of a tile mode: the number of the tile, the beat in it, and the bytes it writes (R126, R127): none of a masked tile. -/
def tileBeats (mode w : Nat) (ts : Tiles) (src dst : Desc) (srt drt : List Nat) : List (Nat × Nat × List (Nat × Nat)) :=
  let g := 32 / w
  let nq := ceilDiv (dim src.ext 0) g
  let cut := min (dim drt 0) ts.em :: drt.drop 1
  (List.range ts.nm).flatMap fun tm => (List.range ts.nn).flatMap fun tn => (List.range ts.nk).flatMap fun tk =>
    (List.range (if mode = 2 then 4 * w else 128)).map fun b =>
      (ts.no tm tn tk, b,
        if ts.ek ≤ tk then []
        else match mode with
        | 2 => (List.range g).filterMap fun a =>
            let j := 128 * tn + g * b + a
            if decide (j < dst.rows) && decide (j < min ts.en (dim srt 0)) then some (dst.segBytes cut (dst.rowIdx j, 128 * tm, 128)) else none
        | 3 =>
            if decide (128 * tn + b < nq) && decide (128 * tm < min ts.em (dim drt 0))
                && decide (128 * g * tn < min ts.en (min (dim srt 0) (dim drt 1))) then
              [(dst.base + 512 * (tm * nq + 128 * tn + b), 512)]
            else []
        | _ =>
            let i := 128 * tn + b
            if decide (i < dst.rows) && decide (i < min ts.en (dim srt 0)) then
              [dst.segBytes cut (dst.rowIdx i, 128 * g * tm, 128 * g)]
            else [])

/-- The hull of a LAYOUT tensor: the whole panel where the mode names one (R104), the data alone (R205). -/
def layoutHull (panel : Bool) (d : Desc) : Nat × Nat := (d.base, if panel then d.panelLen else d.span)

/-- The factor between the widths of PACK and UNPACK. -/
def LCtl.factor (l : LCtl) : Nat := widthBits (max l.width l.owidth) / widthBits (min l.width l.owidth)

/-- Has the mode a tile plan? -/
def LCtl.tiled (l : LCtl) : Bool := l.mode == 2 || l.mode == 3 || l.mode == 4

/-- The tiles of a LAYOUT under its plan. -/
def Plan.tiles (p : Plan) (ctl : LCtl) (shape : Tab Nat) (src : Desc) : Tiles :=
  tilesOf ctl.mode (widthBits ctl.width) p.order0 src p.ext ((List.range 3).map (p.rt shape))

/-- The effect of a LAYOUT on the scratchpad. Where the input comes from the layout port FIFO, a beat of PASS, SHUFFLE, PACK or UNPACK holds the
bytes of a source line from its byte 0 on, as many as the line has (R125 says nothing of it; DESIGN CHOICE, n7). -/
def LayoutArgs.run (a : LayoutArgs) (fifo : List Byte) (k : Core) : Core :=
  let m := match a.plan with
    | some p => tileMode a.ctl (p.tiles a.ctl k.shape a.src) a.src a.dst a.srt a.drt fifo k.scratch
    | none =>
      let beats := if a.ctl.fifo then (pieces 512 fifo).zipWith (fun b n => b.take n) a.src.segs
                   else cutBy a.src.segs (a.src.stream k.scratch a.srt)
      let last := ((streamBeats a.ctl.mode a.ctl.factor a.src.segs).getLastD (0, 0, 512)).2.1
      a.dst.putStream a.drt (streamOut a.ctl a.tab last beats) k.scratch
  { k with scratch := m }

/-- The requests of the input beats of a TRANSPOSE, four lines a cycle on RP0 to RP3, with their cycles from the first on (R126; spec/03 R81):
the lines in ascending order on the ports in ascending order (DESIGN CHOICE, n7). Each beat takes `n` cycles. -/
def transposeRequests (w n : Nat) (ts : Tiles) (src : Desc) (srt : List Nat) : List (Nat × List (Nat × Nat)) :=
  let rho := 32 / w
  let bt := 4 * w
  (List.range ts.nm).flatMap fun tm => (List.range ts.nn).flatMap fun tn => (List.range (min ts.nk ts.ek)).flatMap fun tk =>
    (List.range bt).flatMap fun b =>
      let ls := beatLines src w (min ts.en (dim srt 0)) (fun i => decide (i < ts.em) && rowLive src srt (src.rowIdx i)) (128 / rho * tm + b) tn
      ((pieces 4 ls).zip (List.range ls.length)).map fun x =>
        ((ts.no tm tn tk * bt + b) * n + x.2, [0, 1, 2, 3].zip (x.1.map (512 * ·)))

/-- A tile plan fits a LAYOUT: its tiles, and its M and N those of the source (spec/10 R262). The spec says what EM and EN are and not what
another value does: such a plan is illegal (DEDUCED, n15). -/
def Plan.fits (p : Plan) (src : Desc) : Bool :=
  !p.l1v && p.t0 == [128, 128, 1] && dim p.ext 0 == src.rows && dim p.ext 1 == dim src.ext 0

/-- What a LAYOUT works with: its tensors over their run-time extents, its plan, and its shuffle table where it shuffles (R205). -/
def Core.layoutArgs (k : Core) (o : Op) (src dst : Desc) (plan : Option Plan) (ctl : LCtl) : LayoutArgs :=
  ⟨ctl, plan, src, dst, k.rt src, k.rt dst, if ctl.mode == 1 then shuffleTable k.scratch ctl.table else [], o.addr⟩

/-- LAYOUT. -/
def planLayout : PlanFn := fun s c o => do
  let k := s.core c
  let ds ← k.refs o 2 (if o.fld 2 0 = 3 then [] else [1])
  let src := ds.getD 0 planMatmul.default_desc
  let dst := ds.getD 1 planMatmul.default_desc
  ownScratch ds
  let plan ← if o.nd = 3 then (Plan.parse (Memory.read k.dtable (64 * o.drefs.getD 2 0) 64)).map some else .ok none
  need (match plan with | some p => p.fits src | none => true) 0x08
  let ctl ← LCtl.parse (o.fld 31 0)
  let w := widthBits ctl.width
  let tp := s.tp1 c
  let iss := latIss tp; let ld := latLd tp; let ll := latLay tp; let st := latSt tp
  let nLines := src.segs.length
  let ts := (plan.map fun p => p.tiles ctl k.shape src).getD ⟨0, 1, 1, 1, 0, 0, 0⟩
  let nt := ts.count
  let bt := 4 * w
  let sig := if ctl.fifo then 1 else if ctl.mode = 2 then transposeSigma src w else 1
  let r := ctl.factor
  let window := match ctl.mode with
    | 0 | 5 => nLines | 1 => 2 + nLines | 6 => r * nLines | 2 => nt * bt * ceilDiv sig 4 | _ => nt * 128
  let extra := match ctl.mode with | 5 => 1 | 2 => bt - 1 | 3 | 4 => 127 | _ => 0
  let commit := iss + window - 1 + ld + ll + extra + st
  let shuf := ctl.mode == 1
  let a := k.layoutArgs o src dst plan ctl
  let srcHull := layoutHull (ctl.mode == 4) src
  let dstHull := layoutHull (ctl.mode == 3) dst
  let srt := k.rt src; let drt := k.rt dst
  let masked := dst.masked drt
  let out : List (Nat × List (Nat × Nat)) :=
    if ctl.tiled then (tileBeats ctl.mode w ts src dst srt drt).map fun x => ((x.1 + 1) * (window / nt) - 1 + x.2.1, x.2.2)
    else (streamBeats ctl.mode r src.segs).map fun x => (b2n shuf * 2 + x.1, dst.streamBytes drt x.2.1 x.2.2)
  let firstOut := out.foldl (fun t x => min t x.1) (window + extra)
  legal 0 do
    inScratch o srcHull.1 srcHull.2
    inScratch o dstHull.1 dstHull.2
    if shuf then inScratch o (512 * ctl.table) 1024
    match plan with
    | none => .ok ()
    | some p =>
      if p.alen = 0 then .ok ()
      else
        [(0, srcHull), (1, dstHull)].forM fun h =>
          needF (decide (p.abase ≤ h.2.1) && decide (h.2.1 + h.2.2 ≤ p.abase + p.alen))
            (tileOverflow o.addr 4 h.1 (if h.2.1 < p.abase then h.2.1 else h.2.1 + h.2.2 - 1) (p.abase + p.alen - 1))
    let i : Issue :=
      { ranges := [sRange srcHull.1 srcHull.2 1 (some (iss + window - 1 + ld)), sRange dstHull.1 dstHull.2 0 (some commit)]
          ++ (if shuf then [sRange (512 * ctl.table) 1024 1 (some (iss + 1 + ld))] else [])
        windows := [(1, 0, 0), (2, iss, iss + window - 1), (3, iss + ld, iss + window - 1 + ld),
                    (9, iss + firstOut + ld + ll, commit - st)]
        done := some (commit + 1)
        faults := if masked || ctl.mode != 2 || ctl.fifo then [] else
          firstConflict o.addr ((transposeRequests w (ceilDiv sig 4) ts src srt).map fun x => (iss + x.1, x.2))
        wp0 := if masked then [] else out.flatMap fun x =>
          (x.2.flatMap fun y => banksOf y.1 y.2).eraseDups.map fun b => (iss + x.1 + ld + ll + st, b)
        effect := fun _ s =>
          if masked then s
          else
            let n := match ctl.mode with | 2 => nt * bt | 3 | 4 => nt * 128 | _ => nLines
            let due := (List.range n).map fun j => (iss + ld + (if shuf then 2 + j else if ctl.mode = 6 then r * j else j), 512)
            if ctl.fifo then s.feed c 2 o.addr due (.layout a) else s.modCore c (a.run []) }
    .ok (if shuf && !masked && !tableOk a.tab then badTable c o i (iss + 1 + ld) else i)

/-- LAYOUT issues (spec/08 R205). -/
def execLayout (c : Nat) (s : State) : Out := issueRow "LAYOUT" (isOpc 0x11) planLayout c s

/-! ## RANDOM (spec/08 R208) -/

/-- The FP32 value 1.0. -/
def one32 : Nat := 0x3F800000

/-- The value of an element of RANDOM: its exact value before the rounding into the output format, and the status. An element that DROPOUT
drops sets no bit, not even FLUSH_IN for a subnormal X (R137, R208; DESIGN CHOICE, n15). -/
def randomValue (variant : Nat) (f : Fmt) (mode : Rnd) (x p0 p1 : Nat) (input : Nat × Arith) : Dec × Arith :=
  let u : Dec := ⟨.finite, false, bits x 63 40, -24⟩
  let lane : Lane := ⟨[], 0, 0, 0, 0, 0⟩
  match variant with
  | 0 => (decode .int32 (bits x 63 32), {})
  | 1 => (u, {})
  | 2 =>
    let d := stepValue ⟨0x02, 0, 0, 0, 0⟩ lane .rne p1 p0 0
    let r := stepValue ⟨0x04, 0, 0, 0, 0⟩ lane (lastMode f mode) (encode .fp32 u .rne).1 d.1 p0
    (decode .fp32 r.1, d.2.or r.2)
  | 3 => (if bits x 63 32 < p0 then oneDec else Dec.zero, {})
  | _ =>
    if bits x 63 32 < p0 then
      let r := stepValue ⟨0x03, 0, 0, 0, 0⟩ lane (lastMode f mode) input.1 p1 0
      (decode .fp32 r.1, input.2.or r.2)
    else (Dec.zero, {})

/-- RANDOM. -/
def planRandom : PlanFn := fun s c o => do
  let k := s.core c
  let ds ← k.refs o o.nd [0]
  ownScratch ds
  let out := ds.getD 0 planMatmul.default_desc
  let x := ds.getD 1 planMatmul.default_desc
  let variant := o.var % 8
  need ((ds.drop 1).all fun d => d.ext == out.ext) 0x08
  need (decide (o.var / 8 % 4 < 3)) 0x11
  need (variant != 0 || out.fmt = .int32) 0x11
  let seed ← k.seed (o.fld 10 0)
  let mode := (Rnd.ofCode (o.var / 8 % 4)).getD .rne
  let tp := s.tp1 c
  let iss := latIss tp; let ld := latLd tp
  let path := latWhisk tp 8 + latCv tp
  let t := timeline iss 1 ld (path + latSt tp) (slotsFrom (sideLines out) (dim out.ext 0) 0 0 (out.rowGroups 128))
  let rt := k.rt out
  let live := k.least ds
  let masked := out.masked rt
  legal 0 do
    ds.forM (Desc.checkHulls o)
    .ok { ranges := writeRanges out t ++ (ds.drop 1).flatMap fun d => d.ranges 1 (some t.lastRead)
          windows := [(1, 0, 0), (2, iss, t.loadEnd), (7, iss + ld, t.lastRead),
                      (8, iss + ld + latWhisk tp 8, t.last - latSt tp - latCv tp), (9, iss + ld + path, t.last - latSt tp)]
          done := some (t.last + 1)
          wp0 := if masked then [] else out.wp0 live t
          effect := fun _ s =>
            if masked then s
            else s.modCore c fun k => (out.liveRows live).foldl (fun (t : Core) r =>
              let xs := (List.range (dim live 0)).map fun i =>
                let kr := (keyedRandom seed (o.fld 42 11) (out.logical rt i r.2)).toNat
                let inp := if o.nd = 2 then widen (x.elem k.scratch r.2 i) else (0, {})
                randomValue variant out.fmt mode kr (o.fld 74 43) (o.fld 106 75) inp
              let p := out.putDecs t.scratch r.2 (xs.map Prod.fst) mode
              ({ t with scratch := p.1 } : Core).orArith ((xs.foldl (fun (s : Arith) x => s.or x.2) {}).or p.2)) k }

/-- RANDOM issues (spec/08 R208). -/
def execRandom (c : Nat) (s : State) : Out := issueRow "RANDOM" (isOpc 0x13) planRandom c s

/-! ## TAGFILL (spec/08 R209) -/

/-- The parts of a tensor's rows that each line they occupy holds (spec/03 R80). -/
def Desc.lineGroups (d : Desc) : List (List RowPart) :=
  d.allRows.flatMap fun r => (d.lineElems r.2 (dim d.ext 0)).map fun e => [(r.2, e.1, e.2 - e.1)]

/-- TAGFILL. Only its tag lines reach the store. The flush of a subnormal element before its tag is taken sets no FLUSH_IN
(R44, R57; DESIGN CHOICE, n15). -/
def planTagfill : PlanFn := fun s c o => do
  let k := s.core c
  let ds ← k.refs o 1 []
  ownScratch ds
  let d := ds.getD 0 planMatmul.default_desc
  need d.tagV 0x08
  let tp := s.tp1 c
  let iss := latIss tp; let ld := latLd tp
  let t := timeline iss 1 ld (latCv tp + latSt tp) (slotsFrom (ceilDiv d.tagLen 512, 0) (dim d.ext 0) 0 0 d.lineGroups)
  let lines := t.slots.filter fun x => !x.1.isData
  let rt := k.rt d
  let masked := d.masked rt
  legal 0 do
    d.checkHulls o
    .ok { ranges := [sRange d.base d.span 1 (some t.lastRead), sRange d.tagPtr d.tagLen 0 (some t.last)]
            ++ (d.hulls.drop 2).map (fun h => sRange h.1 h.2 1 (some t.lastRead))
          windows := [(1, 0, 0), (2, iss, t.loadEnd), (8, iss + ld, t.last - latSt tp - latCv tp),
                      (9, (lines.headD (.tags 0, t.last)).2 - latSt tp, t.last - latSt tp)]
          done := some (t.last + 1)
          wp0 := if masked then [] else d.wp0 rt { t with slots := lines }
          effect := fun _ s =>
            if masked then s
            else s.modCore c fun k => { k with scratch := (d.liveRows rt).foldl (fun m r =>
              Memory.write m (d.tagPtr + r.1 * ceilDiv (dim d.ext 0) 64)
                (rowTags d.fmt (loadRow k.scratch d.fmt (d.rowAddr r.2) (dim rt 0)))) k.scratch } }

/-- TAGFILL issues (spec/08 R209). -/
def execTagfill (c : Nat) (s : State) : Out := issueRow "TAGFILL" (isOpc 0x14) planTagfill c s

end Sys2Proof.Machine
end

