-- ==== Sys2Proof/Machine/Reduce.lean ====
section
/-!
DEFINITION. Sys2Proof/Machine/Reduce.lean: the row variants of REDUCE (spec/07 R194 to R196) and DRAIN (R199 to R201).
-/
namespace Sys2Proof.Machine

/-! ## ROWSUM and ROWSQ (R195) -/

/-- The outer indices of row `r` of a tensor whose outermost extent has no end: compiled rows beyond the tensor lie on (R195). -/
def unrankFar : List Nat → Nat → List Nat
  | [], _ => []
  | [_], r => [r]
  | e :: es, r => r % e :: unrankFar es (r / e)

/-- One beat of a row's sum: the elements `lo` to `hi − 1` of row `r` go into one element of the stockpot (R195). The record of a breach names
the row of the stockpot (DESIGN CHOICE, n15). -/
def rowBeat (opAddr srow : Nat) (sq : Bool) (mode : AccMode) (d : Desc) (k : Core) (r lo hi : Nat) : Except CFault Core :=
  let row := srow + r / 128
  let x := (List.range (hi - lo)).foldl (fun (x : Acc) j =>
    let e := d.elem k.scratch (d.rowIdx r) (lo + j)
    x.add mode (lo + j) e (if sq then e else (oneDec, {}))) ({ elem := k.elem row (r % 128) } : Acc)
  match x.breach with
  | some kk => .error (anchorBreach opAddr row (r % 128) kk x.elem.l 0)
  | none => .ok ((k.setElem row (r % 128) x.elem).orArith x.arith)

/-- ROWSUM and ROWSQ. -/
def planRows (sq : Bool) : PlanFn := fun s c o => do
  let k := s.core c
  let ds ← k.refs o 1 []
  let d := ds.getD 0 planMatmul.default_desc
  ownScratch ds
  let srow := o.fld 9 0; let mrc := o.fld 27 10; let nc := o.fld 51 28
  need (mrc != 0 && decide (mrc ≤ 131072) && nc != 0) 0x11
  need (d.fmt.arrayOperand && !d.scaleV) 0x11
  need (!(s.fuses.grade = .tx768 && d.fmt.fusedOn768)) 0x0A
  let isOpen := bit o.var 3
  let mode := accModeOf d.fmt false
  let pass := isOpen && mode = .anchored
  need (!pass || (d.tagV && decide (nc ≤ dim d.ext 0))) 0x0F
  let tp := s.tp1 c
  let iss := latIss tp; let ld := latLd tp
  let nb := ceilDiv nc 64
  let nr := ceilDiv mrc 128
  let outer := (d.ext.take d.rank).drop 1
  let beats := (List.range mrc).flatMap fun r => (d.lineElems (unrankFar outer r) nc).map fun e => (r, e)
  let g := beats.length
  let ap := if pass then ld + ceilDiv (mrc * nb) 512 else 0
  let start := iss + max ld ap
  let u := start + g - 1 + latMvu tp + latPot tp
  let rt := k.rt d
  let masked := ((rt.take d.rank).drop 1).any (· == 0)
  let n := min nc (dim rt 0)
  legal 0 do
    d.checkHulls o
    rowBound o (srow + nr)
    termBound o mode nc
    if !isOpen && !masked then rowsOpenIn k o srow nr mode.code d.fmt.code
    let last := start + g - 1
    .ok { ranges := d.readRanges d.hulls last (passEnd pass last (iss + ap - 1)) last ++ [potRange srow nr 0 u]
          windows := [(1, 0, 0), (2, iss, last - ld), (5, start, last),
                      (6, if pass then iss + ld else start + latMvu tp, last + latMvu tp)]
          done := some (u + 1)
          effect := fun _ s =>
            if masked then s
            else
              let k := s.core c
              let k := if !isOpen then k else (List.range nr).foldl (fun k q =>
                k.openRow (srow + q) mode.code d.fmt.code o.addr 1 fun j =>
                  let r := 128 * q + j
                  if mode = .anchored then
                    if r < min mrc d.rows then
                      anchoredL d.fmt (anchorOf nb (d.planeByte k mode r)
                        (if sq then d.planeByte k mode r else fun _ => tagOne d.fmt))
                    else (Config.unusedL (128 * (srow + q) + j)).toInt
                  else exactL d.fmt) k
              let steps := (beats.zip (List.range g)).filter fun x =>
                decide (x.1.1 < d.rows) && rowLive d rt (d.rowIdx x.1.1) && decide (x.1.2.1 < n)
              s.setCore c (runSteps (fun x => s.cyc + start + x.2 + latMvu tp + latPot tp) (fun k (x : (Nat × Nat × Nat) × Nat) =>
                rowBeat o.addr srow sq mode d k x.1.1 x.1.2.1 (min x.1.2.2 n)) k steps) }

/-- ROWSUM issues (spec/07 R195). -/
def execRowsum (c : Nat) (s : State) : Out :=
  issueRow "ROWSUM" (fun o => o.opc == 0x04 && o.var % 8 == 0) (planRows false) c s

/-- ROWSQ issues (spec/07 R195). -/
def execRowsq (c : Nat) (s : State) : Out :=
  issueRow "ROWSQ" (fun o => o.opc == 0x04 && o.var % 8 == 1) (planRows true) c s

/-! ## STOCK_STORE and STOCK_ADD (R196) -/

/-- The 2,560 bytes of a stock-word row (R196). -/
def Core.stockRow (k : Core) (row : Nat) : List Byte := (k.elems row 128).flatMap fun x => x.word.bytes

/-- The words of a stock-word row. -/
def wordsOf (bs : List Byte) : List StockWord :=
  (List.range 128).map fun j => StockWord.ofBytes ((bs.drop (20 * j)).take 20)

/-- The first word of a row whose ANCHOR differs from its element's L (R69). -/
def Core.anchorClash (k : Core) (row : Nat) : Nat → List StockWord → Option (Nat × StockWord)
  | _, [] => none
  | j, w :: ws => if w.clashes (k.elem row j) then some (j, w) else k.anchorClash row (j + 1) ws

/-- Add a row of stock words, or none of them where an anchor differs (R66, R196), with NAN_GEN (spec/02 R55). -/
def Core.addRow (k : Core) (opAddr row : Nat) (ws : List StockWord) : Except CFault Core :=
  match k.anchorClash row 0 ws with
  | some x => .error (anchorBreach opAddr row x.1 0 (k.elem row x.1).l x.2.anchor.toInt)
  | none =>
    let xs := ((List.range 128).zip ws).map fun x => (k.elem row x.1, x.2)
    .ok ((k.setElems row 0 (xs.map fun x => addStockWord x.1 x.2)).orArith
      { nanGen := xs.any fun x => match x.2.special with | some c => mergeGen x.1.s c | none => false })

/-- The fields and checks of the two variants. -/
def stockArgs (s : State) (c : Nat) (o : Op) : Check (Desc × Nat × Nat) := do
  let d ← (s.core c).ref o 0 false
  ownScratch [d]
  need (d.rank == 1) 0x08
  let srow := o.fld 9 0; let rows := o.fld 20 10
  need (decide (2560 * rows ≤ dim d.ext 0)) 0x08
  need (rows != 0 && decide (rows ≤ 1024) && decide (o.fld 27 26 < 3) && (Fmt.ofCode (o.fld 25 21)).isSome) 0x11
  .ok (d, srow, rows)

/-- The hulls of a tensor that the two variants take as bytes, and of the planes its descriptor carries (R196; spec/10 R250). -/
def Desc.byteHulls (d : Desc) : List (Nat × Nat) := (d.base, dim d.ext 0) :: d.hulls.drop 1

/-- STOCK_STORE. -/
def planStockStore : PlanFn := fun s c o => do
  let (d, srow, rows) ← stockArgs s c o
  let tp := s.tp1 c
  let iss := latIss tp; let lr := latRow tp; let lst := latSt tp
  let last := iss + 5 * rows - 1 + lr + lst
  legal 0 do
    d.byteHulls.forM fun h => inScratch o h.1 h.2
    rowBound o (srow + rows)
    rowsOpen (s.core c) o srow rows
    .ok { ranges := (d.byteHulls.map fun h => sRange h.1 h.2 0 (some last)) ++ [potRange srow rows 1 (iss + 5 * (rows - 1))]
          windows := [(1, 0, 0), (6, iss, iss + 5 * rows - 1), (9, iss + lr, iss + 5 * rows - 1 + lr)]
          done := some (last + 1)
          wp0 := (List.range (5 * rows)).flatMap fun b => (banksOf (d.base + 512 * b) 512).map fun x => (iss + b + lr + lst, x)
          effect := fun _ s => s.modCore c fun k => (List.range rows).foldl (fun t i =>
            { t with scratch := Memory.write t.scratch (d.base + 2560 * i) (k.stockRow (srow + i)) }) k }

/-- STOCK_STORE issues (spec/07 R196). -/
def execStockStore (c : Nat) (s : State) : Out :=
  issueRow "STOCK_STORE" (fun o => o.opc == 0x04 && o.var % 8 == 3) planStockStore c s

/-- STOCK_ADD. -/
def planStockAdd : PlanFn := fun s c o => do
  let (d, srow, rows) ← stockArgs s c o
  let isOpen := bit o.var 3
  let fmt := o.fld 25 21; let mode := o.fld 27 26
  need (!(isOpen && mode == 2 && s.fuses.grade = .tx768)) 0x0A
  let tp := s.tp1 c
  let iss := latIss tp; let ld := latLd tp
  let last := iss + ld + 5 * rows - 1
  legal 0 do
    d.byteHulls.forM fun h => inScratch o h.1 h.2
    rowBound o (srow + rows)
    if !isOpen then rowsOpen (s.core c) o srow rows
    .ok { ranges := (d.byteHulls.map fun h => sRange h.1 h.2 1 (some last)) ++ [potRange srow rows 0 (last + latPot tp)]
          windows := [(1, 0, 0), (2, iss, last - ld), (6, iss + ld, last)]
          done := some (last + latPot tp + 1)
          effect := fun _ s =>
            s.setCore c (runSteps (fun i => s.cyc + iss + ld + 5 * i + 4 + latPot tp) (fun k i =>
              let ws := wordsOf (Memory.read k.scratch (d.base + 2560 * i) 2560)
              let k := if isOpen then
                  k.openRow (srow + i) mode fmt o.addr (b2n (Config.stockAddUnit o.addr)) fun j =>
                    let w := ws.getD j ⟨0, 0⟩
                    if w.special.isSome then 0 else w.anchor.toInt
                else k
              k.addRow o.addr (srow + i) ws) (s.core c) (List.range rows)) }

/-- STOCK_ADD issues (spec/07 R196). -/
def execStockAdd (c : Nat) (s : State) : Out :=
  issueRow "STOCK_ADD" (fun o => o.opc == 0x04 && o.var % 8 == 4) planStockAdd c s

/-! ## DRAIN (R199 to R201) -/

/-- The value of an output element before the convert unit, with the status (R200): `prog` is the whisk block of ROUTE 1. -/
def drainValue (route : Nat) (f : Fmt) (mode : Rnd) (prog : Option WBlock) (m : Memory) (x stat : Elem)
    (col row idx opAddr : Nat) : Dec × Arith :=
  if route = 2 then
    let r := normDec f x stat
    (r.1, { nanGen := r.2 })
  else match prog with
    | none => (x.dec, {})
    | some w =>
      let x0 := encode .fp32 x.dec (lastMode f mode)
      let r := w.run m ⟨[x0.1], col, row, idx, (Config.drainSeed opAddr).toNat, (Config.drainStream opAddr).toNat⟩ (lastMode f mode)
      (decode .fp32 r.1, x0.2.or r.2)

/-- DRAIN. In the MVU layout, where the parts of several output rows come in turn, a side line counts as complete when as many side bytes have
come as the lines up to it hold (R134 does not say which group completes it; DESIGN CHOICE, n7). -/
def planDrain : PlanFn := fun s c o => do
  let k := s.core c
  let ds ← k.refs o 1 [0]
  let d := ds.getD 0 planMatmul.default_desc
  ownScratch ds
  let route := o.var % 4
  let srow := o.fld 9 0; let rows := o.fld 20 10; let ncol := o.fld 44 21; let vecs := o.fld 48 45
  let wblk := o.fld 74 51
  need (rows != 0 && decide (rows ≤ if route = 2 then 128 else 1024) && ncol != 0 && decide (vecs ≤ 8)
    && decide (o.fld 50 49 < 3)) 0x11
  need (if vecs = 0 then decide (ncol ≤ 128)
        else route != 2 && rows % vecs == 0 && decide (ncol ≤ 128 * (rows / vecs))) 0x11
  need (wblk % 256 == 0 && (route != 1 || decide (wblk < scratchSize))) 0x11
  let mode := o.rounding 50 49
  let prog ← if route = 1 then
      (k.whiskBlock o wblk (dim d.ext 0) d.rows).map some else .ok none
  need (match prog with | some w => w.fitsOp o | none => true) 0x0D
  let tp := s.tp1 c
  let iss := latIss tp; let ld := latLd tp
  let pv := match prog with | some w => w.preload | none => 0
  let lw := match prog with | some w => latWhisk tp w.steps.length | none => 0
  let lr := latRow tp + b2n (route == 2)
  let groups := (List.range rows).map fun i =>
    let j := if vecs = 0 then 0 else 128 * (i / vecs)
    let r := if vecs = 0 then i else i % vecs
    [(d.rowIdx r, j, if r < d.rows then min 128 (ncol - j) else 0)]
  let t := timeline (iss + pv) 1 0 (lr + lw + latCv tp + latSt tp) (slotsFrom (sideLines d) ncol 0 0 groups)
  let e := t.loadEnd
  let last := t.last
  let reads := rows + b2n (route == 2)
  let rt := k.rt d
  let masked := d.masked rt
  legal 0 do
    d.checkHulls o
    match prog with | some w => w.used.forM fun x => inScratch o x.offset (4 * x.len) | none => .ok ()
    rowBound o (srow + reads)
    if !masked then rowsOpen k o srow reads
    .ok { ranges := writeRanges d t ++ (match prog with | some w => w.ranges wblk iss ld | none => [])
            ++ [potRange srow reads 1 t.lastRead]
          windows := [(1, 0, 0), (6, iss + pv, e)]
            ++ (match prog with
                | some _ => [(2, iss, iss + pv - 1), (7, iss + pv + lr, e + lr)]
                | none => [])
            ++ [(8, iss + pv + lr + lw, last - latSt tp - latCv tp), (9, iss + pv + lr + lw + latCv tp, last - latSt tp)]
          done := some (last + 1)
          wp0 := if masked then [] else d.wp0 rt t
          effect := fun _ s =>
            if masked then s
            else
              let k := s.core c
              let outRows := if vecs = 0 then rows else vecs
              let live := (d.liveRows rt).filter fun r => decide (r.1 < outRows)
              s.setCore c (live.foldl (fun (t : Core) r =>
                let xs := (List.range (min ncol (dim rt 0))).map fun j =>
                  drainValue route d.fmt mode prog k.scratch (k.elem (srow + vecs * (j / 128) + r.1) (j % 128))
                    (k.elem (srow + rows) (r.1 % 128)) j r.1 (d.logical rt j r.2) o.addr
                let p := d.putDecs t.scratch r.2 (xs.map Prod.fst) mode
                ({ t with scratch := p.1 } : Core).orArith ((xs.foldl (fun (s : Arith) x => s.or x.2) {}).or p.2)) k) }

/-- DRAIN issues (spec/07 R199). -/
def execDrain (c : Nat) (s : State) : Out := issueRow "DRAIN" (isOpc 0x05) planDrain c s

end Sys2Proof.Machine
end

