-- ==== Sys2Proof/Machine/Queue.lean ====
section
/-!
DEFINITION. Sys2Proof/Machine/Queue.lean: the queue ops (spec/08 R210 to R222, spec/07 R197, spec/06 R167): what they check at
issue and the transfers they make.
-/
namespace Sys2Proof.Machine

/-! ## Cutting data into transfers (spec/08 R210, spec/11 R269, R270) -/

/-- A run of bytes contiguous at both ends, with the blocks whose tags ride with it and the bytes whose high nibble is written
as zero; or one nibble, which may be the last of a row of odd length. -/
structure Piece where
  src  : Nat
  dst  : Nat
  len  : Nat
  tags : List TagBlk := []
  odd  : List Nat := []
  nib  : Option (Bool × Bool) := none
  nibEnd : Bool := false
  deriving DecidableEq, Repr

/-- Bytes from an address up to the next 4,096-byte boundary. -/
def pageRoom (a : Nat) : Nat := 4096 - a % 4096

/-- A run cut at every 4,096-byte boundary of either end. -/
def splitRun : Nat → Nat → Nat → Nat → List Piece
  | 0, _, _, _ => []
  | fuel + 1, s, d, n =>
    if n = 0 then []
    else
      let k := min n (min (pageRoom s) (pageRoom d))
      { src := s, dst := d, len := k } :: splitRun fuel (s + k) (d + k) (n - k)

/-- Do two pieces follow each other at both ends within the page of the first? -/
def Piece.joins (p q : Piece) : Bool :=
  p.nib.isNone && q.nib.isNone && p.src + p.len == q.src && p.dst + p.len == q.dst && decide (p.len + q.len ≤ min (pageRoom p.src) (pageRoom p.dst))

/-- Two pieces as one. -/
def Piece.join (p q : Piece) : Piece :=
  { p with len := p.len + q.len, tags := p.tags ++ q.tags.map fun t => { t with off := t.off + p.len },
           odd := p.odd ++ q.odd.map (· + p.len) }

/-- Join the pieces that follow each other. -/
def joinPieces : Piece → List Piece → List Piece
  | p, [] => [p]
  | p, q :: qs => if p.joins q then joinPieces (p.join q) qs else p :: joinPieces q qs

/-- The transfers of a list of pieces in order. -/
def transfersOf : List Piece → List Piece
  | [] => []
  | p :: ps => joinPieces p ps

/-- Is a piece the next part of the 64-element block whose first part is another? Each bears the tag byte of its block. -/
def Piece.inBlock (p q : Piece) : Bool :=
  p.nib.isNone && q.nib.isNone && p.src + p.len == q.src && p.dst + p.len == q.dst && (p.tags.map TagBlk.dst == q.tags.map TagBlk.dst)
    && !p.tags.isEmpty

/-- The elements of one block that follow each other go together, whatever page they lie in: no block is split between two transfers, and the
base die takes the tag of all of it that the transfer carries (spec/11 R269). -/
def joinBlocks : Piece → List Piece → List Piece
  | p, [] => [p]
  | p, q :: qs =>
    if p.inBlock q then joinBlocks { p with len := p.len + q.len, tags := p.tags.map fun t => { t with n := p.len + q.len } } qs
    else p :: joinBlocks q qs

/-- Elements that each bear the tag byte of their block, by blocks. -/
def blocksOf : List Piece → List Piece
  | [] => []
  | p :: ps => joinBlocks p ps

/-- One row of `n` elements: a run cut at the boundaries, or, where tags ride with it, its 64-element blocks, which are not
split (R269). -/
def rowRuns (f : Fmt) (tagBase : Option Nat) (s d n : Nat) : List Piece :=
  let bytes := f.bytes n
  let odd : List Nat := if f.width = 4 ∧ n % 2 = 1 then [bytes - 1] else []
  match tagBase with
  | none =>
    (splitRun (2 * (bytes / 4096) + 4) s d bytes).map fun p =>
      { p with odd := odd.filterMap fun o => if p.src ≤ s + o ∧ s + o < p.src + p.len then some (s + o - p.src) else none }
  | some t =>
    let bb := 8 * f.width
    (List.range (ceilDiv bytes bb)).map fun b =>
      let len := min bb (bytes - bb * b)
      { src := s + bb * b, dst := d + bb * b, len := len, tags := [⟨0, len, t + b⟩],
        odd := odd.filterMap fun o => if bb * b ≤ o ∧ o < bb * b + len then some (o - bb * b) else none }

/-- The transfers of the rows of two tensors of equal compiled extents, over run-time extents `rt`. -/
def copyRows (src dst : Desc) (rt : List Nat) (tagBase : Option Nat) : List Piece :=
  transfersOf ((dst.liveRows rt).flatMap fun r =>
    rowRuns src.fmt (tagBase.map (· + r.1 * ceilDiv (dim dst.ext 0) 64)) (src.rowAddr r.2) (dst.rowAddr r.2) (dim rt 0))

/-- The transfers that copy a plane with one byte for `per` elements. -/
def copyPlane (d : Desc) (rt : List Nat) (sp dp per : Nat) : List Piece :=
  transfersOf ((d.liveRows rt).flatMap fun r =>
    let at0 := r.1 * ceilDiv (dim d.ext 0) per
    let n := ceilDiv (dim rt 0) per
    splitRun (2 * (n / 4096) + 4) (sp + at0) (dp + at0) n)

/-- Bytes with the high nibbles at some places cleared. -/
def clearOdd (odd : List Nat) (bs : List Byte) : List Byte :=
  odd.foldl (fun b o => b.set o (BitVec.ofNat 8 ((b.getD o 0).toNat % 16))) bs

/-! ## Addresses and segments -/

/-- The partition of a core, 8 where it has none. -/
def State.partNo (s : State) (c : Nat) : Nat := (s.partOf c).getD 8

/-- The segment a partition address names. -/
def State.segAt (s : State) (c a : Nat) : Segment := s.seg (s.partNo c) (a / 2 ^ 38 % 64)

/-- The module address a partition address would have, rights aside. -/
def State.peek (s : State) (c a : Nat) : Nat := (s.segAt c a).base + a % 2 ^ 38

/-- A hull in the partition space is translated and checked (spec/01 R35, spec/08 R213). -/
def State.reach (s : State) (c : Nat) (o : Op) (a len : Nat) (need : Need) : Check Nat :=
  match (if a < 2 ^ 44 then s.translate (s.partNo c) a len need else none) with
  | some m => .ok m
  | none => .error (.fault (segFault o.addr a len need))

/-- The core whose scratchpad a module address lies in. -/
def State.scratchAt (s : State) (a : Nat) : Option Nat := match s.locate a with | .scratch c _ => some c | _ => none

/-- Does a module address lie in memory? -/
def State.inMemory (s : State) (a : Nat) : Bool := match s.locate a with | .mem _ _ _ => true | .absent => true | _ => false

/-- The die that holds a module address. -/
def State.dieAt (s : State) (a : Nat) : Nat :=
  match s.locate a with | .scratch c _ => s.dieOf c | _ => a / 0x3C00000000

/-- The member of the cascade that holds a window open, where it is another one (spec/16 R404). -/
def State.winRank (s : State) (p w : Nat) : Option Nat :=
  let k := (s.part p).cascade
  if k.joined then
    match k.owners.find? fun x => x.1 == w with
    | some x => if x.2 = k.rank then none else some x.2
    | none => none
  else none

/-- The handle a remote write names (spec/11 R290). -/
def State.handle (s : State) (c : Nat) (o : Op) (win : Nat) : Check Handle :=
  let h := Tab.get {} (s.core c).handles win
  if h.v then .ok h else .error (.fault (windowClosed o.addr h.window h.epoch 5))

/-- The route of a tag (spec/12 R309). -/
def Core.route (k : Core) (tag : Nat) : Option Route :=
  ((List.range 256).map fun i => Tab.get {} k.routes i).find? fun r => r.v && r.tag == tag

/-- The route an op may take: one to another module only while the partition is in a cascade (spec/16 R409). -/
def State.route (s : State) (c tag : Nat) : Option Route :=
  ((s.core c).route tag).filter fun r => !r.xmod || (s.part (s.partNo c)).cascade.joined

/-- CF_SEND_REFUSED at issue (R309). -/
def refuse1 (o : Op) (tag : Nat) (r : Option Route) : Stop :=
  .fault (sendRefused o.addr tag 1 ((r.map Route.core).getD 0) ((r.map Route.rank).getD 0))

/-- The attached signals of an op. -/
def Op.attached (o : Op) : List Sig := o.sigs.filter Sig.attach

/-! ## Making transfers -/

/-- The nibble a transfer moves, in the place it has in its destination byte (spec/10 R247). -/
def pickNibble (nib : Option (Bool × Bool)) (bs : List Byte) : List Byte :=
  match nib with
  | none => bs
  | some (hiS, hiD) => bs.map fun b =>
      let x := if hiS then b.toNat / 16 else b.toNat % 16
      BitVec.ofNat 8 (if hiD then 16 * x else x)

/-- The bytes a transfer writes over `old` ones: the other nibble of a nibble's byte stays. -/
def mergeNibble (nib : Option (Bool × Bool)) (old bs : List Byte) : List Byte :=
  match nib with
  | none => bs
  | some (_, hiD) => (bs.zip old).map fun x =>
      BitVec.ofNat 8 (if hiD then x.1.toNat / 16 * 16 + x.2.toNat % 16 else x.2.toNat / 16 * 16 + x.1.toNat % 16)

/-- Does a transfer go without a tag: over the static plane (spec/08 R211), or an empty write (spec/10 R257)? -/
def Xfer.tagless (x : Xfer) : Bool := x.static || (x.len == 0 && x.kind != .signal)

/-- The op's transfers enter their queues, in order. Those of an op that reads the scratchpad take their tags at issue, of another op
only the first does (R211): free ones, lowest first (DESIGN CHOICE, n8). -/
def State.enqueue (s : State) (c op opAddr : Nat) (up : Bool) (xs : List Xfer) : State :=
  let put (t : State × List Nat) (y : Xfer × Nat) : State × List Nat :=
    let (id, u) := t.1.takeId
    let tag := if y.1.tagless then none else t.2.head?
    let x := { y.1 with id := id, core := c, part := s.partNo c, op := op, opAddr := opAddr, ordinal := y.2,
                        last := y.2 + 1 == xs.length, tag := tag }
    ({ u with xfers := u.xfers ++ [x] }, if y.1.tagless then t.2 else t.2.drop 1)
  ((xs.zip (List.range xs.length)).foldl put (s, if up then s.freeTags c else (s.freeTags c).take 1)).1

/-- Mark the last transfer with the attached increments and the cores they go to from memory; it waits for the others (R213). -/
def attachLast (sigs : List Sig) (att : List Nat) : List Xfer → List Xfer
  | [] => []
  | [x] => [{ x with att := sigs, attCores := att, hold := !x.static && !sigs.isEmpty }]
  | x :: y :: r => x :: attachLast sigs att (y :: r)

/-- Counted length: an empty write counts 64 (spec/11 R284). -/
def counted (n : Nat) : Nat := 64 * max 1 (ceilDiv n 64)

/-- The issue of an op whose transfers have variable latency; `up` says whether they take all tags at issue (R211). `extra` counts
transfers that never launch, for which the op does not complete (R217). -/
def queueIssue (iss : Nat) (c : Nat) (o : Op) (up : Bool) (ranges : List Range) (windows : List (Nat × Nat × Nat))
    (xs : List Xfer) (extra : Nat := 0) : Issue :=
  let n := (xs.filter fun x => !(x.len == 0)).length + extra
  { ranges := ranges.map fun r => if n = 0 && r.kind = 2 then { r with retire := some iss } else r
    windows := (1, 0, 0) :: windows
    queueOp := true
    done := if n = 0 then some (iss + 1) else none
    left := n
    effect := fun id s => s.enqueue c id o.addr up xs }

/-- The hulls of a tensor and of the planes it carries, in its own space: checked against the scratchpad bound, or translated and
checked against the segment (spec/10 R250). Where data, tags and scales then lie. -/
def State.takeHulls (s : State) (c : Nat) (o : Op) (d : Desc) (right : Need) : Check (Nat × Nat × Nat) := do
  if d.part then
    let a ← s.reach c o d.base d.span right
    let t ← if d.tagV then s.reach c o d.tagPtr d.tagLen right else .ok 0
    let x ← if d.scaleV then s.reach c o d.scalePtr d.scaleLen right else .ok 0
    .ok (a, t, x)
  else
    d.checkHulls o
    .ok (d.base, d.tagPtr, d.scalePtr)

/-- Lines of a stream read row by row: rows without a gap between them are one run (spec/03 R80, spec/08 R212). -/
def Desc.streamLines (d : Desc) : Nat :=
  let runs := d.allRows.map fun r => ({ src := d.rowAddr r.2, dst := d.rowAddr r.2, len := d.fmt.bytes (dim d.ext 0) } : Piece)
  let merge (t : List (Nat × Nat)) (p : Piece) : List (Nat × Nat) :=
    match t with
    | (a, n) :: r => if a + n = p.src then (a, n + p.len) :: r else (p.src, p.len) :: (a, n) :: r
    | [] => [(p.src, p.len)]
  (runs.foldl merge []).foldl (fun t x => t + ceilDiv (x.1 % 512 + x.2) 512) 0

/-! ## LOAD (R214) -/

/-- LOAD. It holds a plane of the destination into which it copies nothing until its first hand-off (DESIGN CHOICE, n7). -/
def planLoad : PlanFn := fun s c o => do
  let k := s.core c
  let ds ← k.refs o 2 [1]
  let src := ds.getD 0 planMatmul.default_desc
  let dst := ds.getD 1 planMatmul.default_desc
  need (src.part && !dst.part && src.ext == dst.ext) 0x08
  let tagGen := bit o.var 1; let tagCopy := bit o.var 2; let scaleCopy := bit o.var 3
  need ((!(tagGen || tagCopy) || dst.tagV) && (!tagCopy || src.tagV) && (!scaleCopy || (src.scaleV && dst.scaleV))) 0x08
  need (!(tagGen && (s.scratchAt (s.peek c src.base)).isSome)) 0x02
  let rt := minExt (k.rt src) (k.rt dst)
  let idle := dst.masked (k.rt dst)
  let iss := latIss (s.tp1 c)
  legal (b2n !idle) do
    let m ← s.takeHulls c o src .rd
    let _ ← s.takeHulls c o dst .wr
    let q := b2n (bit o.var 0)
    let make (tags : Bool) (p : Piece) : Xfer :=
      { queue := q, kind := .load, src := p.src, dst := p.dst, len := p.len, counted := counted (p.len + p.tags.length),
        tagFmt := if tags then some src.fmt else none, tags := p.tags, odd := p.odd, ready := s.cyc + iss }
    let data := copyRows { src with base := m.1 } dst rt (if tagGen then some dst.tagPtr else none)
    let xs := if idle then [] else data.map (make tagGen)
      ++ (if tagCopy then (copyPlane dst rt m.2.1 dst.tagPtr 64).map (make false) else [])
      ++ (if scaleCopy then (copyPlane dst rt m.2.2 dst.scalePtr 32).map (make false) else [])
    let until_ (b : Bool) : Option Nat := if b then none else some iss
    .ok (queueIssue iss c o false
      ([sRange dst.base dst.span 2 none]
        ++ (if dst.tagV then [sRange dst.tagPtr dst.tagLen 2 (until_ (tagGen || tagCopy))] else [])
        ++ (if dst.scaleV then [sRange dst.scalePtr dst.scaleLen 2 (until_ scaleCopy)] else [])) [] xs)

/-- LOAD issues (spec/08 R214). -/
def execLoad (c : Nat) (s : State) : Out := issueRow "LOAD" (isOpc 0x20) planLoad c s

/-! ## STORE (R215) -/

/-- The static plane (spec/01 R22, spec/12 R310): the slot table entry `k` of output `o` of the router at a physical place. -/
def State.slot (s : State) (die place output k : Nat) : Nat :=
  (Memory.get s.slotTables (320 * (72 * die + place) + 64 * output + k)).toNat % 8

/-- The physical place of a core on its die: the n-th enabled one (spec/00 R5, spec/01 R19). -/
def State.placeOf (s : State) (c : Nat) : Nat :=
  (((List.range 72).filter fun i => bit (s.fuses.coreMap.getD (s.dieOf c) 0) i).drop (s.localOf c)).headD 0

/-- How a message ends its way over the static plane: at its core after some hops, at the router place of another core, or discarded by
a router (spec/01 R23, spec/03 R478). -/
inductive Way where
  | arrives (hops : Nat)
  | strays (place hops : Nat)
  | discarded
  deriving DecidableEq, Repr

/-- The walk of a message through the routers of a die: at `place`, from input `inp`, in slot `t`, of `b` beats (R22, R23, R310). Where
several slot tables of a router name the input in these slots, the message takes the first output in the order north, east, south, west,
local: the spec says nothing of it (DESIGN CHOICE, n7). -/
def State.walk (s : State) (die goal b : Nat) : Nat → Nat → Nat → Nat → Nat → Way
  | 0, _, _, _, _ => .discarded
  | fuel + 1, place, inp, t, h =>
    let carries (o : Nat) : Bool := (List.range b).all fun i => s.slot die place o ((t + i) % 64) == inp
    match [0, 1, 2, 3, 4].find? carries with
    | none => .discarded
    | some 4 => if place = goal then .arrives h else .strays place h
    | some 0 => if place < 9 then .discarded else s.walk die goal b fuel (place - 9) 3 (t + 2) (h + 1)
    | some 1 => if place % 9 = 8 then .discarded else s.walk die goal b fuel (place + 1) 4 (t + 2) (h + 1)
    | some 2 => if 63 ≤ place then .discarded else s.walk die goal b fuel (place + 9) 1 (t + 2) (h + 1)
    | some _ => if place % 9 = 0 then .discarded else s.walk die goal b fuel (place - 1) 2 (t + 2) (h + 1)

/-- The way of a static-plane message from core `c` to core `d` whose first beat enters in cycle `cyc` (R22, R219). -/
def State.way (s : State) (c d b cyc : Nat) : Way :=
  if c = d then .arrives 0
  else s.walk (s.dieOf c) (s.placeOf d) b 288 (s.placeOf c) 5 (cyc - (s.core c).startCyc) 0

/-- Hops up to the end of a way. -/
def Way.hops : Way → Nat
  | .arrives h => h
  | .strays _ h => h
  | .discarded => 0

/-- Does a way end elsewhere than at its core? -/
def Way.lost : Way → Bool
  | .arrives _ => false
  | _ => true

/-- The core of a die at whose router a message leaves the plane astray, if one is enabled there. -/
def State.strayCore (s : State) (die : Nat) : Way → Option Nat
  | .strays place _ => ((List.range s.perDie).map (die * s.perDie + ·)).find? fun c => s.placeOf c == place
  | _ => none

/-- Beats of a static-plane message with `n` bytes behind its header (R215, R219). -/
def beatsOf (n : Nat) : Nat := ceilDiv (32 + n) 256

/-- Launch static-plane transfers one after another from a cycle on: each arrives when its first beat does, or is lost
(R219, R23). Its stamp is taken as its first beat enters (spec/12 R312). -/
def State.inject (s : State) (c : Nat) : Nat → List Xfer → List Xfer
  | _, [] => []
  | cyc, x :: xs =>
    let b := beatsOf x.data.length
    let w := s.way c x.dstCore b cyc
    { x with static := true, stage := .launched, inject := cyc, lost := w.lost, lostAt := s.strayCore (s.dieOf c) w,
             ready := cyc + latStatic (s.tp1 c) 1 w.hops } :: s.inject c (cyc + b) xs

/-- The parts of a STORE: its cut, translated transfers. -/
def storeParts (src dst : Desc) (rt : List Nat) (tagged copyTags : Bool) : List Piece × List Piece :=
  let data := copyRows src dst rt (if tagged then some dst.tagPtr else none)
  (data, (if copyTags then copyPlane dst rt src.tagPtr dst.tagPtr 64 else [])
    ++ (if src.scaleV && dst.scaleV then copyPlane dst rt src.scalePtr dst.scalePtr 32 else []))

/-- A transfer that writes bytes of the core's scratchpad at a partition address; the data is taken as the op issues (R212). -/
def State.writeXfer (s : State) (c : Nat) (kind : XKind) (f : Fmt) (tagged : Bool) (p : Piece) : Xfer :=
  let k := s.core c
  let a := s.peek c p.dst
  { kind := kind, src := p.src, dst := a, pa := p.dst, len := p.len, counted := counted (p.len + p.tags.length),
    data := pickNibble p.nib (clearOdd p.odd (Memory.read k.scratch p.src p.len)), nib := p.nib, tagFmt := if tagged then some f else none,
    tags := p.tags.map fun t => { t with dst := s.peek c t.dst }, dstCore := (s.scratchAt a).getD 0 }

/-- The window fields of a remote write, and the member it goes to. -/
def State.remoteXfer (s : State) (c : Nat) (h : Handle) (x : Xfer) : Xfer :=
  { x with remote := true, win := h.window, epoch := h.epoch, xrank := s.winRank (s.partNo c) h.window }

/-- The cores that the attached increments of a remote write into memory go to, each by the route of its signal (R152, R154). A write into
a scratchpad names none: the receiving core is the target. -/
def State.attachTargets (s : State) (c : Nat) (o : Op) (a : Nat) : Check (List Nat) :=
  if (s.scratchAt a).isSome then .ok []
  else match o.attached.find? fun g => (s.route c g.route).isNone with
    | some g => .error (refuse1 o g.route none)
    | none => .ok (o.attached.map fun g => ((s.route c g.route).map Route.core).getD 0)

/-- STORE. All of its transfers leave through one queue, which its destination's first byte decides where the destination covers memory
of two dies (spec/01 R26; DESIGN CHOICE, n8). -/
def planStore : PlanFn := fun s c o => do
  let k := s.core c
  let ds ← k.refs o 2 [1]
  let src := ds.getD 0 planMatmul.default_desc
  let dst := ds.getD 1 planMatmul.default_desc
  need (!src.part && dst.part && src.ext == dst.ext) 0x08
  let static := bit o.var 0
  let remote := (s.segAt c dst.base).rm
  need (remote || o.attached.isEmpty) 0x06
  let rt := minExt (k.rt src) (k.rt dst)
  let toMem := s.inMemory (s.peek c dst.base)
  let tagged := dst.tagV && toMem
  let copyTags := src.tagV && dst.tagV && !toMem
  let parts := if dst.masked rt then ([], []) else storeParts src dst rt tagged copyTags
  let n := parts.1.length + parts.2.length
  need (static || decide (n ≤ 256)) 0x11
  let tp := s.tp1 c
  let iss := latIss tp; let ld := latLd tp
  legal (if static then 0 else n) do
    let _ ← s.takeHulls c o src .rd
    let h ← s.takeHulls c o dst .wr
    let a := h.1
    let owner := s.scratchAt a
    needF (owner.isNone || remote) (segFault o.addr dst.base dst.span .rm)
    let r := s.route c (o.fld 15 0)
    if static then
      match r, owner with
      | some r', some d =>
        if r'.plane = 0 && !r'.xmod && r'.core = d && s.dieOf d = s.dieOf c then .ok () else .error (refuse1 o (o.fld 15 0) r)
      | _, _ => .error (refuse1 o (o.fld 15 0) ((s.core c).route (o.fld 15 0)))
    let h ← if remote then s.handle c o (o.fld 20 16) else .ok {}
    let att ← s.attachTargets c o a
    let q := if remote || s.dieAt a != s.dieOf c then 3 else 2
    let mk (tg : Bool) (p : Piece) : Xfer :=
      let x := { s.writeXfer c .store dst.fmt tg p with queue := q, ready := s.cyc + iss, route := r.getD {} }
      if remote then s.remoteXfer c h x else x
    let xs := parts.1.map (mk tagged) ++ parts.2.map (mk false)
    let xs := if xs.isEmpty && !o.attached.isEmpty then [mk false { src := src.base, dst := dst.base, len := 0 }] else xs
    let xs := attachLast o.attached att xs
    let xs := if static then s.inject c (s.cyc + iss + ld + 2) xs else xs
    let full := storeParts src dst dst.ext tagged copyTags
    let lines := if static then (full.1 ++ full.2).foldl (fun t p => t + beatsOf p.len) 0 else src.streamLines
    .ok (queueIssue iss c o true (src.ranges 1 (some (iss + lines - 1 + ld)))
      [(2, iss, iss + lines - 1), (9, iss + ld, iss + lines - 1 + ld)] xs)

/-- STORE issues (spec/08 R215). -/
def execStore (c : Nat) (s : State) : Out := issueRow "STORE" (isOpc 0x21) planStore c s

/-! ## GATHER and SCATTER (R216 to R218) -/

/-- The index tensor, the rows tensor and the table agree (R216). -/
def indexedOk (idx rows table : Desc) : Bool :=
  !idx.part && decide (idx.rank = 1) && decide (idx.fmt = .int32) && decide (dim idx.ext 0 ≤ 4096) && !rows.part && table.part
    && rows.rank == table.rank && dim rows.ext (rows.rank - 1) == dim idx.ext 0
    && rows.ext.take (rows.rank - 1) == table.ext.take (table.rank - 1)

/-- CF_INDEX_RANGE (spec/17 R419). -/
def indexRange (opAddr pos : Nat) (v : Int) (ext : Nat) : CFault :=
  ⟨0x08, opAddr, 0, toLE 4 pos ++ toLE 4 (lowBits 32 v) ++ toLE 4 ext⟩

/-- The index at a position. -/
def Core.index (k : Core) (idx : Desc) (r : Nat) : Int := signed 32 (Memory.nat k.scratch (idx.base + 4 * r) 4)

/-- The first index, of the first `n`, that lies outside the table's run-time outer extent: its position (R217). -/
def badIndex (k : Core) (idx table : Desc) (n : Nat) : Option Nat :=
  let ext := dim (k.rt table) (table.rank - 1)
  (List.range n).find? fun r => decide (k.index idx r < 0) || decide ((ext : Int) ≤ k.index idx r)

/-- The line of the index tensor that holds an index, from 0 (R217). -/
def indexLine (idx : Desc) (r : Nat) : Nat := (idx.base % 512 + 4 * r) / 512

/-- A row to move: its table address, its address in the scratchpad, its elements, its number in the table's rows, its nibbles where it is
one 4-bit element, and the line of its index. -/
structure IndexedRow where
  table : Nat
  own   : Nat
  n     : Nat
  tno   : Nat
  nib   : Option (Bool × Bool)
  line  : Nat
  /-- the last nibble of an odd number of rows -/
  nibEnd : Bool := false
  deriving DecidableEq, Repr

/-- The rows of a GATHER or SCATTER in index order: `inner` are the run-time inner extents, `n` the rows moved. The nibbles of a 4-bit
element are in the order table, scratchpad (spec/10 R247). -/
def indexedRows (k : Core) (idx rows table : Desc) (inner : List Nat) (n : Nat) : List IndexedRow :=
  (List.range n).flatMap fun r =>
    let v := (k.index idx r).toNat
    let l := indexLine idx r
    if rows.rank = 1 then
      if table.fmt.width = 4 then
        [⟨table.base + v / 2, rows.base + r / 2, 1, v, some (v % 2 == 1, r % 2 == 1), l, decide (n % 2 = 1) && r + 1 == n⟩]
      else [⟨table.base + v * table.fmt.esize, rows.base + r * rows.fmt.esize, 1, v, none, l, false⟩]
    else (indices (inner.drop 1)).map fun q =>
      ⟨table.rowAddr (q ++ [v]), rows.rowAddr (q ++ [r]), dim inner 0, table.rowNo (q ++ [v]), none, l, false⟩

/-- The fault of a bad index, as its line arrives (R217). -/
def indexFaults (k : Core) (o : Op) (idx table : Desc) (first : Nat) (bad : Option Nat) : List (Nat × CFault) :=
  match bad with
  | none => []
  | some r => [(first + indexLine idx r, indexRange o.addr r (k.index idx r) (dim (k.rt table) (table.rank - 1)))]

/-- Is an op on an index tensor and a scratchpad tensor fully masked (spec/10 R255)? -/
def Core.noRows (k : Core) (idx rows : Desc) : Bool := dim (k.rt idx) 0 == 0 || rows.masked (k.rt rows)

/-- GATHER. The rows of the index lines before a bad index move (R217). -/
def planGather : PlanFn := fun s c o => do
  let k := s.core c
  let ds ← k.refs o 3 [2]
  let dd := planMatmul.default_desc
  let table := ds.getD 0 dd; let idx := ds.getD 1 dd; let dst := ds.getD 2 dd
  need (indexedOk idx dst table) 0x08
  let masked := k.noRows idx dst
  let inner := (minExt (k.rt table) (k.rt dst)).take (dst.rank - 1)
  let count := if masked then 0 else dim (k.rt idx) 0
  let bad := badIndex k idx table count
  let tp := s.tp1 c
  let iss := latIss tp; let ld := latLd tp
  let lines := idx.streamLines
  let rows (base : Nat) := (indexedRows k idx dst { table with base := base } inner (min count (dim (k.rt dst) (dst.rank - 1)))).filter
    fun r => 0 < r.n && match bad with | some b => decide (r.line < indexLine idx b) | none => true
  legal (b2n (!masked && (bad.isSome || !(rows 0).isEmpty))) do
    let m ← s.takeHulls c o table .rd
    let _ ← s.takeHulls c o idx .rd
    let _ ← s.takeHulls c o dst .wr
    let cut (rs : List IndexedRow) : List Piece := transfersOf (rs.flatMap fun r =>
      if r.nib.isSome then [{ src := r.table, dst := r.own, len := 1, nib := r.nib, nibEnd := r.nibEnd }] else rowRuns table.fmt none r.table r.own r.n)
    let all := rows m.1
    let xs := (List.range lines).flatMap fun l => (cut (all.filter fun r => r.line == l)).map fun p =>
      ({ queue := b2n (bit o.var 0), kind := .gather, src := p.src, dst := p.dst, len := p.len, nib := p.nib, nibEnd := p.nibEnd,
         counted := counted p.len, odd := p.odd, ready := s.cyc + iss + l + ld } : Xfer)
    .ok { queueIssue iss c o false
            (idx.ranges 1 (some (iss + lines - 1 + ld)) ++ [sRange dst.base dst.span 2 none]
              ++ (dst.hulls.drop 1).map fun h => sRange h.1 h.2 2 (some iss))
            [(2, iss, iss + lines - 1)] xs (b2n bad.isSome) with
          faults := indexFaults k o idx table (iss + ld) bad }

/-- GATHER issues (spec/08 R217). -/
def execGather (c : Nat) (s : State) : Out := issueRow "GATHER" (isOpc 0x22) planGather c s

/-- SCATTER. The rows of the index lines before a bad index move (R217). Of a table of rank 1 a transfer carries what part of a 64-element block
the indices name in order, and the tag is that part's (spec/11 R269; DESIGN CHOICE for a part, n7). -/
def planScatter : PlanFn := fun s c o => do
  let k := s.core c
  let ds ← k.refs o 3 [2]
  let dd := planMatmul.default_desc
  let src := ds.getD 0 dd; let idx := ds.getD 1 dd; let table := ds.getD 2 dd
  need (indexedOk idx src table) 0x08
  let remote := (s.segAt c table.base).rm
  need (remote || o.attached.isEmpty) 0x06
  let masked := k.noRows idx src
  let inner := (minExt (k.rt table) (k.rt src)).take (src.rank - 1)
  let count := if masked then 0 else dim (k.rt idx) 0
  let bad := badIndex k idx table count
  let tp := s.tp1 c
  let iss := latIss tp; let ld := latLd tp
  let tagged := table.tagV && s.inMemory (s.peek c table.base)
  let lines := idx.streamLines
  let srcLines := src.streamLines
  let rows := (indexedRows k idx src table inner (min count (dim (k.rt src) (src.rank - 1)))).filter fun r => 0 < r.n
  let cut (rs : List IndexedRow) : List Piece := transfersOf <|
    if table.rank = 1 then blocksOf (rs.map fun r =>
      { src := r.own, dst := r.table, len := table.fmt.esize, nib := r.nib.map fun x => (x.2, x.1),
        tags := if tagged then [⟨0, table.fmt.esize, table.tagPtr + r.tno / 64⟩] else [] })
    else rs.flatMap fun r => rowRuns table.fmt (if tagged then some (table.tagPtr + r.tno * ceilDiv (dim table.ext 0) 64) else none) r.own r.table r.n
  let pieces := (List.range lines).flatMap fun l => (cut (rows.filter fun r => r.line == l)).map fun p => (l, p)
  need (decide (pieces.length ≤ 256)) 0x11
  legal pieces.length do
    let _ ← s.takeHulls c o src .rd
    let _ ← s.takeHulls c o idx .rd
    let h ← s.takeHulls c o table .wr
    needF ((s.scratchAt h.1).isNone || remote) (segFault o.addr table.base table.span .rm)
    let w ← if remote then s.handle c o (o.fld 4 0) else .ok {}
    let att ← s.attachTargets c o h.1
    let mk (p : Nat × Piece) : Xfer :=
      let x := { s.writeXfer c .scatter table.fmt tagged p.2 with queue := 3, ready := s.cyc + iss + p.1 + ld }
      if remote then s.remoteXfer c w x else x
    let xs := (pieces.filter fun p => match bad with | some b => decide (p.1 < indexLine idx b) | none => true).map mk
    let xs := if pieces.isEmpty && bad.isNone && !o.attached.isEmpty then
        [mk (0, { src := src.base, dst := table.base, len := 0 })] else xs
    let xs := if bad.isSome then xs else attachLast o.attached att xs
    .ok { queueIssue iss c o true
            (src.ranges 1 (some (iss + lines + srcLines - 1 + ld)) ++ idx.ranges 1 (some (iss + lines - 1 + ld)))
            [(2, iss, iss + lines + srcLines - 1), (9, iss + lines + ld, iss + lines + srcLines - 1 + ld)]
            xs (b2n bad.isSome) with
          faults := indexFaults k o idx table (iss + ld) bad }

/-- SCATTER issues (spec/08 R218). -/
def execScatter (c : Nat) (s : State) : Out := issueRow "SCATTER" (isOpc 0x23) planScatter c s

/-! ## SEND (R219) -/

/-- SEND. -/
def planSend : PlanFn := fun s c o => do
  let k := s.core c
  let ds ← k.refs o 1 []
  let src := ds.getD 0 planMatmul.default_desc
  ownScratch ds
  let tag := o.fld 15 0; let mlen := o.fld 28 16
  need (decide (32 ≤ mlen) && decide (mlen ≤ 4096) && mlen % 32 == 0) 0x11
  let rt := k.rt src
  let masked := src.masked rt
  let bytes := if masked then [] else (src.liveRows rt).flatMap fun r =>
    clearOdd (if src.fmt.width = 4 ∧ dim rt 0 % 2 = 1 then [src.fmt.bytes (dim rt 0) - 1] else [])
      (Memory.read k.scratch (src.rowAddr r.2) (src.fmt.bytes (dim rt 0)))
  let r := s.route c tag
  let static := match r with | some r => r.plane == 0 | none => false
  let ms := pieces mlen bytes
  need (static || decide (ms.length ≤ 256)) 0x11
  let tp := s.tp1 c
  let iss := latIss tp; let ld := latLd tp
  let total := src.rows * src.fmt.bytes (dim src.ext 0)
  let sumB := (List.range (ceilDiv total mlen)).foldl (fun t i => t + beatsOf (min mlen (total - mlen * i))) 0
  let lines := if static then sumB else src.streamLines
  legal (match r with | some e => if e.plane = 0 then 0 else ms.length | none => 0) do
    let _ ← s.takeHulls c o src .rd
    match r with
    | none => .error (refuse1 o tag ((s.core c).route tag))
    | some e =>
      if !(e.kind == 1 || e.kind == 2) then .error (refuse1 o tag r)
      let xs := (ms.zip (List.range ms.length)).map fun m =>
        ({ queue := 3, kind := .message, len := m.1.length, counted := counted (32 + m.1.length), data := m.1, route := e,
           dst := s.aliasOf e.core 0, dstCore := e.core, seq := (e.seq + m.2) % 2 ^ 32, ready := s.cyc + iss,
           xrank := if e.xmod then some e.rank else none } : Xfer)
      let xs := attachLast o.attached [] xs
      let xs := if static then s.inject c (s.cyc + iss + ld + 2) xs else xs
      let i := queueIssue iss c o true (src.ranges 1 (some (iss + lines - 1 + ld)))
        [(2, iss, iss + lines - 1), (9, iss + ld, iss + lines - 1 + ld)] xs
      .ok { i with
        asSignals := if masked then some tag else none
        effect := fun id s => (s.enqueue c id o.addr true xs).modCore c fun k => { k with routes := k.routes.map fun x =>
          if x.2.v && x.2.tag == tag then (x.1, { x.2 with seq := (x.2.seq + ms.length) % 2 ^ 32 }) else x } }

/-- SEND issues (spec/08 R219). -/
def execSend (c : Nat) (s : State) : Out := issueRow "SEND" (isOpc 0x24) planSend c s

/-! ## TICKET (R221) -/

/-- TICKET. -/
def planTicket : PlanFn := fun s c o => do
  let read := bit o.var 0
  let wt := o.fld 7 0; let inc := o.fld 23 8; let doff := o.fld 47 24
  let p := s.part (s.partNo c)
  need (decide (wt < p.wtCount) && (read || inc != 0) && doff % 8 == 0 && decide (doff < scratchSize)) 0x11
  let iss := latIss (s.tp1 c)
  legal 1 (.ok (queueIssue iss c o false [sRange doff 8 2 none] []
    [{ queue := 3, kind := if read then .ticketRead else .ticketClaim, dst := doff, len := 8, counted := 64, aux := p.wtBase + wt,
       place := inc, ready := s.cyc + iss }]))

/-- TICKET CLAIM issues (spec/08 R221). -/
def execTicketClaim (c : Nat) (s : State) : Out :=
  issueRow "TICKET_CLAIM" (fun o => o.opc == 0x25 && !bit o.var 0) planTicket c s

/-- TICKET READ issues (spec/08 R221). -/
def execTicketRead (c : Nat) (s : State) : Out :=
  issueRow "TICKET_READ" (fun o => o.opc == 0x25 && bit o.var 0) planTicket c s

/-! ## LOADPROG (spec/06 R167) -/

/-- A set of block bits. -/
def blockMask (first n : Nat) : Nat := (2 ^ n - 1) * 2 ^ first

/-- Clear the bits of a mask. -/
def clearMask (v mask : Nat) : Nat := v - (v &&& mask)

/-- LOADPROG. -/
def planLoadprog : PlanFn := fun s c o => do
  let k := s.core c
  let ds ← k.refs o 1 []
  let src := ds.getD 0 planMatmul.default_desc
  let first := o.fld 6 0; let n := o.fld 14 7
  let progs := !bit o.var 0
  let max := if progs then 128 else 32
  need (src.part && src.rank == 1) 0x08
  need (n != 0 && decide (first + n ≤ max)) 0x11
  need (decide (4096 * n ≤ src.fmt.bytes (dim src.ext 0))) 0x08
  let iss := latIss (s.tp1 c)
  legal 1 do
    let m ← s.reach c o src.base (4096 * n) .pl
    let xs := (List.range n).map fun i =>
      ({ queue := 1, kind := if progs then .program else .descriptors, src := m + 4096 * i, dst := 4096 * (first + i),
         len := 4096, counted := 4096, ready := s.cyc + iss } : Xfer)
    let i := queueIssue iss c o false [] [] xs
    .ok { i with
      effect := fun id s =>
        let s := s.enqueue c id o.addr false xs
        s.modCore c fun k =>
          let own (t : Tab Nat) : Tab Nat := (List.range n).foldl (fun t i => Tab.set 0 t (first + i) id) t
          if progs then { k with pvalid := clearMask k.pvalid (blockMask first n), powner := own k.powner }
          else { k with dvalid := clearMask k.dvalid (blockMask first n), downer := own k.downer } }

/-- LOADPROG issues (spec/06 R167). -/
def execLoadprog (c : Nat) (s : State) : Out := issueRow "LOADPROG" (isOpc 0x26) planLoadprog c s

/-! ## STOCK_SEND (spec/07 R197) -/

/-- STOCK_SEND. -/
def planStockSend : PlanFn := fun s c o => do
  let k := s.core c
  let srow := o.fld 9 0; let rows := o.fld 17 10; let drow := o.fld 27 18; let tag := o.fld 43 28
  need (!bit o.var 3) 0x02
  need (rows != 0 && decide (rows ≤ 128)) 0x11
  let iss := latIss (s.tp1 c); let lr := latRow (s.tp1 c)
  legal rows do
    rowBound o (srow + rows)
    rowBound o (drow + rows)
    rowsOpen k o srow rows
    let r := s.route c tag
    match r with
    | none => .error (refuse1 o tag ((s.core c).route tag))
    | some e =>
      if e.plane = 0 then .error (refuse1 o tag r)
      let h ← s.handle c o (o.fld 48 44)
      let xs := (List.range rows).map fun i =>
        ({ queue := 3, kind := .stockRow, remote := true, win := h.window, epoch := h.epoch, len := 2560,
           counted := counted 2560, data := k.stockRow (srow + i), dst := s.aliasOf e.core 0, place := drow + i,
           dstCore := e.core, route := e, ready := s.cyc + iss, xrank := if e.xmod then some e.rank else none } : Xfer)
      .ok (queueIssue iss c o true [potRange srow rows 1 (iss + 5 * (rows - 1))] [(6, iss, iss + 5 * rows - 1), (9, iss + lr, iss + 5 * rows - 1 + lr)]
        (attachLast o.attached [] xs))

/-- STOCK_SEND issues (spec/07 R197). -/
def execStockSend (c : Nat) (s : State) : Out :=
  issueRow "STOCK_SEND" (fun o => o.opc == 0x04 && o.var % 8 == 2) planStockSend c s

end Sys2Proof.Machine
end

