-- ==== Sys2Proof/Machine/Flits.lean ====
section
/-!
DEFINITION. Sys2Proof/Machine/Flits.lean: the transmitter of a Galed link: packets cut into flits, credits, the replay buffer, and
the CRC (spec/16 R394 to R398).
-/
namespace Sys2Proof

/-! ## Flits (R394, R398) -/

/-- Eight steps of CRC-32C. -/
def crcBits : Nat → Nat → Nat
  | 0, c => c
  | n + 1, c => crcBits n (if c % 2 = 1 then Nat.xor (c / 2) 0x82F63B78 else c / 2)

/-- CRC-32C of a list of bytes. -/
def crc32c (bs : List Byte) : Nat :=
  Nat.xor (bs.foldl (fun c b => crcBits 8 (Nat.xor c b.toNat)) 0xFFFFFFFF) 0xFFFFFFFF

/-- Bytes 0 to 251 of a flit. -/
def Flit.bytes (f : Flit) : List Byte :=
  toLE 8 (f.vc % 4 + 4 * (f.cls % 2) + 8 * (f.ty % 4) + 32 * b2n f.sop + 64 * b2n f.eop + 2 ^ 8 * (f.fseq % 4096)
      + 2 ^ 20 * (f.ackseq % 4096) + 2 ^ 32 * (f.crvc % 4) + 2 ^ 34 * (f.crcls % 2) + 2 ^ 35 * (f.crcnt % 256)
      + 2 ^ 43 * (f.valid % 256))
    ++ (f.payload ++ List.replicate 244 0).take 244

/-- A flit with its CRC. -/
def Flit.sealed (f : Flit) : Flit := { f with crc := crc32c f.bytes }

/-- A packet's bytes: its link header and its body. -/
def Packet.bytes (k : Packet) : List Byte :=
  toLE 1 k.ptype ++ toLE 1 k.flags ++ toLE 2 k.dstRank ++ toLE 2 k.srcRank ++ toLE 2 k.dstCore ++ toLE 2 k.srcCore
    ++ toLE 2 k.body.length ++ toLE 4 k.ref ++ k.body

/-- The virtual channel of a packet (R396). -/
def Packet.vc (k : Packet) : Nat :=
  if k.ptype = 2 then 1 else if k.ptype = 4 ∨ k.ptype = 5 ∨ k.ptype = 6 then 2 else if k.ptype = 7 then 3 else 0

/-- Do two packets follow one another on a route? -/
def Packet.sameWay (a b : Packet) : Bool :=
  a.vc == b.vc && a.srcRank == b.srcRank && a.dstRank == b.dstRank && a.srcCore == b.srcCore && a.dstCore == b.dstCore

/-- The flits of a packet, without sequence numbers, acknowledgements and credits. -/
def Packet.flits (k : Packet) (cls : Nat) : List Flit :=
  let bs := k.bytes
  let n := ceilDiv bs.length 244
  (List.range n).map fun i =>
    { vc := k.vc, cls := cls, ty := 0, sop := i == 0, eop := i + 1 == n, fseq := 0, ackseq := 0, crvc := 0, crcls := 0, crcnt := 0,
      valid := ((bs.drop (244 * i)).take 244).length, payload := (bs.drop (244 * i)).take 244, crc := 0, fecOk := true, corr := 0,
      side := if i = 0 then k.side else none }

end Sys2Proof
namespace Sys2Proof.Machine

/-- A link of the module. -/
def State.link (s : State) (l : Nat) : Link := Tab.get {} s.links l

/-- Replace a link. -/
def State.setLink (s : State) (l : Nat) (x : Link) : State := { s with links := Tab.set {} s.links l x }

/-- Change a link. -/
def State.modLink (s : State) (l : Nat) (f : Link → Link) : State := s.setLink l (f (s.link l))

/-! ## Sending (R395, R397) -/

/-- The buffer of a receiver per class of a channel, in flits (R396). -/
def vcBuffer (vc : Nat) : Nat := if vc = 0 then 128 else if vc = 3 then 16 else 32

/-- Credit initialisation; sequence numbers start at 0 (R399 step 6). -/
def Link.fresh (x : Link) : Link :=
  { x with txSeq := 0, replay := [], txq := [], passed := 0, packets := [], rxSeq := 0, lastAck := 4095, asked := false, buf := [],
           owed := [], again := (0, 0), credits := (List.range 8).map fun i => (i, vcBuffer (i / 2)) }

/-- A flit that carries the acknowledgement and one credit return. -/
def Link.stampFlit (x : Link) (f : Flit) : Link × Flit :=
  let f := { f with ackseq := x.lastAck }
  match x.owed.head? with
  | none => (x, f.sealed)
  | some o =>
    let n := min o.2 255
    ({ x with owed := Tab.set 0 x.owed o.1 (o.2 - n) }, ({ f with crvc := o.1 / 2, crcls := o.1 % 2, crcnt := n } : Flit).sealed)

/-- An empty flit of a type: 1 idle, 2 a replay request. -/
def emptyFlit (ty : Nat) : Flit :=
  { vc := 0, cls := 0, ty := ty, sop := false, eop := false, fseq := 0, ackseq := 0, crvc := 0, crcls := 0, crcnt := 0, valid := 0,
    payload := List.replicate 244 0, crc := 0, fecOk := true, corr := 0 }

/-- Has channel `vc` a flit to send and a credit for it? -/
def Link.canSend (x : Link) (vc : Nat) : Bool :=
  match (Tab.get [] x.txq vc).head? with
  | some f => decide (0 < Tab.get 0 x.credits (2 * vc + f.cls))
  | none => false

/-- The channel that sends next: management, counter signals, tickets, data; data goes next once it has let three pass (R397). -/
def Link.nextVc (x : Link) : Option Nat :=
  if x.canSend 0 && decide (3 ≤ x.passed) then some 0 else [3, 1, 2, 0].find? x.canSend

/-- The last flit of a channel's oldest packet in flight has an FSEQ. -/
def markSent (vc seq : Nat) : List (Nat × Nat × Packet × Option Nat) → List (Nat × Nat × Packet × Option Nat)
  | [] => []
  | p :: ps => if p.1 = vc ∧ p.2.2.2 = none then (p.1, p.2.1, p.2.2.1, some seq) :: ps else p :: markSent vc seq ps

/-- The channel whose flit the transmitter sends next: in cascade service any, in the identity exchange of a join that of management
(R396, R399). -/
def Link.channel (x : Link) : Option Nat :=
  if x.state = 3 then x.nextVc else if x.state = 2 ∧ x.step = 5 ∧ x.canSend 3 then some 3 else none

/-- The transmitter sends one data flit, if a channel may and the replay buffer has room. -/
def Link.sendOne (x : Link) : Option (Link × Flit) :=
  if 512 ≤ x.replay.length then none
  else match x.channel with
    | none => none
    | some vc =>
      match Tab.get [] x.txq vc with
      | [] => none
      | f :: rest =>
        let i := 2 * vc + f.cls
        let r := x.stampFlit { f with fseq := x.txSeq }
        let y := r.1
        some ({ y with txSeq := (y.txSeq + 1) % 4096, replay := y.replay ++ [r.2], txq := Tab.set [] y.txq vc rest,
                       credits := Tab.modify 0 y.credits i (· - 1),
                       passed := if vc = 0 then 0 else if (Tab.get [] y.txq 0).isEmpty then 0 else y.passed + 1,
                       packets := if f.eop then markSent vc y.txSeq y.packets else y.packets }, r.2)

/-- The transmitter of link `l` sends what it may, at most `n` flits. -/
def State.pump (l : Nat) : Nat → State → State
  | 0, s => s
  | n + 1, s =>
    match (s.link l).sendOne with
    | none => s
    | some r => State.pump l n ((s.setLink l r.1).send (.flit l r.2))

/-- A packet is to leave on a link, in a class; its flits follow those of its channel. -/
def State.sendPacket (s : State) (l cls : Nat) (k : Packet) : State :=
  State.pump l 512 (s.modLink l fun x =>
    { x with txq := Tab.modify [] x.txq k.vc (· ++ k.flits cls), packets := x.packets ++ [(k.vc, cls, k, none)] })

end Sys2Proof.Machine
end

