-- ==== Sys2Proof/Machine/Torus.lean ====
section
/-!
DEFINITION. Sys2Proof/Machine/Torus.lean: the torus of a cascade, the link a packet leaves on, and the management packets that its members
send one another (spec/16 R396, R401 to R407, R411).
-/
namespace Sys2Proof.Machine

/-! ## The torus (R402) -/

/-- The cascade of a partition. -/
def State.cas (s : State) (p : Nat) : Cascade := (s.part p).cascade

/-- Change the cascade of a partition. -/
def State.modCascade (s : State) (p : Nat) (f : Cascade → Cascade) : State := s.modPart p fun x => { x with cascade := f x.cascade }

/-- The rank of the module in the cascade of a partition, 0 outside one. -/
def State.rankOf (s : State) (p : Nat) : Nat := (s.cas p).rank

/-- The coordinates of a rank in a torus, each with the size of its dimension. -/
def Cascade.coords (k : Cascade) (r : Nat) : List (Nat × Nat) :=
  [(r % k.dimX, k.dimX), (r / k.dimX % k.dimY, k.dimY), (r / (k.dimX * k.dimY), k.dimZ)]

/-- Members of a torus. -/
def Cascade.size (k : Cascade) : Nat := k.dimX * k.dimY * k.dimZ

/-- The size of a dimension, 0 X to 2 Z. -/
def Cascade.dim (k : Cascade) (i : Nat) : Nat := if i = 0 then k.dimX else if i = 1 then k.dimY else k.dimZ

/-- The rank one hop away in a direction, coded as in ROLE. -/
def Cascade.neighbour (k : Cascade) (d : Nat) : Nat :=
  let stride := if d / 2 = 0 then 1 else if d / 2 = 1 then k.dimX else k.dimX * k.dimY
  let n := k.dim (d / 2)
  let x := k.rank / stride % n
  let y := if d % 2 = 0 then (x + 1) % n else (x + n - 1) % n
  k.rank - x * stride + y * stride

/-- Does the torus need the links of a direction? -/
def Cascade.needs (k : Cascade) (d : Nat) : Bool := decide (d < 6) && decide (1 < k.dim (d / 2))

/-- The direction a packet for a rank takes: X, then Y, then Z, the shorter way round, ties positive (R405). -/
def Cascade.direction (k : Cascade) (dst : Nat) : Option Nat :=
  let steps := (k.coords k.rank).zip (k.coords dst)
  ((List.range 3).zip steps).findSome? fun x =>
    let n := x.2.1.2
    let d := (x.2.2.1 + n - x.2.1.1) % n
    if d = 0 then none else if 2 * d ≤ n then some (2 * x.1) else some (2 * x.1 + 1)

/-- How far a member stands from a root in the positive sense of each dimension. -/
def Cascade.offsets (k : Cascade) (root : Nat) : List Nat :=
  ((k.coords root).zip (k.coords k.rank)).map fun x => (x.2.1 + x.1.2 - x.1.1) % x.1.2

/-- The members to which this one sends on what comes down the broadcast tree of a root: along the X ring, from each X member along Y, and
from each Y member along Z (R411). A ring is walked the shorter way from the root, as packets are (R405), and a lost member is passed over
(DEDUCED, n12). -/
def Cascade.children (k : Cascade) (root : Nat) : List Nat :=
  let off := k.offsets root
  (List.range 6).filterMap fun d =>
    let n := k.dim (d / 2)
    let o := off.getD (d / 2) 0
    let next := if d % 2 = 0 then (o + 1) % n else (o + n - 1) % n
    if (off.drop (d / 2 + 1)).all (· == 0) && next != 0 && decide (2 * next ≤ n) == (d % 2 == 0) && !k.lost.contains (k.neighbour d) then
      some (k.neighbour d)
    else none

/-! ## The link a packet leaves on (R401, R405 to R407) -/

/-- Is a link one of a partition's, with a role? -/
def State.linkIn (s : State) (p role l : Nat) : Bool := bit (s.part p).links l && (s.link l).role == role

/-- The first link of a choice, from position `k` upward, modulo 8 (R406). -/
def pickLink (k : Nat) (ok : Nat → Bool) : Option Nat :=
  (List.range 8).findSome? fun j => (List.range 64).find? fun l => l % 8 == (k + j) % 8 && ok l

/-- The link of a choice that a packet leaves on: where one before it on its route is not yet acknowledged it follows that one, so that no
route's order changes while a link retrains (R401; DEDUCED, n12); else the link in service of R406; else it waits on the first one. -/
def State.chooseLink (s : State) (pk : Packet) (ok : Nat → Bool) : Option Nat :=
  let k := (pk.srcCore + pk.dstCore) % 8
  match (List.range 64).find? fun l => ok l && (s.link l).packets.any fun e => e.2.2.1.sameWay pk with
  | some l => some l
  | none =>
    match pickLink k fun l => ok l && (s.link l).state == 3 with
    | some l => some l
    | none => pickLink k ok

/-- The link a packet of a partition's cascade leaves on: at its source an express link to its destination where there is one, for express
links never forward (R407); else a link of its direction. Where the direction has none it waits at its position. -/
def State.linkFor (s : State) (p : Nat) (pk : Packet) : Nat :=
  let k := s.cas p
  let express (l : Nat) : Bool := s.linkIn p 6 l && !(s.link l).twin && (s.link l).peerRank == pk.dstRank
  match if pk.srcRank = k.rank then s.chooseLink pk express else none with
  | some l => l
  | none =>
    let d := (k.direction pk.dstRank).getD 0
    (s.chooseLink pk (s.linkIn p d)).getD (8 * d + (pk.srcCore + pk.dstCore) % 8)

/-- A packet leaves. -/
def State.sendOn (s : State) (p : Nat) (pk : Packet) : State := s.sendPacket (s.linkFor p pk) 0 pk

/-- How many flits of a channel's queue belong to a packet that has begun. -/
def begun (q : List Flit) : Nat := if (q.headD (emptyFlit 1)).sop then 0 else (q.takeWhile fun f => !f.eop).length + 1

/-- A link's packets not wholly acknowledged leave on the links that now serve their destinations, in their order, ahead of the
packets there that have not begun (R401, R406). -/
def State.rehome (s : State) (p l : Nat) : State :=
  let ks := (s.link l).packets
  let s := s.modLink l fun x => { x with packets := [], txq := [], replay := [] }
  let insert (s : State) (e : Nat × Nat × Packet × Option Nat) : State :=
    s.modLink (s.linkFor p e.2.2.1) fun x =>
      let q := Tab.get [] x.txq e.1
      let n := if q.isEmpty then 0 else begun q
      let mine := x.packets.filter fun y => y.1 == e.1
      let m := (mine.filter fun y => y.2.2.2.isSome).length + if n = 0 then 0 else 1
      { x with txq := Tab.set [] x.txq e.1 (q.take n ++ e.2.2.1.flits e.2.1 ++ q.drop n),
               packets := mine.take m ++ (e.1, e.2.1, e.2.2.1, none) :: mine.drop m ++ x.packets.filter fun y => y.1 != e.1 }
  let s := ks.reverse.foldl insert s
  (List.range 64).foldl (fun s l => State.pump l 512 s) s

/-! ## Management packets (R396) -/

/-- A management packet. What its body's first byte says, and the layout of the rest, are the model's (DESIGN CHOICE, n11): 1 the owner
map, 2 an event of the master, 3 a report to the master, 4 a beat, 5 twin digests, 6 an identity record, 7 a request to the owner map, 8 its
answer. -/
def mgmtPacket (dst src : Nat) (body : List Byte) : Packet :=
  { ptype := 7, flags := 0, dstRank := dst, srcRank := src, dstCore := 0x1FF, srcCore := 0x1FF, ref := 0, body := body }

/-- A management packet for one member. -/
def State.manage (s : State) (p dst : Nat) (body : List Byte) : State := s.sendOn p (mgmtPacket dst (s.cas p).rank body)

/-- A management packet goes on down the broadcast tree of a root, whose rank its header carries. -/
def State.spread (s : State) (p root : Nat) (body : List Byte) : State :=
  ((s.cas p).children root).foldl (fun s q => s.sendOn p (mgmtPacket q root body)) s

/-- The master says who holds a window open: the rank, or nobody (R404). -/
def ownerBody (w rank : Nat) (isOpen : Bool) : List Byte := toLE 1 1 ++ toLE 1 w ++ toLE 2 rank ++ toLE 1 (b2n isOpen)

/-- An event of the master, 2, or a report to it, 3: its kind, the rank concerned, and the stamp of the member that detected it (R417). -/
def noticeBody (what kind rank stamp : Nat) : List Byte := toLE 1 what ++ toLE 1 kind ++ toLE 2 rank ++ toLE 8 stamp

/-- A beat: the master's rank, the time in tenths of a nanosecond, and the succession list (R411, R413). -/
def beatBody (rank value : Nat) (succession : List Nat) : List Byte :=
  toLE 1 4 ++ toLE 1 succession.length ++ toLE 2 rank ++ toLE 9 value ++ succession.flatMap (toLE 2)

/-- A member asks the master's owner map (R404): 0 to open a window, 1 who holds it, 2 that it has closed it. -/
def askBody (w rank what : Nat) : List Byte := toLE 1 7 ++ toLE 1 w ++ toLE 2 rank ++ toLE 1 what

/-- The master's answer: 1 more than the rank that holds the window open, 0 for nobody. -/
def tellBody (w holder : Nat) : List Byte := toLE 1 8 ++ toLE 1 w ++ toLE 2 holder

/-- Is the twin exchange link in service (R410, R414)? -/
def State.twinUp (s : State) : Bool := (List.range 64).any fun l => (s.link l).twin && (s.link l).state == 3

end Sys2Proof.Machine
end

