-- ==== Sys2Proof/Machine/Control.lean ====
section
/-!
DEFINITION. Sys2Proof/Machine/Control.lean: the control ops (spec/08 R223 to R227, spec/06 R163, R164), the skipping of illegal
ops (R158), wait timeouts (R151), completion points and signals (R153), and the end of a core's run (R226, R227).
-/
namespace Sys2Proof.Machine

/-! ## Signals (spec/06 R152 to R154) -/

/-- A signal message leaves on a route (R153; spec/12 R312): on the static plane its beat enters two cycles later and arrives at its fixed
latency; on the memory plane it is a transfer of the remote queue (spec/11 R280), which counts 64 bytes. -/
def State.signalMessage (s : State) (c opAddr : Nat) (g : Sig) (r : Route) (mark : Option Mark) : State :=
  let (id, s) := s.takeId
  let p := s.partNo c
  let s := s.modCore c fun k => { k with routes := k.routes.map fun x =>
    if x.2.v && x.2.tag == g.route then (x.1, { x.2 with seq := (x.2.seq + 1) % 2 ^ 32 }) else x }
  if r.plane = 0 && !r.xmod then
    let w := s.way c r.core 1 (s.cyc + 2)
    let m : SigMsg :=
      { id := id, srcCore := c, srcRank := s.rankOf p, opAddr := opAddr, tag := g.route, static := true, dstCore := r.core,
        cnt := g.cnt, inc := g.inc, mark := mark, ready := s.cyc + 2 + latStatic (s.tp1 c) 1 w.hops, seq := r.seq,
        stamp := s.coreStamp, attached := false, lost := w.lost, lostAt := s.strayCore (s.dieOf c) w }
    { s with sigs := s.sigs ++ [m] }
  else
    let x : Xfer :=
      { id := id, core := c, part := p, opAddr := opAddr, queue := 3, kind := .signal, dst := s.aliasOf r.core 0, counted := 64,
        att := [g], attMark := mark, route := r, dstCore := r.core, seq := r.seq, ready := s.cyc,
        xrank := if r.xmod then some r.rank else none }
    { s with xfers := s.xfers ++ [x] }

/-- One signal of an op at its completion point. -/
def State.sendSignal (s : State) (c opAddr : Nat) (mark : Option Mark) (g : Sig) : State :=
  if !g.remote then s.increment c g.cnt g.inc mark ⟨c, s.rankOf (s.partNo c), opAddr⟩
  else if g.attach then s
  else
    match s.route c g.route with
    | none => (s.noteRefused c g.route opAddr 1).coreFault c (sendRefused opAddr g.route 1 0 0)
    | some r => s.signalMessage c opAddr g r mark

/-- The signals of an op, signal 0 first; a core that a signal makes fault sends none after it (spec/06 R476). -/
def State.sendSignals (c opAddr : Nat) (mark : Option Mark) (s : State) : List Sig → State
  | [] => s
  | g :: gs =>
    let t := s.sendSignal c opAddr mark g
    if (t.core c).faulted && !(s.core c).faulted then t else State.sendSignals c opAddr mark t gs

/-! ## Control ops -/

/-- A control op: nothing to check at issue but its own rule, and no completion point. -/
def controlIssue (f : State → State) : Check Legal :=
  legal 0 (.ok { windows := [(1, 0, 0)], control := true, effect := fun _ s => f s })

/-- WAIT (spec/08 R224). -/
def planWait : PlanFn := fun _ c o =>
  controlIssue fun s => s.sendSignals c o.addr none o.sigs

/-- WAIT issues (spec/08 R224). -/
def execWait (c : Nat) (s : State) : Out := issueRow "WAIT" (isOpc 0x30) planWait c s

/-- The entries of a SIGNAL OPEN or CLOSE in use: (counter, EXP) (R225). -/
def Op.epochs (o : Op) : List (Nat × Nat) :=
  (List.range 4).filterMap fun e =>
    let w := bits o.opnd (32 * e + 31) (32 * e)
    if bit w 6 then some (bits w 5 0, bits w 31 8) else none

/-- CF_COUNTER_UNDER (spec/17 R419). -/
def counterUnder (opAddr n : Nat) (x : Counter) : CFault :=
  ⟨0x03, opAddr, 0, toLE 1 n ++ toLE 6 x.ceil ++ toLE 6 x.value ++ toLE 1 255⟩

/-- Why an epoch cannot open (spec/12 R298). -/
def Core.openFault (k : Core) (c rank opAddr : Nat) (e : Nat × Nat) : Option CFault :=
  let x := k.cnt e.1
  if x.isOpen && decide (x.value < x.ceil) then some (counterUnder opAddr e.1 x)
  else if 2 ^ 48 - 1 < x.value + e.2 then some (counterOver x e.1 e.2 255 ⟨c, rank, opAddr⟩)
  else none

/-- Open an epoch (R298). -/
def Core.openEpoch (k : Core) (e : Nat × Nat) : Core :=
  let x := k.cnt e.1
  k.setCnt e.1 { x with isOpen := true, base := x.value, ceil := x.value + e.2, mark := none }

/-- Why an epoch cannot close (R300). -/
def Core.closeFault (k : Core) (opAddr : Nat) (e : Nat × Nat) : Option CFault :=
  let x := k.cnt e.1
  if !x.isOpen then some (epochState opAddr e.1 1 x.ceil)
  else match x.mark with
    | some m => some (m.fault opAddr)
    | none => if x.value < x.ceil then some (counterUnder opAddr e.1 x) else none

/-- Close an epoch (R300). -/
def Core.closeEpoch (k : Core) (n : Nat) : Core := k.setCnt n { k.cnt n with isOpen := false }

/-- SIGNAL (R225; spec/12 R298, R300). -/
def planSignal : PlanFn := fun s c o => do
  need (o.var == 0 || (decide (o.epochs.map Prod.fst).Nodup && (o.var == 1 || o.epochs.all fun e => e.2 == 0))) 0x11
  let rank := s.rankOf (s.partNo c)
  let k := s.core c
  legal 0 do
    match o.epochs.findSome? fun e =>
      if o.var = 1 then k.openFault c rank o.addr e else if o.var = 2 then k.closeFault o.addr e else none with
    | some f => .error (.fault f)
    | none =>
      .ok { windows := [(1, 0, 0)], control := true, effect := fun _ s =>
              let s := s.modCore c fun k =>
                if o.var = 1 then o.epochs.foldl Core.openEpoch k
                else if o.var = 2 then o.epochs.foldl (fun k e => k.closeEpoch e.1) k else k
              s.sendSignals c o.addr none o.sigs }

/-- SIGNAL PLAIN issues (spec/08 R225). -/
def execSignalPlain (c : Nat) (s : State) : Out :=
  issueRow "SIGNAL_PLAIN" (fun o => o.opc == 0x31 && o.var == 0) planSignal c s
/-- SIGNAL OPEN issues (spec/12 R298). -/
def execSignalOpen (c : Nat) (s : State) : Out :=
  issueRow "SIGNAL_OPEN" (fun o => o.opc == 0x31 && o.var == 1) planSignal c s
/-- SIGNAL CLOSE issues (spec/12 R300). -/
def execSignalClose (c : Nat) (s : State) : Out :=
  issueRow "SIGNAL_CLOSE" (fun o => o.opc == 0x31 && o.var == 2) planSignal c s

/-- LOOP (spec/06 R163, R164). -/
def planLoop : PlanFn := fun s c o => do
  let k := s.core c
  let trip := o.fld 23 0; let stop := o.fld 36 24
  let advs := [o.fld 61 40, o.fld 83 62, o.fld 105 84, o.fld 127 106]
  let _ ← k.refs o o.nd []
  need ((advs.drop o.nd).all fun a => bits a 1 0 == 0) 0x10
  need (decide (k.loops.length < 4) && decide (o.addr + 1 ≤ stop) && o.addr != 8191
    && (match k.loops.getLast? with | some l => decide (stop ≤ l.stop) | none => true)) 0x10
  let lvl : LoopLvl :=
    { start := o.addr + 1, stop := stop, trip := trip, iter := 0,
      advs := ((o.drefs.zip advs).filter fun x => bits x.2 1 0 != 0).map fun x => ⟨x.1, bits x.2 1 0, signed 20 (bits x.2 21 2)⟩ }
  controlIssue fun s =>
    let s := s.modCore c fun k =>
      if trip = 0 then
        let r := afterIssue stop k.loops 5
        { k with next := r.1, loops := r.2 }
      else { k with loops := k.loops ++ [lvl] }
    s.sendSignals c o.addr none o.sigs

/-- LOOP issues (spec/06 R164). -/
def execLoop (c : Nat) (s : State) : Out := issueRow "LOOP" (isOpc 0x32) planLoop c s

/-- HALT (spec/08 R226). -/
def planHalt : PlanFn := fun _ c o =>
  controlIssue fun s =>
    s.modCore c fun k => { k with running := false, cycle := s.cyc - k.startCyc + 1, halting := some (s.coreNow, o.addr),
                                  haltSigs := o.sigs }

/-- HALT issues (spec/08 R226). -/
def execHalt (c : Nat) (s : State) : Out := issueRow "HALT" (isOpc 0x3F) planHalt c s

/-! ## Every op -/

/-- The plan of an op by its opcode and variant. -/
def planFor (o : Op) : PlanFn :=
  match o.opc with
  | 0x01 => planMatmul | 0x02 => planMatvec | 0x03 => planAttend
  | 0x04 => match o.var % 8 with
    | 0 => planRows false | 1 => planRows true | 2 => planStockSend | 3 => planStockStore | _ => planStockAdd
  | 0x05 => planDrain | 0x10 => planWhisk | 0x11 => planLayout | 0x12 => planConvert | 0x13 => planRandom
  | 0x14 => planTagfill | 0x20 => planLoad | 0x21 => planStore | 0x22 => planGather | 0x23 => planScatter
  | 0x24 => planSend | 0x25 => planTicket | 0x26 => planLoadprog | 0x30 => planWait | 0x31 => planSignal
  | 0x32 => planLoop | 0x3F => planHalt
  | _ => fun _ _ _ => .error (.illegal 0x01)

/-- Does the station find an op illegal, now or when it became due (spec/06 R158)? -/
def State.findsIllegal (s : State) (c : Nat) (o : Op) : Bool :=
  (s.core c).illDue || match legality (planFor o) s c o with
    | .error (.illegal _) => true
    | .ok l => (match l.go with | .error (.illegal _) => true | _ => false)
    | _ => false

/-- The op at NEXT is taken up as an illegal one (spec/06 R158). -/
def execIllegalOp (c : Nat) (s : State) : Out :=
  let k := s.core c
  if !s.issuing c then notNow "ILLEGAL_OP"
  else if !s.offered c then .next s
  else if k.blockValid k.next && !(s.look c).findsIllegal c k.nextOp then notNow "ILLEGAL_OP"
  else .next (s.takeOp (planFor k.nextOp) c)

/-- The op at NEXT is taken up in a cycle whose stamp has reached the limit of a wait that has not passed (spec/06 R151). -/
def execWaitTimeout (c : Nat) (s : State) : Out :=
  let k := s.core c
  if s.offered c && k.blockValid k.next && (k.expired k.nextOp s.coreNow).isSome then .next (s.takeOp (planFor k.nextOp) c)
  else notNow "WAIT_TIMEOUT"

/-! ## Completion points and the end of a core's run -/

/-- The oldest op whose completion point has come. -/
def Core.complete (k : Core) (cyc : Nat) : Option PendOp :=
  k.pend.find? fun o => match o.completeAt with | some t => decide (t ≤ cyc) | none => false

/-- An op at its completion point sends its signals (spec/06 R153; spec/08 R213). -/
def State.completeOp (s : State) (c : Nat) (o : PendOp) : State :=
  let s := s.modCore c fun k =>
    { k with pend := k.pend.filter fun q => q.id != o.id,
             unmarked := if o.sigs.isEmpty && k.unmarked.isNone then o.mark else k.unmarked }
  s.sendSignals c o.opAddr o.mark o.sigs

/-- The ops of a core whose completion point has come, oldest first; at most `n`. -/
def State.completeOps (c : Nat) : Nat → State → State
  | 0, s => s
  | n + 1, s =>
    match (s.core c).complete s.cyc with
    | none => s
    | some o => State.completeOps c n (s.completeOp c o)

/-- Are the core's op entries retired (R226)? -/
def Core.opsRetired (k : Core) (cyc : Nat) : Bool := (k.freeEntries false cyc).length == 64

/-- The first fault of the epoch checks of HALT (spec/12 R304; spec/08 R213). -/
def Core.haltFault (k : Core) (opAddr : Nat) : Option CFault :=
  match k.unmarked with
  | some m => some (m.fault opAddr)
  | none => (List.range 64).findSome? fun n => if (k.cnt n).isOpen then k.closeFault opAddr (n, 0) else none

/-- Has step 3 of HALT reached its limit of 2 s, by the time base from the stamp of HALT's issue cycle on (R227)? -/
def State.haltOver (s : State) (h : Nat × Nat) : Bool := decide (h.1 + 2000000000 ≤ s.coreNow)

/-- Is a halting core drained (R226 step 3)? -/
def State.drained (s : State) (c : Nat) : Bool :=
  (s.core c).opsRetired s.cyc && (s.heldTags c).isEmpty && ((s.core c).complete s.cyc).isNone

/-- HALT closes each open epoch with VALUE = CEIL and MARK clear, whatever the others hold (spec/12 R304). -/
def Core.closeFull (k : Core) (opAddr : Nat) : Core :=
  (List.range 64).foldl (fun k n => if (k.cnt n).isOpen && (k.closeFault opAddr (n, 0)).isNone then k.closeEpoch n else k) k

/-- A halting core that has drained checks its epochs, sends HALT's signals and is halted (R226 steps 3 and 4; spec/12 R304). -/
def State.endHalt (s : State) (c opAddr : Nat) : State :=
  let k := s.core c
  let s := s.modCore c fun k => k.closeFull opAddr
  match k.haltFault opAddr with
  | some f => s.coreFault c f
  | none =>
    let s := s.modCore c fun k =>
      { k with halting := none, haltSigs := [], halted := true, pvalid := 0, dvalid := 0 }
    let s := match s.runOf c with
      | some p => s.modRun p fun r => { r with lastStop := s.ns }
      | none => s
    (State.sendSignals c opAddr none s k.haltSigs).dropPrograms c

/-- The tags of a core are reclaimed: what its transfers still bring is late (R227, R305). -/
def State.reclaim (s : State) (c : Nat) : State :=
  { s with xfers := s.xfers.map fun x =>
      if x.core == c && !x.foreign && x.tag.isSome then { x with late := x.tag, tag := none } else x }

/-- Every entry of an op retires. -/
def Core.retireOps (k : Core) (cyc : Nat) : Core :=
  { k with sieve := k.sieve.map fun e =>
      if decide (e.1 < 64) && e.2.live cyc then (e.1, { e.2 with retire := some (cyc - 1) }) else e }

/-- The module address of a transfer's target: where it reads, its ticket counter (spec/12 R321), or where it writes. -/
def Xfer.target (x : Xfer) : Nat :=
  match x.kind with
  | .load | .gather | .program | .descriptors => x.src
  | .ticketClaim | .ticketRead => 0x90000300000 + 8 * x.aux
  | _ => x.dst

/-- Step 3 of HALT has reached its limit (R227). -/
def State.failHalt (s : State) (c opAddr : Nat) : State :=
  let x := ((s.xfers.filter fun x => x.core == c && !x.foreign && x.tag.isSome).head?).getD {}
  let f : CFault := ⟨0x14, opAddr, 0, toLE 2 (s.heldTags c).length ++ toLE 1 x.queue ++ toLE 2 x.opAddr ++ toLE 6 x.target⟩
  ((s.coreFault c f).reclaim c).modCore c fun k => k.retireOps s.cyc

/-- A halting core drains, or its limit comes (R226, R227). -/
def State.tryHalt (s : State) (c : Nat) : State :=
  match (s.core c).halting with
  | none => s
  | some h => if s.drained c then s.endHalt c h.2 else if s.haltOver h then s.failHalt c h.2 else s

/-- Something arrives for a reclaimed tag: it is discarded and logged (R227). -/
def execLgLateCompletion (c tag : Nat) (s : State) : Out :=
  match s.xfers.find? fun x => x.core == c && !x.foreign && x.late == some tag with
  | none => notNow "LG_LATE_COMPLETION"
  | some x => .next ((s.delXfer x.id).logCore c 0x0009 (toLE 1 tag ++ toLE 1 x.queue ++ toLE 6 x.target))

end Sys2Proof.Machine
end

