-- ==== Sys2Proof/Machine/Stacks.lean ====
section
/-!
DEFINITION. Sys2Proof/Machine/Stacks.lean: the memory stacks (spec/11 R268 to R278): reads and writes with ECC, channel power
states, scrub and refresh.
-/
namespace Sys2Proof.Machine

/-! ## Bytes of memory, line by line -/

/-- The 512-byte lines of a range of bytes: address and length of each part. -/
def lineParts (a n : Nat) : List (Nat × Nat) :=
  let sizes := lineSegs a n
  (sizes.foldl (fun (t : List (Nat × Nat) × Nat) k => (t.1 ++ [(t.2, k)], t.2 + k)) ([], a)).1

/-- The channel of an address in memory. -/
def State.chanAt (s : State) (a : Nat) : Nat := match s.locate a with | .mem _ st ch => chanNo st ch | _ => 0

/-- An entry of the channel of an address, for the partition that owns the memory unit (spec/17 R420). -/
def State.chanEntry (s : State) (a code : Nat) (queued : Bool) (ctx : List Byte) : State :=
  let n := s.chanAt a
  let p := s.ownerOfUnit (unitOf a)
  if queued then s.queueEntry 3 n p code ctx else s.logEntry 3 n p code ctx

/-- LG_CHANNEL_REJECT (R278). -/
def State.reject (s : State) (a : Nat) : State :=
  s.chanEntry a 0x0022 false (toLE 6 a ++ toLE 1 (s.chan (s.chanAt a)).state)

/-- The bytes a reader gets where the code does not see the error of a unit (R272). -/
def wrongBytes (errs : List EccErr) (u : Nat) : List Byte :=
  match errs.find? fun e => e.unit == u with
  | some e => (e.wrong ++ List.replicate 64 0).take 64
  | none => List.replicate 64 0

/-- Symbols in error of an ECC unit: what the DRAM shows, or what it kept (R272, R273). -/
def State.symbols (s : State) (errs : List EccErr) (u : Nat) : Nat :=
  max (((errs.find? fun e => e.unit == u).map EccErr.symbols).getD 0) (Tab.get 0 s.ecc u)

/-- A corrected unit (R273). -/
def State.corrected (s : State) (u : Nat) : State :=
  let s := { s with ecc := Tab.set 0 s.ecc u 0 }
  (s.modChan (s.chanAt (64 * u)) fun c => { c with ce := satAdd 16 c.ce 1 }).chanEntry (64 * u) 0x0020 false (toLE 6 (64 * u))

/-- An uncorrectable unit, found by a read (0), by scrub (1) or by a partial write (2) (R273 to R275). -/
def State.uncorrectable (s : State) (u n how : Nat) : State :=
  let s := { s with ecc := Tab.set 0 s.ecc u n }
  (s.modChan (s.chanAt (64 * u)) fun c => { c with ue := satAdd 16 c.ue 1 }).chanEntry (64 * u) 0x0021 true
    (toLE 6 (64 * u) ++ toLE 1 how)

/-- The ECC units a range of bytes touches. -/
def unitsOf (a n : Nat) : List Nat := if n = 0 then [] else (List.range ((a + n - 1) / 64 - a / 64 + 1)).map (a / 64 + ·)

/-- An access to memory: the bytes read, the ranges that failed (offset, length), and the first error as (kind, cause,
address) (R213, R278, R279). -/
structure Access where
  state : State
  data  : List Byte := []
  fail  : List (Nat × Nat) := []
  err   : Option (Nat × Nat × Nat) := none

/-- The first error stays. -/
def Access.note (x : Access) (e : Nat × Nat × Nat) : Access := { x with err := if x.err.isSome then x.err else some e }

/-- Read the part of an ECC unit that lies in `[lo, hi)` (R272, R273); `a` is the first byte of the whole access. -/
def Access.readUnit (errs : List EccErr) (a lo hi : Nat) (x : Access) (u : Nat) : Access :=
  let l := max lo (64 * u)
  let h := min hi (64 * u + 64)
  let bytes := Memory.read x.state.mem l (h - l)
  let n := x.state.symbols errs u
  if n = 0 then { x with data := x.data ++ bytes }
  else if n = 1 then { x with state := x.state.corrected u, data := x.data ++ bytes }
  else if n ≤ 3 then
    { x with state := x.state.uncorrectable u n 0, data := x.data ++ bytes, fail := x.fail ++ [(l - a, h - l)] }.note
      (1, 0, 64 * u)
  else
    { x with data := x.data ++ (((wrongBytes errs u).drop (l - 64 * u)).take (h - l)) }

/-- Read one part of a line, or have it rejected (R278). -/
def Access.readPart (errs : List EccErr) (a : Nat) (x : Access) (p : Nat × Nat) : Access :=
  match x.state.unreachable p.1 with
  | some cause =>
    let s := if cause = 1 then x.state.reject p.1 else x.state
    { x with state := s, data := x.data ++ List.replicate p.2 0, fail := x.fail ++ [(p.1 - a, p.2)] }.note (2, cause, p.1)
  | none => (unitsOf p.1 p.2).foldl (Access.readUnit errs a p.1 (p.1 + p.2)) x

/-- Read `n` bytes of memory at module address `a`. -/
def State.readMem (s : State) (a n : Nat) (errs : List EccErr) : Access :=
  if n = 0 then ⟨s, [], [], none⟩ else (lineParts a n).foldl (Access.readPart errs a) ⟨s, [], [], none⟩

/-- Write the bytes of one ECC unit (R271, R274): a whole unit heals it, a part of it is read, merged and written back. -/
def Access.writeUnit (errs : List EccErr) (a lo hi : Nat) (bs : List Byte) (x : Access) (u : Nat) : Access :=
  let l := max lo (64 * u)
  let h := min hi (64 * u + 64)
  let part := (bs.drop (l - a)).take (h - l)
  let put (s : State) : State := { s with mem := Memory.write s.mem l part }
  let n := if h - l = 64 then 0 else x.state.symbols errs u
  if h - l = 64 then { x with state := put { x.state with ecc := Tab.set 0 x.state.ecc u 0 } }
  else if n = 0 then { x with state := put x.state }
  else if n = 1 then { x with state := put (x.state.corrected u) }
  else if n ≤ 3 then { x with state := x.state.uncorrectable u n 2, fail := x.fail ++ [(l - a, h - l)] }.note (1, 0, 64 * u)
  else
    { x with state := put { x.state with mem := Memory.write x.state.mem (64 * u) (wrongBytes errs u) } }

/-- Write one part of a line, or have it rejected. -/
def Access.writePart (errs : List EccErr) (a : Nat) (bs : List Byte) (x : Access) (p : Nat × Nat) : Access :=
  match x.state.unreachable p.1 with
  | some cause =>
    let s := if cause = 1 then x.state.reject p.1 else x.state
    { x with state := s, fail := x.fail ++ [(p.1 - a, p.2)] }.note (2, cause, p.1)
  | none => (unitsOf p.1 p.2).foldl (Access.writeUnit errs a p.1 (p.1 + p.2) bs) x

/-- Write bytes to memory at module address `a`. -/
def State.writeMem (s : State) (a : Nat) (bs : List Byte) (errs : List EccErr) : Access :=
  if bs.isEmpty then
    ⟨s, [], [], (s.unreachable a).map fun c => (2, c, a)⟩
  else (lineParts a bs.length).foldl (Access.writePart errs a bs) ⟨s, [], [], none⟩

/-- The mark of a failed access of a transfer (spec/12 R296). -/
def Xfer.mark (x : Xfer) (e : Option (Nat × Nat × Nat)) : Option Mark :=
  e.map fun e => ⟨e.1, e.2.1, e.2.2, x.opAddr, x.core⟩

/-- Does a range of offsets meet one that failed? -/
def failed (fs : List (Nat × Nat)) (off n : Nat) : Bool := fs.any fun f => decide (off < f.1 + f.2) && decide (f.1 < off + n)

/-- The tag byte of a block of transfer data (R269, R270). -/
def tagByte (f : Fmt) (data : List Byte) (t : TagBlk) : Byte :=
  BitVec.ofNat 8 (blockTag f (unpackBytes f ((data.drop t.off).take t.n) (t.n * 8 / f.width)))

/-- Write the tags a transfer carries, except those of a block that failed (R269). -/
def writeTags (f : Fmt) (x : Xfer) (errs : List EccErr) (r : Access) : Access :=
  x.tags.foldl (fun r t =>
    if failed r.fail t.off t.n then r
    else
      let w := r.state.writeMem t.dst [tagByte f x.data t] errs
      { r with state := w.state, err := if r.err.isSome then r.err else w.err }) r

/-- Does the transfer's address end lie in memory, its stage being the one at which a stack serves it? -/
def State.atStack (s : State) (x : Xfer) : Option Bool :=
  if (x.xrank.isSome && !x.foreign) || x.static then none
  else match x.kind with
    | .load | .gather | .program | .descriptors =>
      if x.stage = .launched && s.inMemory x.src then some true else none
    | .store | .scatter =>
      if x.stage = (if x.remote then .accepted else .launched) && s.inMemory x.dst then some false else none
    | _ => none

/-- An access reaches a channel's command queue (R278, R273, R274). -/
def execStackAccess (i : Nat) (errs : List EccErr) (s : State) : Out :=
  match s.xfer i with
  | none => notNow "STACK_ACCESS"
  | some x =>
    match s.atStack x with
    | none => notNow "STACK_ACCESS"
    | some true =>
      let r := s.readMem x.src x.len errs
      .next (r.state.modXfer i fun y => { y with stage := .accepted, data := pickNibble x.nib (clearOdd x.odd r.data), fail := r.fail,
                                                 err := x.mark r.err })
    | some false =>
      let r := s.writeMem x.dst (mergeNibble x.nib (Memory.read s.mem x.dst x.data.length) x.data) errs
      let r := match x.tagFmt with | some f => writeTags f x errs r | none => r
      .next (r.state.modXfer i fun y => { y with stage := .committed, fail := r.fail, err := x.mark r.err })

/-! ## Refresh and scrub (R268, R275) -/

/-- The base die refreshes rows: no byte changes (R268). -/
def execRefresh (_stack _channel : Nat) (s : State) : Out := s.whenOn "REFRESH" (.next s)

/-- The base die refreshes the neighbours of a row: no byte changes (R268). -/
def execDisturbRefresh (_stack _channel _row : Nat) (s : State) : Out := s.whenOn "DISTURB_REFRESH" (.next s)

/-- Is the channel of an address on, hedged or not (R276)? -/
def State.chanOn (s : State) (a : Nat) : Bool :=
  match s.locate a with | .mem _ st ch => (s.chan (chanNo st ch)).state == 0 | _ => false

/-- Patrol scrub reads a unit of a channel that is on (R275). -/
def execPatrolScrub (u : Nat) (errs : List EccErr) (s : State) : Out :=
  if !s.chanOn (64 * u) || !s.mgt.moduleOn then notNow "PATROL_SCRUB"
  else
    let n := s.symbols errs u
    if n = 0 ∨ 3 < n then .next s
    else if n = 1 then .next (s.corrected u)
    else .next (s.uncorrectable u n 1)

/-! ## Channel power (R276, R277) -/

/-- A channel absent in the grade (R276). -/
def State.chanAbsent (s : State) (stack : Nat) : Bool := decide (20 ≤ stack) || (s.fuses.grade = .tx768 && stack % 5 == 4)

/-- A write of REQ_OFF that changes its value (R277). -/
def State.reqOff (s : State) (stack channel : Nat) (off : Bool) : State :=
  s.modChan (chanNo stack channel) fun c =>
    if c.reqOff = off then c
    else { c with reqOff := off,
                  state := if off && c.state == 0 then 1 else if !off && c.state == 2 then 3 else c.state }

/-- REQ_OFF is set to 1 (R277). -/
def execReqOffSet (stack channel : Nat) (s : State) : Out :=
  s.whenOn "REQ_OFF_SET" (.next (if s.chanAbsent stack then s else s.reqOff stack channel true))

/-- REQ_OFF is set to 0 (R277). -/
def execReqOffClear (stack channel : Nat) (s : State) : Out :=
  s.whenOn "REQ_OFF_CLEAR" (.next (if s.chanAbsent stack then s else s.reqOff stack channel false))

/-- The addresses of a channel, as (first, length) of each of its 512-byte lines within one 4 KiB page: the channel of bits
[11:9] in its group (R28). -/
def inChannel (stack channel a : Nat) : Bool :=
  let m := decodeMemory a
  a < 0xF000000000 && m.2.1 == stack && m.2.2 == channel

/-- Every unit of the channel reads zero with valid check symbols (R277). -/
def State.zeroFill (s : State) (stack channel : Nat) : State :=
  { s with mem := s.mem.filter fun x => !inChannel stack channel x.1,
           ecc := s.ecc.filter fun x => !inChannel stack channel (64 * x.1) }

/-- The last accepted access of a CLOSING channel completes (R277). -/
def execChannelClosed (stack channel : Nat) (s : State) : Out :=
  let n := chanNo stack channel
  if (s.chan n).state ≠ 1 then notNow "CHANNEL_CLOSED"
  else .next (s.modChan n fun c => { c with state := if c.reqOff then 2 else 3 })

/-- An OPENING channel has been filled with zeros (R277). -/
def execChannelOpened (stack channel : Nat) (s : State) : Out :=
  let n := chanNo stack channel
  if (s.chan n).state ≠ 3 then notNow "CHANNEL_OPENED"
  else .next ((s.zeroFill stack channel).modChan n fun c => { c with state := if c.reqOff then 1 else 0 })

end Sys2Proof.Machine
end

