-- ==== Sys2Proof/Machine/Transfers.lean ====
section
/-!
DEFINITION. Sys2Proof/Machine/Transfers.lean: the life of a transfer (spec/08 R210 to R218, spec/11 R280 to R295): launch,
headers and window checks, remote reads, tickets, commits and acknowledgements.
-/
namespace Sys2Proof.Machine

/-! ## Launch (spec/11 R284) -/

/-- The oldest waiting transfer of a core. -/
def State.oldest (s : State) (c : Nat) : Option Xfer :=
  s.xfers.find? fun x => x.core == c && !x.foreign && x.stage == .waiting

/-- Do two transfers write bytes in common? -/
def Xfer.meets (x y : Xfer) : Bool := decide (x.dst < y.dst + y.len) && decide (y.dst < x.dst + x.len)

/-- Is the transfer held for an earlier one of its op (spec/08 R213, R218)? -/
def State.heldBack (s : State) (x : Xfer) : Bool :=
  s.xfers.any fun y => y.core == x.core && !y.foreign && y.op == x.op && decide (y.ordinal < x.ordinal)
    && (x.hold || (x.kind == .scatter && x.meets y))

/-- The bucket of a partition on a die: (rate, tokens) (R285). -/
def Part.bucket (p : Part) (d : Nat) : Nat × Nat := Tab.get (0, 0) p.buckets d

/-- May a waiting transfer launch (R284; spec/08 R210)? It has a tag or one is free, and its queue has launched none in this cycle. The
rate that counts is that of the last refill (R286). -/
def State.mayLaunch (s : State) (x : Xfer) : Bool :=
  let k := s.core x.core
  !s.dieHedged (s.dieOf x.core) && decide (x.ready ≤ s.cyc) && (x.tagless || x.tag.isSome || !(s.freeTags x.core).isEmpty) && !s.heldBack x
    && Tab.get 0 k.launched x.queue != s.cyc + 1 && (k.rateNow == 0 || decide (x.counted ≤ k.tokens))
    && decide (x.counted ≤ ((s.part x.part).bucket (s.dieOf x.core)).2)

/-- The mark of an op so far. -/
def State.opMark (s : State) (c op : Nat) : Option Mark :=
  match (s.core c).pend.find? fun o => o.id == op with | some o => o.mark | none => none

/-- The header of a message or a signal message (spec/12 R312). -/
def Xfer.header (x : Xfer) (rank stamp : Nat) : List Byte :=
  let g := x.att.head?
  toLE 2 x.route.tag ++ toLE 2 x.data.length ++ toLE 1 (b2n (x.kind == .signal)) ++ toLE 1 ((g.map Sig.cnt).getD 0) ++ toLE 3 ((g.map Sig.inc).getD 0)
    ++ toLE 1 (b2n x.attMark.isSome) ++ toLE 2 x.core ++ toLE 2 rank ++ toLE 2 x.dstCore ++ toLE 4 stamp ++ toLE 4 x.seq
    ++ toLE 8 0

/-- What the tag plane of a write to another member needs: each tag byte at its partition address there. -/
def Xfer.side (x : Xfer) : Option TagSide :=
  x.tagFmt.map fun f => ⟨f.code, x.tags.map fun t => (t.off, t.n, ((x.pa : Int) + t.dst - x.dst).toNat)⟩

/-- The packet a transfer to another member travels as (spec/16 R398, R404; DEDUCED, n11). -/
def State.packetOf (s : State) (x : Xfer) (rank : Nat) : Packet :=
  let me := s.rankOf x.part
  let toCore := x.kind == .message || x.kind == .stockRow || x.kind == .signal
  let dstCore := if toCore then x.dstCore else x.attCores.headD 0x1FF
  { ptype := match x.kind with | .message => 1 | .signal => 2 | .stockRow => 3 | _ => 0,
    flags := b2n x.attMark.isSome + 2 * b2n (!x.att.isEmpty && x.kind != .signal), dstRank := rank, srcRank := me, dstCore := dstCore,
    srcCore := x.core, ref := x.tag.getD 0 + 256 * x.queue,
    body :=
      if x.kind = .message ∨ x.kind = .signal then x.header me x.launch ++ x.data
      else
        toLE 1 x.win ++ toLE 2 x.epoch ++ toLE 4 x.launch ++ toLE 6 (if x.kind = .stockRow then 2048 * x.place else x.pa)
          ++ (match x.att with | [] => [] | g :: _ => toLE 1 g.cnt ++ toLE 3 g.inc) ++ x.data,
    side := x.side }

/-- A launched signal message of the memory plane, on its way within the module. -/
def Xfer.signal (x : Xfer) (id rank cyc : Nat) (g : Sig) : SigMsg :=
  { id := id, srcCore := x.core, srcRank := rank, opAddr := x.opAddr, tag := x.route.tag, static := false, dstCore := x.dstCore,
    cnt := g.cnt, inc := g.inc, mark := x.attMark, ready := cyc, seq := x.seq, stamp := x.launch, attached := false, xid := x.id }

/-- Bytes are paid for from the bucket of a partition on a core's die (R284). -/
def State.payBucket (s : State) (c p n : Nat) : State :=
  let d := s.dieOf c
  s.modPart p fun x => { x with buckets := Tab.set (0, 0) x.buckets d ((x.bucket d).1, (x.bucket d).2 - n) }

/-- A transfer launches: it holds a tag from now on, pays its tokens, and goes its way (R284; spec/08 R210). -/
def State.launch (s : State) (x : Xfer) : State :=
  let c := x.core
  let x := { x with stage := .launched, launch := s.coreStamp, tag := if x.tagless then none else some (x.tag.getD ((s.freeTags c).headD 0)),
                    attMark := if x.kind = .signal then x.attMark else if x.att.isEmpty then none else s.opMark c x.op }
  let s := s.modCore c fun k => { k with tokens := if k.rateNow = 0 then k.tokens else k.tokens - x.counted,
                                         launched := Tab.set 0 k.launched x.queue (s.cyc + 1) }
  let s := (s.payBucket c x.part x.counted).modXfer x.id fun _ => x
  match x.xrank with
  | some r => s.sendOn x.part (s.packetOf x r)
  | none =>
    if x.kind = .signal then
      let (id, s) := s.takeId
      { s with sigs := s.sigs ++ x.att.map (x.signal id (s.rankOf x.part) s.cyc) }
    else s

/-- A queue launches the core's oldest waiting transfer (R284). One that may not launch stays where it is. -/
def execTransferLaunch (c : Nat) (s : State) : Out :=
  match s.oldest c with
  | none => notNow "TRANSFER_LAUNCH"
  | some x => if s.mayLaunch x then .next (s.launch x) else .next s

/-! ## Windows (R289 to R293) -/

/-- A window of a partition. -/
def State.window (s : State) (p w : Nat) : Window := Tab.get {} (s.part p).windows w

/-- Change a window. -/
def State.modWindow (s : State) (p w : Nat) (f : Window → Window) : State :=
  s.modPart p fun x => { x with windows := Tab.modify {} x.windows w f }

/-- Does the copy of a window that a die keeps show it open (R289, R294)? -/
def Window.shows (w : Window) (die ns : Nat) : Bool := w.isOpen || decide (ns < Tab.get 0 w.copies die)

/-- window_check of R292 without its range test, where the local copy shows `shown`: 0 accepts; 1 closed, 2 stale, 3 age. -/
def Window.fresh (w : Window) (shown : Bool) (epoch launch now : Nat) : Nat :=
  if !shown then 1 else if epoch ≠ w.epoch then 2
  else if 1000000 < (now % 2 ^ 32 + 2 ^ 32 - launch % 2 ^ 32) % 2 ^ 32 then 3 else 0

/-- The range test of R292. -/
def Window.covers (w : Window) (a n : Nat) : Bool := decide (w.base ≤ a) && decide (a + n ≤ w.base + (w.len + 1) * 512)

/-- window_check of R292 over the data and tag bytes of a write. -/
def State.windowCheck (s : State) (x : Xfer) : Nat :=
  let w := s.window x.part x.win
  let f := w.fresh (w.shows (s.dieAt x.dst) s.ns) x.epoch x.launch s.now
  if f ≠ 0 then f
  else if w.covers x.dst x.data.length && x.tags.all fun t => w.covers t.dst 1 then 0 else 4

/-- The rank of the member a transfer comes from. -/
def State.rankFrom (s : State) (x : Xfer) : Nat := if x.foreign then x.xrank.getD 0 else s.rankOf x.part

/-- Count and log a refusal by a window (R293, spec/17 R420); `domain` and `index` name who refused. -/
def State.windowRefused (s : State) (x : Xfer) (domain index reason : Nat) : State :=
  let now := s.stamp32
  (s.modWindow x.part x.win fun w => { w with refusals := satAdd 32 w.refusals 1, refStamp := now }).logEntry domain index
    (some x.part) 0x0006 (toLE 1 x.win ++ toLE 2 x.epoch ++ toLE 2 x.core ++ toLE 2 (s.rankFrom x) ++ toLE 1 255 ++ toLE 4 0
      ++ toLE 1 reason)

/-- The transfer is refused. -/
def State.refuseXfer (s : State) (i reason : Nat) (asSend : Bool) : State :=
  s.modXfer i fun x => { x with stage := .refused, reason := reason, asSend := asSend }

/-- The transfer is discarded by a fault at its target (spec/03 R87). -/
def State.discardXfer (s : State) (i : Nat) : State := s.modXfer i fun x => { x with stage := .discarded }

/-- Is a transfer on its way to a place of this module, over the memory plane? -/
def Xfer.arriving (x : Xfer) : Bool := x.stage == .launched && (x.foreign || x.xrank.isNone) && !x.static

/-- LG_SEND_REFUSED at the receiving core (spec/12 R318, spec/17 R420). -/
def State.logRefusal (s : State) (c srcCore srcRank tag reason : Nat) : State :=
  s.logCore c 0x0005 (toLE 2 srcCore ++ toLE 2 srcRank ++ toLE 2 tag ++ toLE 1 reason)

/-- A core refuses a message or a static-plane write at its header: it is dropped whole (spec/12 R318, spec/08 R220). -/
def State.refuseAt (s : State) (c : Nat) (x : Xfer) (reason : Nat) : State :=
  (s.logRefusal c x.core (s.rankFrom x) x.route.tag reason).refuseXfer x.id reason true

/-- A static-plane message did not come to its core: the core whose router it left by refuses it, or a router has discarded it (spec/01
R23, spec/03 R478). -/
def State.refuseLost (s : State) (x : Xfer) : State :=
  match x.lostAt with
  | some c => s.refuseAt c x 6
  | none => s.refuseXfer x.id 6 true

/-- A remote write into memory reaches the edge adapter (R292). -/
def execMemoryWindowWrite (i : Nat) (s : State) : Out :=
  match s.xfer i with
  | none => notNow "MEMORY_WINDOW_WRITE"
  | some x =>
    if !x.arriving || !x.remote || !(x.kind == .store || x.kind == .scatter) || !s.inMemory x.dst then
      notNow "MEMORY_WINDOW_WRITE"
    else
      let r := s.windowCheck x
      if r = 0 then .next (s.modXfer i fun y => { y with stage := .accepted })
      else .next ((s.windowRefused x 2 (s.dieAt x.dst) r).refuseXfer i r false)

/-! ## Remote writes into a scratchpad (R288; spec/07 R198) -/

/-- The op address in the record of a fault that something inbound raises. -/
def inboundOp (s : State) : Nat := (Config.inboundOpAddr s.fresh).toNat

/-- The range a header announces. -/
def State.inboundRange (s : State) (x : Xfer) : Range :=
  let kind := if x.static then 4 else 3
  if x.kind = .stockRow then ⟨2048 * x.place, 2048, 1, kind, none⟩
  else
    match s.locate x.dst with
    | .scratch _ f => ⟨f, x.data.length, 0, kind, none⟩
    | _ => ⟨0, x.data.length, 0, kind, none⟩

/-- An inbound header at a core: the tracker check and an entry of the inbound pool, or the core faults (spec/03 R87, R91). -/
def State.header (s : State) (c owner win : Nat) (r : Range) : Except CFault State :=
  let k := s.core c
  match k.checkRanges [r] s.cyc (inboundOp s) with
  | some f => .error f
  | none =>
    match k.freeEntries true s.cyc with
    | [] => .error (trackerFull (inboundOp s) 1 1 0)
    | free => .ok (s.setCore c (k.register [r] free 0 0 win s.stamp32 owner))

/-- A fault at the target of a transfer, which is discarded; the model's counter of free values advances. -/
def State.targetFault (s : State) (c i : Nat) (f : CFault) : State :=
  let s := { s with fresh := s.fresh + 1 }
  (s.coreFault c f).discardXfer i

/-- The attached increments of a write or message that has committed in cycle `cyc` are applied in the next one (spec/03 R88, spec/06
R154, spec/12 R297); `word` names their source. -/
def State.applyAttached (s : State) (c word cyc : Nat) (x : Xfer) : State :=
  let mark := if x.err.isSome then x.err else x.attMark
  s.modCore c fun k => x.att.foldl (fun k g => k.await (cyc + 1) (.inc x.static g.cnt g.inc mark ⟨x.core, s.rankFrom x, word⟩)) k

/-- The beats of a static-plane message whose header has arrived reach WP1 in their cycles (spec/01 R22, spec/03 R81): `off` is the
scratchpad offset its bytes from byte `skip` on go to, the 32 of its header counted. -/
def State.noteBeats (s : State) (c off skip : Nat) (x : Xfer) : State :=
  if !x.static then s
  else
    let n := 32 + x.data.length
    s.modCore c fun k => { k with wp1 := k.wp1 ++ (List.range (beatsOf x.data.length)).flatMap fun b =>
      let lo := max skip (256 * b)
      (banksOf (off + lo - skip) (min n (256 * b + 256) - lo)).map fun y => (x.ready + b, y) }

/-- Why a core's window refuses a write: 0 accepts (R288, R292; spec/07 R198). -/
def State.scratchWindow (s : State) (c : Nat) (x : Xfer) : Nat :=
  if s.coreShut c then 1
  else if x.kind = .stockRow then
    let w := s.window x.part x.win
    let f := w.fresh (w.shows (s.dieOf c) s.ns) x.epoch x.launch s.now
    if f ≠ 0 then f else if w.kind = 1 ∧ w.core = c then 0 else 4
  else s.windowCheck x

/-- The row of a STOCK_SEND must be open (spec/07 R198). -/
def State.rowReady (s : State) (c : Nat) (x : Xfer) : Option CFault :=
  let k := s.core c
  if x.kind ≠ .stockRow || (k.row x.place).isOpen then none
  else some (potState k (inboundOp s) x.place (Config.neededOfRead (inboundOp s) 0).toNat
    (Config.neededOfRead (inboundOp s) 1).toNat)

/-! ## The end of a transfer -/

/-- Does a transfer write into a range of its core's scratchpad? -/
def Xfer.fills (x : Xfer) (e : Entry) : Bool :=
  (decide (x.dst < e.base + e.len) && decide (e.base < x.dst + x.len))
    || x.tags.any fun t => decide (e.base ≤ t.dst) && decide (t.dst < e.base + e.len)

/-- Retire the DMA inbound entries of an op that no transfer of it has still to fill (R88, spec/08 R214). -/
def State.retireInbound (s : State) (c op : Nat) : State :=
  let open_ := s.xfers.filter fun x => x.core == c && x.op == op && !x.foreign
    && (x.stage == .waiting || x.stage == .launched || x.stage == .accepted)
  s.modCore c fun k => k.retireOwner op s.cyc fun e => e.kind == 2 && !(open_.any fun x => x.fills e)

/-- One transfer of an op has come to its end: its error goes to the op's mark, and the op completes with the last (spec/08
R213, spec/06 R153). -/
def State.opDone (s : State) (x : Xfer) (atCycle : Nat) (quiet : Bool) : State :=
  if x.len = 0 then s
  else s.modCore x.core fun k =>
    { k with pend := k.pend.map fun o =>
        if o.id == x.op then
          { o with left := o.left - 1, mark := if o.mark.isSome then o.mark else x.err,
                   completeAt := if o.left = 1 then some atCycle else o.completeAt,
                   sigs := if quiet then [] else o.sigs }
        else o }

/-- The last beat of a static-plane transfer (spec/01 R22). -/
def Xfer.lastBeat (x : Xfer) : Nat := x.ready + beatsOf x.data.length - 1

/-- A message has been accepted: its sender counts it (spec/12 R318). -/
def State.countSent (s : State) (x : Xfer) : State :=
  if x.kind = .message ∨ x.kind = .signal then s.modCore x.core fun k => { k with sent := satAdd 32 k.sent 1 } else s

/-- A static-plane transfer ends as it commits (spec/08 R219). -/
def State.staticDone (s : State) (x : Xfer) : State :=
  if x.static then ((s.countSent x).opDone x (s.cyc + 1) false).delXfer x.id
  else s.modXfer x.id fun y => { y with stage := .committed }

/-! ## Headers of remote writes -/

/-- A remote write's header at the owning core (R288): the window, the state of a stockpot row, the tracker. -/
def State.writeHeader (s : State) (x : Xfer) : State :=
  let c := x.dstCore
  let r := s.scratchWindow c x
  if x.lost then s.refuseLost x
  else if x.static && (s.core c).micro.on then s.refuseAt c x 5
  else if r ≠ 0 then (s.windowRefused x 0 c r).refuseXfer x.id r false
  else if x.data.isEmpty then (s.applyAttached c x.opAddr s.cyc x).staticDone x
  else match s.rowReady c x with
    | some f => s.targetFault c x.id f
    | none =>
      match s.header c x.id (s.window x.part x.win).slot (s.inboundRange x) with
      | .error f => s.targetFault c x.id f
      | .ok s =>
        let off := match s.locate x.dst with | .scratch _ f => f | _ => 0
        (s.noteBeats c off 32 x).modXfer x.id fun y => { y with stage := .accepted }

/-! ## Remote reads and tickets -/

/-- A remote read reaches a scratchpad's remote read port (R287). -/
def execRemoteRead (i : Nat) (s : State) : Out :=
  match s.xfer i with
  | none => notNow "REMOTE_READ"
  | some x =>
    match s.locate x.src with
    | .scratch c f =>
      if x.stage ≠ .launched ∨ ¬(x.kind = .load ∨ x.kind = .gather) then notNow "REMOTE_READ"
      else if s.coreShut c then
        .next (s.modXfer i fun y => { y with stage := .accepted, data := List.replicate x.len 0, fail := [(0, x.len)],
                                             err := x.mark (some (2, 4, x.src)) })
      else .next (s.modXfer i fun y =>
        { y with stage := .accepted, data := pickNibble x.nib (clearOdd x.odd (Memory.read (s.core c).scratch f x.len)) })
    | _ => notNow "REMOTE_READ"

/-- A ticket counter of the hub (spec/12 R321). -/
def State.ticket (s : State) (i : Nat) : Nat := Tab.get 0 s.tickets i

/-- A ticket request reaches the hub (spec/08 R221, spec/12 R322). -/
def execTicketRequest (i : Nat) (s : State) : Out :=
  match s.xfer i with
  | none => notNow "TICKET_REQUEST"
  | some x =>
    if x.stage ≠ .launched then notNow "TICKET_REQUEST"
    else
      let v := s.ticket x.aux
      match x.kind with
      | .ticketRead => .next (s.modXfer i fun y => { y with stage := .accepted, data := toLE 8 v })
      | .ticketClaim =>
        let s := { s with tickets := Tab.set 0 s.tickets x.aux ((v + x.place) % 2 ^ 64) }
        let s := s.logEntry 7 2 (some x.part) 0x0007 (toLE 1 x.aux ++ toLE 8 v ++ toLE 2 x.core ++ toLE 2 x.place)
        .next (s.modXfer i fun y => { y with stage := .accepted, data := toLE 8 v })
      | _ => notNow "TICKET_REQUEST"

/-! ## Commits (spec/03 R88) -/

/-- Write bytes but for the ranges that failed (spec/08 R213). -/
def writeExcept (m : Memory) (a : Nat) (fail : List (Nat × Nat)) (bs : List Byte) : Memory :=
  (bs.zip (List.range bs.length)).foldl (fun m x => if failed fail x.2 1 then m else Memory.set m (a + x.2) x.1) m

/-- Data of a LOAD, GATHER or TICKET commits in its own scratchpad, unless the core is hedged (spec/01 R41). -/
def State.commitInbound (s : State) (x : Xfer) : State :=
  let s := if s.coreHedged x.core then s else s.modCore x.core fun k =>
    let old := if x.nibEnd then List.replicate x.data.length 0 else Memory.read k.scratch x.dst x.data.length
    let m := writeExcept k.scratch x.dst x.fail (mergeNibble x.nib old x.data)
    let m := match x.tagFmt with
      | some f => x.tags.foldl (fun m t => if failed x.fail t.off t.n then m else Memory.set m t.dst (tagByte f x.data t)) m
      | none => m
    { k with scratch := m }
  (s.modXfer x.id fun y => { y with stage := .committed }).retireInbound x.core x.op

/-- A remote write commits in its owner's scratchpad, its entry retires and its increment is applied (R88). -/
def State.commitRemote (s : State) (x : Xfer) : State :=
  let c := x.dstCore
  let off := match s.locate x.dst with | .scratch _ f => f | _ => 0
  let s := s.modCore c fun k =>
    let bs := mergeNibble x.nib (Memory.read k.scratch off x.data.length) x.data
    ({ k with scratch := Memory.write k.scratch off bs } : Core).retireOwner x.id s.cyc fun _ => true
  (s.applyAttached c x.opAddr s.cyc x).staticDone x

/-- A port's messages at its head that are committed join its bytes (spec/12 R313). -/
def PortFifo.settle (q : PortFifo) : List (Nat × List Byte × Bool) → PortFifo
  | [] => { q with queue := [] }
  | (_, d, true) :: r => PortFifo.settle { q with bytes := q.bytes ++ d, msgs := q.msgs ++ [d.length] } r
  | (i, d, false) :: r => { q with queue := (i, d, false) :: r }

/-- A message's payload commits in its port FIFO (spec/12 R313). -/
def State.commitPort (s : State) (x : Xfer) : State :=
  let s := s.modCore x.dstCore fun k =>
    let q := k.port x.route.index
    let q := q.settle (q.queue.map fun e => if e.1 == x.id then (e.1, e.2.1, true) else e)
    { k with ports := Tab.set {} k.ports x.route.index q }
  (s.applyAttached x.dstCore x.route.tag s.cyc x).staticDone x

/-- The record a message leaves in a ring: its header and its payload, padded to 32 bytes (spec/12 R312, R315). -/
def Xfer.record (x : Xfer) (rank : Nat) : List Byte :=
  x.header rank x.launch ++ x.data ++ List.replicate (32 * ceilDiv x.data.length 32 - x.data.length) 0

/-- A message commits in its ring, and the status word is written (spec/12 R315, R317). -/
def State.commitRing (s : State) (x : Xfer) : State :=
  let c := x.dstCore
  let rec_ := x.record (s.rankFrom x)
  let s := s.modCore c fun k =>
    let r := k.ring x.route.index
    let k := { k with scratch := Memory.write k.scratch (r.base + x.place) rec_ }
    (k.putRing x.route.index { r with written := r.written + rec_.length } s.coreNow).retireOwner x.id s.cyc fun _ => true
  (s.applyAttached c x.route.tag s.cyc x).staticDone x

/-- What a core that has been hedged had accepted and not yet committed is discarded, and its sender hears of it (spec/01 R41). -/
def State.refuseLate (s : State) (x : Xfer) : State :=
  let c := x.dstCore
  let s := s.modCore c fun k => k.retireOwner x.id s.cyc fun _ => true
  if x.kind = .message then s.refuseAt c x 5 else (s.windowRefused x 0 c 1).refuseXfer x.id 1 false

/-- A remote write or a message that has been accepted commits (R88). -/
def State.commitAt (s : State) (x : Xfer) : State :=
  if s.coreHedged x.dstCore then s.refuseLate x
  else if x.kind ≠ .message then s.commitRemote x
  else if x.route.kind = 1 then s.commitPort x
  else s.commitRing x

/-- Inbound data of the memory plane commits through WP1 (R88). What a core has accepted before micro mode waits until it leaves it
(spec/09 R228; DESIGN CHOICE, n9). -/
def State.inboundCommit (s : State) (x : Xfer) : Out :=
  match x.kind with
  | .load | .gather | .ticketClaim | .ticketRead =>
    if x.late.isSome then notNow "INBOUND_COMMIT" else .next (s.commitInbound x)
  | .store | .scatter | .message =>
    if x.kind != .message && (s.scratchAt x.dst).isNone then notNow "INBOUND_COMMIT"
    else if (s.core x.dstCore).micro.on then notNow "INBOUND_COMMIT" else .next (s.commitAt x)
  | _ => notNow "INBOUND_COMMIT"

/-- The last byte of a STOCK_SEND row arrives (spec/07 R198). In the next cycle, or once the row before it is added, its anchors are
compared; its words are added in the five cycles that follow, at whose end its entry retires. -/
def execStockWordRowArrival (i : Nat) (s : State) : Out :=
  match s.xfer i with
  | none => notNow "STOCK_WORD_ROW_ARRIVAL"
  | some x =>
    let c := x.dstCore
    if x.stage ≠ .accepted ∨ x.kind ≠ .stockRow ∨ (s.core c).micro.on then notNow "STOCK_WORD_ROW_ARRIVAL"
    else if s.coreHedged c then .next (s.refuseLate x)
    else
      let k := s.core c
      let t := max s.cyc k.potBusy + 1
      let op := inboundOp s
      match k.addRow op x.place (wordsOf x.data) with
      | .error f =>
        let k := (k.retireOwner x.id t fun _ => true).await t (.fault f)
        .next (({ s with fresh := s.fresh + 1 }.setCore c { k with potBusy := t }).discardXfer i)
      | .ok k =>
        let k := { k.retireOwner x.id (t + 5) (fun _ => true) with potBusy := t + 5 }
        .next (((s.setCore c k).applyAttached c x.opAddr (t + 5) x).modXfer i fun y => { y with stage := .committed })

/-- The increment of a remote write into memory goes on as a signal message, each to the core of its route (spec/06 R152, R154). -/
def execAttachedIncrementForward (i : Nat) (s : State) : Out :=
  match s.xfer i with
  | none => notNow "ATTACHED_INCREMENT_FORWARD"
  | some x =>
    if !(x.stage == .committed || x.stage == .acked) || x.att.isEmpty || !x.remote || !s.inMemory x.dst then
      notNow "ATTACHED_INCREMENT_FORWARD"
    else
      let s := (x.att.zip x.attCores).foldl (fun (s : State) g =>
        let (n, s) := s.takeId
        { s with sigs := s.sigs ++ [{ id := n, srcCore := x.core, srcRank := s.rankFrom x, opAddr := x.opAddr, tag := g.1.route,
                                      static := false, dstCore := g.2, cnt := g.1.cnt, inc := g.1.inc,
                                      mark := if x.err.isSome then x.err else x.attMark, ready := s.cyc, seq := 0,
                                      stamp := s.stamp32, attached := true, foreign := x.foreign, ref := 0xFFFFFFFF }] }) s
      if x.stage = .acked then .next (s.delXfer i) else .next (s.modXfer i fun y => { y with att := [], attCores := [] })

/-! ## Acknowledgements (spec/08 R210, R213) -/

/-- A block of a LOADPROG completes: it is written, and valid unless a later LOADPROG names it or its data failed (spec/08
R222, spec/06 R167). -/
def Core.putBlock (k : Core) (x : Xfer) : Core :=
  let b := x.dst / 4096
  if x.kind = .program then
    if Tab.get 0 k.powner b ≠ x.op ∨ x.err.isSome then k
    else { k with pstore := Memory.write k.pstore x.dst x.data, pvalid := k.pvalid ||| 2 ^ b }
  else
    if Tab.get 0 k.downer b ≠ x.op ∨ x.err.isSome then k
    else { k with dtable := Memory.write k.dtable x.dst x.data, dvalid := k.dvalid ||| 2 ^ b }

/-- A packet that answers core `core` of another member: 4 acknowledges, 5 refuses (spec/16 R398, R408). -/
def State.reply (s : State) (p ptype rank core from_ ref : Nat) (err : Bool) (body : List Byte) : State :=
  let k : Packet := { ptype := ptype, flags := b2n err, dstRank := rank, srcRank := s.rankOf p, dstCore := core, srcCore := from_,
                      ref := ref, body := body }
  s.sendOn p k

/-- The answer to a member of the cascade whose packet made a transfer here. -/
def State.answer (s : State) (x : Xfer) (ptype : Nat) (body : List Byte) : State :=
  (s.delXfer x.id).reply x.part ptype (x.xrank.getD 0) x.core x.dstCore x.aux x.err.isSome body

/-- A transfer error that arrives in step 3 of HALT (R226): the core faults. -/
def State.errorInHalt (s : State) (c : Nat) (e : Option Mark) : State :=
  match (s.core c).halting, e with
  | some h, some m => s.coreFault c (m.fault h.2)
  | _, _ => s

/-- A transfer's acknowledgement returns: its tag is free, and its op completes with the last (R210, R213). -/
def execTransferAcknowledgement (i : Nat) (s : State) : Out :=
  match s.xfer i with
  | none => notNow "TRANSFER_ACKNOWLEDGEMENT"
  | some x =>
    let prog := x.kind == .program || x.kind == .descriptors
    let ready := x.stage == .committed || (prog && (x.stage == .accepted || x.stage == .discarded))
    let before := prog && s.xfers.any fun y => y.core == x.core && y.op == x.op && decide (y.ordinal < x.ordinal)
    if !ready || before || x.late.isSome then notNow "TRANSFER_ACKNOWLEDGEMENT"
    else if x.foreign then .next (s.answer x 4 [])
    else
      let s := if prog && x.stage == .accepted then s.modCore x.core fun k => k.putBlock x else s
      let s := (s.countSent x).opDone x (s.cyc + 1) false
      let keep := !x.att.isEmpty && x.remote && s.inMemory x.dst
      let s := if keep then s.modXfer i fun y => { y with stage := .acked, tag := none } else s.delXfer i
      .next ((s.giveTag x.core).errorInHalt x.core x.err)

/-- A negative acknowledgement reaches the sender (R213, R220; spec/03 R87; spec/12 R318). -/
def execNegativeAcknowledgement (i : Nat) (s : State) : Out :=
  match s.xfer i with
  | none => notNow "NEGATIVE_ACKNOWLEDGEMENT"
  | some x =>
    let prog := x.kind == .program || x.kind == .descriptors
    if !(x.stage == .refused || (x.stage == .discarded && !prog)) || x.late.isSome then notNow "NEGATIVE_ACKNOWLEDGEMENT"
    else if x.foreign then .next (s.answer x 5 (toLE 1 x.reason ++ toLE 1 (b2n x.asSend) ++ toLE 2 x.route.tag))
    else
      let c := x.core
      let s := ((s.opDone x (s.cyc + 1) true).delXfer i).giveTag c
      if x.stage = .discarded then .next s
      else if x.asSend then
        .next ((s.noteRefused c x.route.tag x.opAddr x.reason).coreFault c
          (sendRefused x.opAddr x.route.tag x.reason x.dstCore (x.xrank.getD 0)))
      else .next (s.coreFault c (windowClosed x.opAddr x.win x.epoch x.reason))

/-- The die and the place on it of a router. -/
def placeOfRouter (r : Nat) : Nat × Nat := (r / 72, r % 72)

end Sys2Proof.Machine
end

