-- ==== Sys2Proof/Machine/Messages.lean ====
section
/-!
DEFINITION. Sys2Proof/Machine/Messages.lean: the arrival of messages at port FIFOs and rings, and of signal messages
(spec/12 R297, R312 to R319).
-/
namespace Sys2Proof.Machine

/-- Does the destination core take no message at all (R318 reason 5)? -/
def State.deaf (s : State) (c : Nat) : Bool := s.coreShut c || (s.runOf c).isNone

/-- The payload of a message for a port, padded to a multiple of 32 bytes (R313). -/
def padded (bs : List Byte) : List Byte := bs ++ List.replicate (32 * ceilDiv bs.length 32 - bs.length) 0

/-- Free bytes of a port FIFO (R313). -/
def PortFifo.free (q : PortFifo) : Nat := 16384 - q.bytes.length - (q.queue.foldl (fun t e => t + e.2.1.length) 0)

/-- The header of a data message at the core whose port FIFO it is for (R313). -/
def State.portHeader (s : State) (x : Xfer) : State :=
  let c := x.dstCore
  let k := s.core c
  let q := k.port x.route.index
  let d := padded x.data
  if q.free < d.length then s.refuseAt c x 2
  else
    let k := { k with ports := Tab.set {} k.ports x.route.index { q with queue := q.queue ++ [(x.id, d, false)] } }
    (s.setCore c k).modXfer x.id fun y => { y with stage := .accepted }

/-- place of R315: where a record of `n` bytes goes, and the pad record before it, if any; or the reason of the refusal. -/
def Ring.place (r : Ring) (n : Nat) : Except Nat (Nat × Nat) :=
  let z := r.z
  if !r.v || decide (z < n) then .error 4
  else if z - r.used < n then .error 3
  else
    let before := z - r.tail
    if r.head ≤ r.tail ∧ r.used ≠ z then
      if n ≤ before then .ok (r.tail, 0)
      else if n ≤ r.head then .ok (0, before)
      else .error 3
    else .ok (r.tail, 0)

/-- The header of a pad record (R312). -/
def padRecord (len : Nat) : List Byte := toLE 2 0 ++ toLE 2 (len - 32) ++ toLE 1 2 ++ List.replicate 27 0

/-- The header of a data message at the core whose ring it is for (R315). -/
def State.ringHeader (s : State) (x : Xfer) : State :=
  let c := x.dstCore
  let j := x.route.index
  let k := s.core c
  let r := k.ring j
  let n := 32 + 32 * ceilDiv x.data.length 32
  match r.place n with
  | .error e => (s.setCore c { k with rings := Tab.set {} k.rings j { r with refused := r.refused + 1 } }).refuseAt c x e
  | .ok p =>
    match s.header c x.id 0 ⟨r.base + p.1, n, 0, if x.static then 4 else 3, none⟩ with
    | .error f => s.targetFault c x.id f
    | .ok s =>
      let k := s.core c
      let m := if p.2 = 0 then k.scratch else Memory.write k.scratch (r.base + r.tail) (padRecord p.2)
      let r := { r with tail := (p.1 + n) % r.z, used := r.used + p.2 + n, written := r.written + p.2,
                        recs := r.recs ++ (if p.2 = 0 then [] else [p.2]) ++ [n] }
      let k := { k with scratch := m, rings := Tab.set {} k.rings j r }
      ((s.setCore c k).noteBeats c (r.base + p.1) 0 x).modXfer x.id fun y => { y with stage := .accepted, place := p.1 }

/-- The header of a data message at its core (R318). -/
def State.messageHeader (s : State) (x : Xfer) : State :=
  if x.lost then s.refuseLost x
  else if s.deaf x.dstCore then s.refuseAt x.dstCore x 5
  else if x.route.kind = 1 then s.portHeader x
  else s.ringHeader x

/-! ## Signal messages (R297, R306, R318) -/

/-- A signal message is refused, which its sender hears of (R318): on another member by a packet (DEDUCED, n11). -/
def State.refuseSignal (s : State) (g : SigMsg) (reason : Nat) : State :=
  if g.foreign then
    s.reply (s.partNo g.dstCore) 5 g.srcRank g.srcCore g.dstCore g.ref false (toLE 1 reason ++ toLE 1 2 ++ toLE 2 g.tag)
  else if g.xid ≠ 0 then s.refuseXfer g.xid reason true
  else
    let x : Xfer := { id := g.id, core := g.srcCore, part := s.partNo g.srcCore, opAddr := g.opAddr, kind := .signal, static := true,
                      stage := .refused, reason := reason, asSend := true, route := { tag := g.tag }, dstCore := g.dstCore }
    { s with xfers := s.xfers ++ [x] }

/-- A signal message is accepted, for which its sender counts it. The increments that an edge adapter has sent on are none of the sender's
messages. -/
def State.acceptSignal (s : State) (g : SigMsg) : State :=
  if g.attached then s
  else if g.foreign then s.reply (s.partNo g.dstCore) 4 g.srcRank g.srcCore g.dstCore g.ref false (toLE 1 2)
  else if g.xid ≠ 0 then s.modXfer g.xid fun x => { x with stage := .committed }
  else s.modCore g.srcCore fun k => { k with sent := satAdd 32 k.sent 1 }

/-- A signal message is discarded at a core that takes none, or where it should not have come to. -/
def State.dropSignal (s : State) (c : Nat) (g : SigMsg) (reason : Nat) : State :=
  (s.logRefusal c g.srcCore g.srcRank g.tag reason).refuseSignal g reason

/-- The header of a signal message arrives: the increment is applied in the next cycle (R297), or is stray (R306). -/
def State.signalHeader (s : State) (g : SigMsg) : State :=
  let c := g.dstCore
  let src : IncSrc := ⟨g.srcCore, g.srcRank, g.tag⟩
  if g.lost then
    match g.lostAt with
    | some d => s.dropSignal d g 6
    | none => s.refuseSignal g 6
  else if s.coreShut c then s.dropSignal c g 5
  else if (s.runOf c).isNone then (s.increment c g.cnt g.inc g.mark src).dropSignal c g 5
  else (s.modCore c fun k => k.await (s.cyc + 1) (.inc g.static g.cnt g.inc g.mark src)).acceptSignal g

/-- A signal message is no longer on its way. -/
def State.dropSig (s : State) (i : Nat) : State := { s with sigs := s.sigs.filter fun h => h.id != i }

/-! ## The order on a route (R319) -/

/-- The place of a signal message in the order of what its core has sent. -/
def SigMsg.order (g : SigMsg) : Nat := if g.xid = 0 then g.id else g.xid

/-- Has a message or signal message of the memory plane none before it on its route that is still on its way? -/
def State.inOrder (s : State) (core tag id : Nat) (foreign : Bool) (rank : Nat) : Bool :=
  !(s.xfers.any fun y => (y.kind == .message || y.kind == .signal) && !y.static && y.core == core && y.route.tag == tag
      && y.foreign == foreign && (!foreign || y.xrank == some rank) && decide (y.id < id)
      && (y.stage == .waiting || y.stage == .launched))
    && !(s.sigs.any fun g => !g.static && !g.attached && g.srcCore == core && g.tag == tag && g.foreign == foreign
      && (!foreign || g.srcRank == rank) && decide (g.order < id))

end Sys2Proof.Machine
end

