-- ==== Sys2Proof/Machine/Cycle.lean ====
section
/-!
DEFINITION. Sys2Proof/Machine/Cycle.lean: what takes place in a compute cycle of its own accord, and in which order: runs start, ops issue,
port FIFOs feed the row, static-plane messages arrive and commit, faults, completion points and increments come due, halting cores
drain (spec/03 R79 to R100; spec/12 R302, R319). Everything here has a cycle that the spec fixes (spec/03 R95).
-/
namespace Sys2Proof.Machine

/-! ## Micro mode, entered and started (spec/09 R228, R230, R231) -/

/-- MICRO is set: every register is 0, the shadow-beat counter is 0 and every stockpot row is closed. -/
def Core.enterMicro (k : Core) (priv : Bool) (entry : Nat) : Core :=
  { k.closeRows with micro := { k.micro with on := true, priv := priv, entry := entry, g := [], v := [], shadowBeats := 0,
                                             openMode := 0 } }

/-- GO: execution starts at ENTRY, a byte offset in the program store; a diagnostic image never runs without a limit (R230). -/
def Core.goMicro (k : Core) (now cyc : Nat) : Core :=
  let m := k.micro
  { k with micro := { m with pc := m.entry, last := m.entry, running := true, halted := false, faulted := false, aborted := false, mfc := 0,
                             exit := 0, goStamp := now, goCycle := cyc,
                             limit := if !m.priv && m.limit == 0 then 1000000 else m.limit } }

/-! ## The start of a run (spec/03 R97) -/

/-- Has the start stamp of a run come, by the rising edge of the present cycle? -/
def State.runDue (s : State) (p : Nat) : Bool :=
  let r := (s.part p).run
  r.present && !r.started && r.aborted.isNone && decide (r.ts ≤ s.clk.edgeAt)

/-- The cores of a run make their first issue in the present cycle (R97), or start a diagnostic image (spec/09 R243). Each bucket of
tokens is full (spec/11 R284). -/
def State.startRun (s : State) (p : Nat) : State :=
  let r := (s.part p).run
  let go (k : Core) : Core :=
    let k := { k with tokens := k.burst * 1024 }
    if r.diag then k.goMicro s.now s.cyc else { k with running := true, startCyc := s.cyc, due := s.cyc }
  (s.modRun p fun r => { r with started := true }).modCores (r.cores.filter fun c => !s.coreHedged c) go

/-- Every run whose stamp has come starts. -/
def State.startRuns (s : State) : State := partNumbers.foldl (fun s p => if s.runDue p then s.startRun p else s) s

/-! ## Issue (spec/03 R92) -/

/-- The cores that satisfy a test, ascending. -/
def State.coresWith (s : State) (p : Core → Bool) : List Nat := (s.cores.filter fun x => p x.2).map Prod.fst

/-- Every issue station takes up the op at NEXT that it has not taken up in this cycle. -/
def State.issueAll (s : State) : State :=
  (s.coresWith Core.running).foldl (fun s c => if s.offered c then s.takeOp (planFor (s.core c).nextOp) c else s) s

/-! ## Port FIFOs (spec/03 R79, spec/12 R313) -/

/-- The work of an op whose bytes are there. -/
def State.finish (s : State) (c : Nat) (got : List Byte) : Task → State
  | .matvec a => s.modCore c fun k => a.run (s.tp1 c) (if got.isEmpty then k else k.fillHold got)
  | .whisk a => s.modCore c (a.run got)
  | .convert a => s.modCore c (a.run got)
  | .layout a => s.modCore c (a.run got)

/-- The beats of an op that are due in the present cycle are taken, and with the last of them its work is done. -/
def State.runJob (c : Nat) (s : State) (j : Job) : State :=
  let take (t : State × List Byte) (b : Nat × Nat) : State × List Byte :=
    let (bs, k, under) := (t.1.core c).takeBeat j.port b.2
    let s := t.1.setCore c k
    (if under then s.underrun c j.opAddr j.port else s, t.2 ++ bs)
  let t := (j.due.filter fun b => decide (b.1 ≤ s.cyc)).foldl take (s, j.got)
  match j.due.filter fun b => decide (s.cyc < b.1) with
  | [] => t.1.finish c t.2 j.task
  | due => t.1.modCore c fun k => { k with jobs := k.jobs ++ [{ j with due := due, got := t.2 }] }

/-- The ops in the row of a core that port FIFOs feed, in the order in which they issued. -/
def State.runJobs (s : State) (c : Nat) : State :=
  let js := (s.core c).jobs
  js.foldl (State.runJob c) (s.modCore c fun k => { k with jobs := [] })

/-! ## The static plane (spec/01 R22, spec/03 R95) -/

/-- Messages whose first beat enters the static plane in the present cycle take its stamp (spec/12 R312). -/
def State.stampInjected (s : State) : State :=
  { s with xfers := s.xfers.map fun x =>
      if x.static && x.stage == .launched && x.inject == s.cyc then { x with launch := s.coreStamp } else x }

/-- The header of a static-plane transfer. -/
def State.staticHeader (s : State) (x : Xfer) : State := if x.kind = .message then s.messageHeader x else s.writeHeader x

/-- The transfers that satisfy a test undergo something, in the order in which they were made. -/
def State.eachXfer (s : State) (p : Xfer → Bool) (f : State → Xfer → State) : State :=
  (s.xfers.filter p).foldl f s

/-- The headers of the static plane that arrive in the present cycle. One local output carries one beat in a cycle, so that a core has at
most one of another core, after its own (spec/12 R302, R319). -/
def State.staticHeaders (s : State) : State :=
  let cyc := s.cyc
  let due (x : Xfer) : Bool := x.static && x.stage == .launched && decide (x.ready ≤ cyc)
  let s := s.eachXfer (fun x => due x && x.core == x.dstCore) State.staticHeader
  let s := s.eachXfer (fun x => due x && x.core != x.dstCore) State.staticHeader
  let gs := s.sigs.filter fun g => g.static && decide (g.ready ≤ cyc)
  (gs.filter (fun g => g.srcCore == g.dstCore) ++ gs.filter fun g => g.srcCore != g.dstCore).foldl
    (fun s g => (s.dropSig g.id).signalHeader g) s

/-- The static-plane messages whose last beat arrives in the present cycle commit. -/
def State.staticCommits (s : State) : State :=
  let cyc := s.cyc
  s.eachXfer (fun x => x.static && x.stage == .accepted && decide (x.lastBeat ≤ cyc) && !(s.core x.dstCore).micro.on) State.commitAt

/-! ## What comes due at a core (spec/03 R81, R88; spec/12 R297, R302) -/

/-- Something befalls a core. -/
def State.befall (c : Nat) (s : State) : Late → State
  | .fault f => s.coreFault c f
  | .illegal a opc v r => s.logIllegal c a opc v r
  | .inc _ n i m src => s.increment c n i m src

/-- The order in which things of one cycle take effect: increments from the static plane come before those from the memory plane (R302). -/
def Late.rank : Late → Nat
  | .inc true _ _ _ _ => 1
  | .inc false _ _ _ _ => 2
  | _ => 0

/-- What is due of one rank takes effect, in order of arrival. -/
def State.undergo (r c : Nat) (s : State) : State :=
  let due (x : Nat × Late) : Bool := decide (x.1 ≤ s.cyc) && x.2.rank == r
  let k := s.core c
  ((k.later.filter due).map Prod.snd).foldl (State.befall c) (s.setCore c { k with later := k.later.filter fun x => !due x })

/-- The write through WP0 that addresses a bank in the cycle in which a static-plane beat does on WP1 (R81). -/
def Core.clash (k : Core) (cyc : Nat) : Option (Nat × Nat × Nat) :=
  k.wp1.findSome? fun b => if b.1 = cyc then k.wp0.find? fun w => w.1 == cyc && w.2.1 == b.2 else none

/-- The ports of a core in the present cycle (R81). -/
def State.watchPorts (s : State) (c : Nat) : State :=
  let k := s.core c
  let cyc := s.cyc
  let s := s.setCore c { k with wp0 := k.wp0.filter fun x => decide (cyc < x.1), wp1 := k.wp1.filter fun x => decide (cyc < x.1) }
  match k.clash cyc with
  | some w => s.coreFault c (bankConflict w.2.2 w.2.1 4 5)
  | none => s

/-- Has a core something that is to come, and is it not in micro mode? What a core has accepted before micro mode waits until it leaves it
(spec/09 R228; DESIGN CHOICE, n9). -/
def Core.awaits (k : Core) : Bool :=
  !k.micro.on && (!k.later.isEmpty || !k.wp0.isEmpty || !k.wp1.isEmpty || !k.pend.isEmpty || k.halting.isSome)

/-- What is due at every core: faults first, then the completion points of its own ops, then increments from the static plane and from the
memory plane (R302); last, halting cores drain (spec/08 R226). -/
def State.fallDue (s : State) : State :=
  let cs := s.coresWith Core.awaits
  let each (s : State) (f : Nat → State → State) : State := cs.foldl (fun s c => f c s) s
  let s := each (each s (State.undergo 0)) fun c s => s.watchPorts c
  let s := each s fun c s => State.completeOps c (s.core c).pend.length s
  each (each (each s (State.undergo 1)) (State.undergo 2)) fun c s => s.tryHalt c

/-! ## The cycle -/

/-- Everything that takes place in the present cycle of its own accord, once: issues, then static headers, then what is due (spec/03 R89,
spec/12 R302). The commands of memory-plane headers come after it. -/
def State.settle (s : State) : State :=
  if s.clk.settled = s.cyc + 1 then s
  else
    let s := s.startRuns.issueAll
    let s := (s.coresWith fun k => !k.jobs.isEmpty && !k.micro.on).foldl State.runJobs s
    let s := s.stampInjected.staticHeaders.staticCommits.fallDue
    { s with clk := { s.clk with settled := s.clk.cycles + 1 } }

end Sys2Proof.Machine
end

