-- ==== Sys2Proof/Machine/Arrivals.lean ====
section
/-!
DEFINITION. Sys2Proof/Machine/Arrivals.lean: the commands for what arrives at cores and for what a core does of its own accord. What the spec
gives a cycle of its own happens in that cycle, whoever commands it (Machine/Cycle.lean); a header or an increment of the memory plane comes
after what its cycle holds already (spec/03 R89, spec/12 R302, R319).
-/
namespace Sys2Proof.Machine

/-! ## Headers -/

/-- A transfer of a kind on its way, whose command it is. -/
def State.inFlight (s : State) (p : Xfer → Bool) (i : Nat) : Option Xfer :=
  (s.xfer i).filter fun x => x.stage == .launched && (x.foreign || x.xrank.isNone) && p x

/-- A remote write into a scratchpad or a stockpot. -/
def State.writesCore (s : State) (x : Xfer) : Bool :=
  x.remote && (x.kind == .stockRow || ((x.kind == .store || x.kind == .scatter) && (s.scratchAt x.dst).isSome))

/-- A remote write's header reaches the owning core (spec/11 R288). -/
def execRemoteWriteHeader (i : Nat) (s : State) : Out :=
  match s.inFlight s.writesCore i with
  | none => notNow "REMOTE_WRITE_HEADER"
  | some x => .next (if x.static then s.settle else s.settle.writeHeader x)

/-- The header of a data message for a kind of destination. -/
def messageCommand (mnemonic : String) (kind i : Nat) (s : State) : Out :=
  match s.inFlight (fun x => x.kind == .message && x.route.kind == kind) i with
  | none => notNow mnemonic
  | some x =>
    if x.static then .next s.settle
    else if s.inOrder x.core x.route.tag x.id x.foreign (x.xrank.getD 0) then .next (s.settle.messageHeader x)
    else notNow mnemonic

/-- A data message header for a port FIFO arrives (spec/12 R313). -/
def execPortFifoMessage (i : Nat) (s : State) : Out := messageCommand "PORT_FIFO_MESSAGE" 1 i s

/-- A data message header for a ring arrives (spec/12 R315). -/
def execRingMessage (i : Nat) (s : State) : Out := messageCommand "RING_MESSAGE" 2 i s

/-- A signal message arrives (spec/12 R297, R306, R318). -/
def execSignalMessage (i : Nat) (s : State) : Out :=
  match s.sigs.find? fun g => g.id == i with
  | none => notNow "SIGNAL_MESSAGE"
  | some g =>
    if g.static then .next s.settle
    else if !g.attached && !s.inOrder g.srcCore g.tag g.order g.foreign g.srcRank then notNow "SIGNAL_MESSAGE"
    else .next ((s.settle.dropSig i).signalHeader g)

/-- Inbound data commits through WP1 (spec/03 R88). -/
def execInboundCommit (i : Nat) (s : State) : Out :=
  match s.xfer i with
  | none => notNow "INBOUND_COMMIT"
  | some x =>
    if x.stage ≠ .accepted then notNow "INBOUND_COMMIT"
    else if x.static then .next s.settle
    else
      let t := s.settle
      match t.xfer i with
      | some y => t.inboundCommit y
      | none => .next t

/-- A static-plane beat meets a slot-table entry that does not name its input (spec/01 R23): the message is discarded as its time comes. -/
def execStaticSlotMismatch (i router output input slot : Nat) (s : State) : Out :=
  let p := placeOfRouter router
  let lost := (s.xfer i).any (fun x => x.static && x.lost && x.stage == .launched)
    || s.sigs.any fun g => g.id == i && g.static && g.lost
  if s.slot p.1 p.2 output (slot % 64) = input || !lost then notNow "STATIC_SLOT_MISMATCH"
  else .next s.settle

/-! ## Completion points and the end of a core's run -/

/-- An op reaches its completion point and sends its signals (spec/06 R153; spec/08 R213). -/
def execOpCompletionPoint (c : Nat) (s : State) : Out :=
  if ((s.core c).complete s.cyc).isNone then notNow "OP_COMPLETION_POINT" else .next s.settle

/-- A halting core has drained (spec/08 R226 step 4; spec/12 R304). -/
def execHaltDrainComplete (c : Nat) (s : State) : Out :=
  if (s.core c).halting.isNone || !s.drained c then notNow "HALT_DRAIN_COMPLETE" else .next (s.settle.tryHalt c)

/-- Step 3 of HALT reaches its limit of 2 s (spec/08 R227). -/
def execCfHaltDrain (c : Nat) (s : State) : Out :=
  match (s.core c).halting with
  | none => notNow "CF_HALT_DRAIN"
  | some h => if !s.haltOver h || s.drained c then notNow "CF_HALT_DRAIN" else .next (s.settle.tryHalt c)

/-- The cores of a run make their first issue (spec/03 R97), or start a diagnostic image (spec/09 R243). -/
def execRunStart (p : Nat) (s : State) : Out := if s.runDue p then .next s.settle else notNow "RUN_START"

end Sys2Proof.Machine
end

