-- ==== Sys2Proof/Machine/Host.lean ====
section
/-!
DEFINITION. Sys2Proof/Machine/Host.lean: the command processor's handling of a ZCP command frame (spec/15 R365 to R372, R392;
spec/18 R430, R451): frame checks, the sequence state of a scope, the checks common to all commands, and the response.
-/
namespace Sys2Proof.Machine

/-! ## Fields -/

/-- A little-endian field of a command's body. -/
def fld (b : List Byte) (off n : Nat) : Nat := leNat ((b.drop off).take n)

/-- Status codes (R371). -/
def zeBadField : Nat := 0x0101
/-- The frame length or LENGTH is wrong. -/
def zeBadLength : Nat := 0x0102
/-- The opcode is not defined. -/
def zeUnknownCmd : Nat := 0x0103
/-- The opcode is not allowed in this scope or on this port. -/
def zePortDenied : Nat := 0x0104
/-- SEQ is not above S_max and no response is held. -/
def zeStaleSeq : Nat := 0x0105
/-- The module has not reached PHASE 7. -/
def zeNotReady : Nat := 0x0106
/-- The scope names no partition. -/
def zeNoPartition : Nat := 0x0201
/-- A quota would be exceeded. -/
def zeQuota : Nat := 0x0202
/-- The resource is taken. -/
def zeResourceTaken : Nat := 0x0203
/-- The partition has a run, or a long command holds the resource. -/
def zePartBusy : Nat := 0x0204
/-- The partition has no run. -/
def zeNoRun : Nat := 0x0205
/-- The cascade did not complete. -/
def zeCascadeFailed : Nat := 0x0206
/-- The feature is absent. -/
def zeFeatureAbsent : Nat := 0x0301
/-- Grade or profile differs. -/
def zeProfileMismatch : Nat := 0x0302
/-- No bucket holds the shape. -/
def zeShape : Nat := 0x0303
/-- A start load failed. -/
def zeStartFailed : Nat := 0x0304
/-- An SM3 digest does not match. -/
def zeImageDigest : Nat := 0x0305
/-- The handle holds no loaded program. -/
def zeNoProgram : Nat := 0x0306
/-- The delta is bound to another module, or no verified image is staged. -/
def zeImageBinding : Nat := 0x0401
/-- The SM2 signature fails. -/
def zeSignature : Nat := 0x0402
/-- The new slot failed. -/
def zeActivateFailed : Nat := 0x0403
/-- The power limit lies below the floor. -/
def zeLimit : Nat := 0x0501
/-- A unit named or needed is hedged. -/
def zeFenced : Nat := 0x0601
/-- UNFENCE names a unit that is not hedged. -/
def zeNotFenced : Nat := 0x0602

/-! ## Commands -/

/-- What a command's own checks and effect come to: a rejection, which leaves the state as it is; a rejection after reads that
found errors in memory; acceptance with a result; acceptance of a long command that is done at once, after its response; or a wait for the
master of the cascade (spec/16 R404). -/
inductive Reply where
  | reject (status : Nat)
  | failed (s : State) (status : Nat)
  | accept (s : State) (long : Bool) (result : List Byte)
  | acceptDone (s : State) (done : State → State)
  | park (s : State) (win : Nat) (body : List Byte)

/-- A row of R372: scopes, ports, the lengths that fit, and the command's own part: scope index, SEQ, fields, state. -/
structure CmdSpec where
  opcode    : Nat
  inM       : Bool := false
  inP       : Bool := false
  service   : Bool := false
  elsewhere : Bool := true
  lenOk     : Nat → Bool
  run       : Nat → Nat → List Byte → State → Reply

/-- The first failing check of an ordered list of (it holds, status on failure). -/
def firstFail : List (Bool × Nat) → Option Nat
  | [] => none
  | (ok, e) :: t => if ok then firstFail t else some e

/-- Run a command's effect unless a check fails. -/
def guarded (checks : List (Bool × Nat)) (effect : Unit → Reply) : Reply :=
  match firstFail checks with
  | some e => .reject e
  | none => effect ()

/-- What the bytes of a SEND say as a command frame (R365): the opcode, which selects the command's row, the header, and the fields. -/
def readFrame (bs : List Byte) (ecn : Bool) : Nat × CmdHdr × List Byte :=
  (fld bs 4 2,
   { sendLen := bs.length, version := fld bs 0 1, kind := fld bs 1 1, scope := fld bs 2 1, flags := fld bs 3 1, status := fld bs 6 2,
     length := fld bs 8 4, reserved := fld bs 12 4, seq := fld bs 16 8, stamp := fld bs 24 8, ecn := ecn },
   bs.drop 32)

/-- The frame checks, 1 to 4 of R366. -/
def frameCheck (qp : QPair) (h : CmdHdr) : Option Nat :=
  firstFail [(h.sendLen == 32 + h.length, zeBadLength),
    (h.version == 1 && h.kind == 0 && h.flags == 0 && h.status == 0 && h.stamp == 0 && h.reserved == 0, zeBadField),
    (h.scope == qp.scope, zeNoPartition),
    (h.seq != 0, zeBadField)]

/-- The commands that the service port takes up before PHASE 7 (spec/18 R451). -/
def earlyCommand (opcode : Nat) : Bool := opcode == 0x0001 || opcode == 0x0040 || opcode == 0x0042 || opcode == 0x0048

/-- Checks 6 to 10 of R366, with that of spec/18 R451 ahead of them (DEDUCED, n10). -/
def State.judge (s : State) (qp : QPair) (opcode : Nat) (h : CmdHdr) (body : List Byte) (spec : Option CmdSpec) : Reply :=
  let i := scopeIndex h.scope
  if qp.port = 8 ∧ s.mgt.phase < 7 ∧ earlyCommand opcode = false then .reject zeNotReady
  else match spec with
    | none => .reject zeUnknownCmd
    | some c =>
      guarded [((if i = 8 then c.inM else c.inP) && (if qp.port = 8 then c.service else c.elsewhere), zePortDenied),
        (i == 8 || ((s.part i).exist && !(s.part i).destroying), zeNoPartition),
        (c.lenOk h.length, zeBadLength)] fun _ => c.run i h.seq body s

/-- A response frame (R365). -/
def responseTo (opcode : Nat) (h : CmdHdr) (status flags now : Nat) (result : List Byte) : Frame :=
  ⟨1, h.scope, flags, opcode, status, h.seq, now, result⟩

/-- A command is recorded with its response, which is sent (R367). -/
def State.recordAnswer (s : State) (qp : QPair) (f : Frame) : State :=
  let i := scopeIndex f.scope
  let x := s.scope i
  (s.setScope i { x with smax := f.seq, recorded := (f :: x.recorded).take 64 }).send (.frame qp.q f)

/-- Record and send what a command's own part answered. -/
def State.conclude (s : State) (qp : QPair) (opcode : Nat) (h : CmdHdr) : Reply → State
  | .reject e => s.recordAnswer qp (responseTo opcode h e 0 s.now [])
  | .failed t e => t.recordAnswer qp (responseTo opcode h e 0 t.now [])
  | .accept t long result => t.recordAnswer qp (responseTo opcode h 0 (if long then 2 else 0) t.now result)
  | .acceptDone t done => done (t.recordAnswer qp (responseTo opcode h 0 2 t.now []))
  | .park t w b => { t with host := { t.host with parked := t.host.parked ++ [⟨qp.q, scopeIndex h.scope, h, b, w, false⟩] } }

/-- The command processor takes a command up (R366 to R368). -/
def State.takeUp (s : State) (qp : QPair) (opcode : Nat) (h : CmdHdr) (body : List Byte) (spec : Option CmdSpec) : State :=
  match frameCheck qp h with
  | some e => s.send (.frame qp.q (responseTo opcode h e 0 s.now []))
  | none =>
    let x := s.scope (scopeIndex h.scope)
    if h.seq ≤ x.smax then
      match x.recorded.find? fun f => f.seq == h.seq with
      | some f => s.send (.frame qp.q { f with flags := f.flags ||| 1 })
      | none => s.send (.frame qp.q (responseTo opcode h zeStaleSeq 0 s.now []))
    else s.conclude qp opcode h (s.judge qp opcode h body spec)

/-- The commands that need the management controller (spec/18 R430). -/
def needsController (opcode : Nat) : Bool :=
  opcode == 0x0040 || opcode == 0x0042 || opcode == 0x0050 || opcode == 0x0051 || opcode == 0x0060 || opcode == 0x0068

/-- Must a command wait: in the pause of an activation (R392), behind a WINDOW_OPEN that the master of a cascade has not answered yet
(spec/16 R404), in a restart of the controller if it needs it (spec/18 R430), or behind one that waits (R368)? -/
def State.mustWait (s : State) (opcode : Nat) : Bool :=
  s.mgt.paused || !s.host.parked.isEmpty || (s.mgt.restarting && needsController opcode) || !s.host.waiting.isEmpty

/-- A command arrives on a mailbox: it waits in one of the 64 receive buffers, gets an RNR NAK, or is taken up (R368). -/
def State.arrive (s : State) (qp : QPair) (opcode : Nat) (h : CmdHdr) (body : List Byte) (spec : Option CmdSpec) : State :=
  if s.mustWait opcode then
    if 64 ≤ (s.host.waiting.filter fun w => w.q == qp.q).length then s.send (.rnrNak qp.q)
    else { s with host := { s.host with waiting := s.host.waiting ++ [⟨qp.q, opcode, h, body⟩] } }
  else s.takeUp qp opcode h body spec

/-- A connected mailbox. -/
def State.mailbox (s : State) (q : Nat) : Option QPair := s.host.qps.find? fun p => p.q == q && p.kind == 0

/-- What bears the ECN mark of congestion is answered with a congestion notification packet, one for a request or a SEND (R359; DESIGN
CHOICE, n10). -/
def State.answerEcn (s : State) (q : Nat) (ecn : Bool) : State := if ecn then s.send (.cnp q) else s

/-- A command frame arrives on mailbox `q`. -/
def zcp (mnemonic : String) (opcode : Nat) (spec : Option CmdSpec) (q : Nat) (h : CmdHdr) (body : List Byte) (s : State) : Out :=
  match s.mailbox q with
  | none => notNow mnemonic
  | some qp => .next ((s.answerEcn q h.ecn).arrive qp opcode h body spec)

/-- The events that a scope held go to mailboxes, EVENTS_LOST ahead of them if some were dropped; their frames bear the time at which they
are sent (R365, R370). -/
def State.deliver (s : State) (i : Nat) (qs : List QPair) : State :=
  let x := s.scope i
  let lost : List Frame := if x.dropped = 0 then [] else
    [⟨2, scopeByte i, 0, 0x8007, 0, 0, s.now, toLE 8 x.dropped ++ toLE 8 x.dropFirst ++ toLE 8 x.dropLast⟩]
  let held := x.held.map fun f => { f with stamp := s.now }
  let s := s.setScope i { x with held := [], dropped := 0, dropFirst := 0, dropLast := 0 }
  (lost ++ held).foldl (fun s f => qs.foldl (fun s q => s.send (.frame q.q f)) s) s

/-! ## Long commands (R369) -/

/-- A long command is accepted. -/
def State.longStart (s : State) (scope seq opcode a b : Nat) : State :=
  { s with host := { s.host with long := s.host.long ++ [⟨scope, seq, opcode, a, b, s.ns, s.nextId⟩] } }

/-- The long command of an opcode in a scope that satisfies a test. -/
def State.longFind (s : State) (scope opcode : Nat) (p : LongCmd → Bool) : Option LongCmd :=
  s.host.long.find? fun l => l.scope == scope && l.opcode == opcode && p l

/-- Is a long command of an opcode in progress in a scope? -/
def State.longBusy (s : State) (scope opcode : Nat) : Bool := (s.longFind scope opcode fun _ => true).isSome

/-- The long commands of an opcode in a scope. -/
def State.longAll (s : State) (scope opcode : Nat) : List LongCmd :=
  s.host.long.filter fun l => l.scope == scope && l.opcode == opcode

/-- A long command ends with CMD_DONE (R370). -/
def State.longEnd (s : State) (l : LongCmd) (status : Nat) (result : List Byte) : State :=
  ({ s with host := { s.host with long := s.host.long.filter fun m => m != l } } : State).cmdDone l.scope l.seq l.opcode status result

/-- The data queue pairs that satisfy a test are disconnected with DREQ: their requests not yet acknowledged are flushed
(R363). -/
def State.dropData (s : State) (p : QPair → Bool) : State :=
  let gone := s.host.qps.filter fun q => q.kind == 1 && p q
  let s := { s with host := { s.host with
    qps := s.host.qps.filter fun q => !(q.kind == 1 && p q),
    rdma := s.host.rdma.filter fun r => !(gone.any fun q => q.q == r.q) } }
  gone.foldl (fun s q => s.send (.dreq q.q)) s

end Sys2Proof.Machine
end

