-- ==== Sys2Proof/Machine/Partitions.lean ====
section
/-!
DEFINITION. Sys2Proof/Machine/Partitions.lean: partitions, memory, channel power, windows and the refill of buckets (spec/15
R375 to R382; spec/11 R283 to R295; spec/01 R33 to R40).
-/
namespace Sys2Proof.Machine

/-! ## Shared steps -/

/-- Bits set among the first `n` of a number. -/
def countBits (x n : Nat) : Nat := ((List.range n).filter fun i => bit x i).length

/-- A micro run ends: CORE_MICRO_STAT gives the PC of its last instruction (spec/09 R230). -/
def Micro.stop (m : Micro) : Micro := if m.running then { m with running := false, pc := m.last } else m

/-- A fault of micro mode: MFC, code and record fields (spec/09 R244). -/
structure MFault where
  mfc    : Nat
  code   : Nat
  fields : List Byte
  deriving DecidableEq, Repr

/-- CF_MICRO_FAULT (spec/09 R244, spec/17 R419). -/
def microFault (mfc pc : Nat) : MFault := ⟨mfc, 0x11, toLE 4 pc⟩

/-- An existing code, with its sub-code. -/
def CFault.micro (f : CFault) (mfc : Nat) : MFault := ⟨mfc, f.code, f.fields⟩

/-- The op address a record of micro mode gives: the 64-byte word that holds the instruction (DEDUCED, n13). -/
def opAddrOf (pc : Nat) : Nat := pc / 64

/-- A micro run ends at a fault (spec/09 R232, R244): PC stays at the instruction, and the record is raised. -/
def State.microStop (s : State) (c : Nat) (f : MFault) : State :=
  let s := s.modCore c fun k => { k with micro := { k.micro.stop with faulted := true, mfc := f.mfc } }
  s.coreFault c ⟨f.code, opAddrOf (s.core c).micro.pc, 0, f.fields⟩

/-- Has the time since GO reached LIMIT_US (spec/09 R230, R232)? -/
def Micro.overtime (m : Micro) (now : Nat) : Bool := m.limit != 0 && decide (m.goStamp + 1000 * m.limit ≤ now)

/-- The time limit ends a micro run (spec/09 R232). -/
def State.microTimeout (s : State) (c : Nat) : State := s.microStop c (microFault 6 (s.core c).micro.last)

/-- A micro run ends for an abort; where it has reached its limit, that ends it first (spec/09 R232). -/
def State.microAbort (s : State) (c : Nat) : State :=
  let m := (s.core c).micro
  if !m.running then s
  else if m.overtime s.now then s.microTimeout c
  else s.modCore c fun k => { k with micro := { k.micro.stop with aborted := true } }

/-- Does a core of the run still issue, or execute micro instructions? -/
def Core.working (k : Core) : Bool := k.running || k.micro.running

/-- A run is aborted (R385): every core that works stops. Where none does any more, its outcome stays; a second abort changes nothing. -/
def State.abortRun (s : State) (p : Nat) : State :=
  let r := (s.part p).run
  let live := r.cores.filter fun c => (s.core c).working
  if r.aborted.isSome || (r.started && live.isEmpty) then s
  else
    let s := s.modRun p fun r => { r with aborted := some s.now, lastStop := s.ns }
    live.foldl (fun s c => if (s.core c).running then s.stopCore c false else s.microAbort c) s

/-- A CASCADE event of a partition's scope, with the stamp of the member that detected it (spec/16 R417). -/
def State.cascadeEvent (s : State) (p kind rank stamp : Nat) : State :=
  let k := s.cas p
  s.event p 0x8005 (toLE 1 kind ++ toLE 7 0 ++ toLE 8 k.ident ++ toLE 2 rank ++ toLE 2 k.masterRank ++ toLE 4 0 ++ toLE 8 stamp)

/-- What concerns the whole cascade: the master sends the event to every member's partition scope, another member reports it to
the master (spec/16 R406, R409, R412, R413). -/
def State.tellCascade (s : State) (p kind rank stamp : Nat) : State :=
  let k := s.cas p
  if k.master then (s.cascadeEvent p kind rank stamp).spread p k.rank (noticeBody 2 kind rank stamp)
  else s.manage p k.masterRank (noticeBody 3 kind rank stamp)

/-- The directions of the torus that need a link, and no link of which is in service (spec/16 R406). -/
def State.directionLost (s : State) (p d : Nat) : Bool :=
  (s.part p).cascade.joined && decide (d < 6)
    && !((List.range 64).any fun l => (s.link l).state == 3 && (s.link l).role == d)

/-- A link of a direction leaves service: if none of the direction is left, *direction lost* is told. -/
def State.checkDirection (s : State) (p d : Nat) : State :=
  if s.directionLost p d then s.tellCascade p 6 ((s.cas p).rank + d * 2 ^ 13) s.now else s

/-- A link leaves cascade service. Of what it was to send, the rest of a packet that has begun is left; of what it has received, a packet
that is not whole yet. The credits of the others go back (spec/16 R397). -/
def Link.leave (x : Link) : Link :=
  let rest (fs : List Flit) : List Flit := (fs.reverse.takeWhile fun f => !f.eop).reverse
  let keep (t : Tab (List Flit)) (f : List Flit → List Flit) : Tab (List Flit) := (t.map fun b => (b.1, f b.2)).filter fun b => !b.2.isEmpty
  { x with state := if x.state = 3 then 2 else x.state, role := 7, twin := false, packets := [],
           txq := keep x.txq fun q => q.take (begun q), buf := keep x.buf rest,
           owed := x.buf.foldl (fun t b => Tab.modify 0 t b.1 (· + (b.2.length - (rest b.2).length))) x.owed }

/-- The member leaves its cascade (spec/16 R409): a master hands over to its first successor, with a beat in its successor's name (DEDUCED,
n12); then its links leave cascade service, and its own time source drives its time base again. A join in progress ends with it (DEDUCED,
n12). -/
def State.leaveCascade (s : State) (p : Nat) : State :=
  let k := s.cas p
  if !k.joined && !k.joining then s
  else
    let s := match s.longFind p 0x0058 fun _ => true with
      | some c => s.longEnd c zeCascadeFailed []
      | none => s
    let s := if !k.joined then s else match k.master, k.succession with
      | true, m :: rest =>
        let s := s.modCascade p fun x => { x with masterRank := m }
        (s.spread p k.rank (beatBody m (10 * s.now) rest)).tellCascade p 7 k.rank s.now
      | _, _ => s.tellCascade p 7 k.rank s.now
    let mine := (s.part p).links
    let s := { s with links := s.links.map fun (x : Nat × Link) => if bit mine x.1 then (x.1, x.2.leave) else x,
                      clk := if s.clk.source = 3 then { s.clk with source := s.clk.ownSource } else s.clk }
    s.modCascade p fun _ => {}

/-- Set every byte of some memory units to zero, with valid check symbols (R379). -/
def State.zeroUnits (s : State) (us : List Nat) : State :=
  { s with mem := s.mem.filter fun x => !us.contains (unitOf x.1), ecc := s.ecc.filter fun x => !us.contains (unitOf (64 * x.1)) }

/-- The memory units a partition holds. -/
def State.unitsOfPart (s : State) (p : Nat) : List Nat := (List.range 960).filter fun u => s.ownerOfUnit u == some p

/-- Set the owner of memory units. -/
def State.setOwner (s : State) (us : List Nat) (o : Option Nat) : State :=
  { s with unitOwner := us.foldl (fun t u => Tab.set 0 t u (match o with | some p => p + 1 | none => 0)) s.unitOwner }

/-! ## PART_CREATE (R375) -/

/-- The regulator rule of spec/11 R283. -/
def regulatorOk (rate burst : Nat) : Bool := decide (rate ≤ 4095) && decide (rate * 100 + 4096 ≤ burst * 1024)

/-- The refill rates of a partition's buckets on the four dies (spec/11 R285). -/
def State.prates (s : State) (regions q : Nat) : List Nat :=
  let cores := (List.range 4).map fun d => s.perDie / 4 * countBits (regions / 2 ^ (4 * d)) 4
  let c := cores.foldl (· + ·) 0
  let floors := cores.map fun x => if c = 0 then 0 else q * x / c
  let rest := q - floors.foldl (· + ·) 0
  let first := (List.range 4).find? fun d => cores.getD d 0 != 0
  (floors.zip (List.range 4)).map fun x => if some x.2 = first then x.1 + rest else x.1

/-- The effect of the bandwidth fields (R283, R285, R286): tokens change at the next refill. -/
def State.setRates (s : State) (p q rate burst : Nat) : State :=
  let pr := s.prates (s.part p).regions q
  let s := s.modPart p fun x =>
    { x with bwQuota := q, rate := rate, burst := burst,
             buckets := (pr.zip (List.range 4)).foldl (fun t y => Tab.set (0, 0) t y.2 (y.1, (x.bucket y.2).2)) x.buckets }
  s.modCores (s.coresOf p) fun k => { k with rate := rate, burst := burst }

/-- Is a unit named by PART_CREATE hedged (R375)? -/
def State.namedFenced (s : State) (regions ports links : Nat) : Bool :=
  ((List.range 16).any fun r => bit regions r && (s.hedgedUnit 1 r || s.dieHedged (r / 4)))
    || ((List.range 8).any fun e => bit ports e && s.hedgedUnit 5 e)
    || ((List.range 64).any fun l => bit links l && s.hedgedUnit 4 l)

/-- Is a resource named by PART_CREATE owned by a partition (R40)? -/
def State.namedTaken (s : State) (regions ports links : Nat) : Bool :=
  partNumbers.any fun p =>
    let x := s.part p
    x.exist && ((x.regions &&& regions) != 0 || (x.ports &&& ports) != 0 || (x.links &&& links) != 0)

/-- The lowest contiguous run of `n` free ticket counters (R375). -/
def State.ticketRun (s : State) (n : Nat) : Option Nat :=
  let taken (i : Nat) : Bool := partNumbers.any fun p =>
    let x := s.part p
    x.exist && decide (x.wtBase ≤ i) && decide (i < x.wtBase + x.wtCount)
  (List.range (257 - n)).find? fun b => (List.range n).all fun i => !taken (b + i)

/-- The digest of the active slot's micro-mode images and profile tables (spec/18 R447). -/
def State.partDigest (s : State) : List Byte := (Tab.get {} s.mgt.slots s.mgt.activeSlot).digests.getD 4 (List.replicate 32 0)

/-- A partition is created. -/
def State.createPart (s : State) (p base : Nat) (b : List Byte) : State :=
  let s := s.modPart p fun x =>
    { exist := true, regions := fld b 2 2, ports := fld b 4 1, links := fld b 8 8, hold := bit (fld b 1 1) 0,
      memQuota := fld b 16 4, wtBase := base, wtCount := fld b 6 2, images := s.partDigest,
      windows := x.windows.map fun w => (w.1, { w.2 with isOpen := false, held := false, refusals := 0, refStamp := 0 }) }
  let s := s.setRates p (fld b 20 4) (fld b 24 2) (fld b 26 2)
  { s.modCores (s.coresOf p) fun k => { k with cnts := [] } with
    segs := s.segs.filter fun g => g.1 / 64 != p }

/-- PART_CREATE. -/
def partCreateSpec : CmdSpec :=
  { opcode := 0x0010, inM := true, lenOk := fun n => n == 32, run := fun _ _ b s =>
      let p := fld b 0 1
      let hold := bit (fld b 1 1) 0
      let n := fld b 6 2
      guarded [(decide (p < 8) && !(s.part p).exist && fld b 2 2 != 0 && fld b 1 1 / 2 == 0 && fld b 5 1 == 0
            && fld b 28 4 == 0 && decide (n ≤ 256) && decide (fld b 16 4 ≤ 960) && regulatorOk (fld b 24 2) (fld b 26 2),
            zeBadField),
          (!(hold && s.fuses.stepping == .a1), zeFeatureAbsent),
          (!s.namedFenced (fld b 2 2) (fld b 4 1) (fld b 8 8), zeFenced),
          (!s.namedTaken (fld b 2 2) (fld b 4 1) (fld b 8 8) && (s.ticketRun n).isSome, zeResourceTaken)] fun _ =>
        let base := (s.ticketRun n).getD 0
        let t := s.createPart p base b
        .accept t false (toLE 1 base ++ toLE 1 0 ++ toLE 2 (t.coresOf p).length) }

/-- PART_CREATE arrives. -/
def execPartCreate (q : Nat) (h : CmdHdr) (b : List Byte) (s : State) : Out :=
  zcp "PART_CREATE" 0x0010 (some partCreateSpec) q h b s

/-! ## PART_DESTROY (R376) -/

/-- The owner map names this member for a window, or nobody (spec/16 R404). -/
def Cascade.own (k : Cascade) (w : Nat) (rank : Option Nat) : Cascade :=
  if k.joined then
    { k with owners := (match rank with | some r => [(w, r)] | none => []) ++ k.owners.filter fun x => x.1 != w }
  else k

/-- This member opens or closes a window: the owner map says so, and the others hear of it, from the master, or through it (spec/16 R404). An
opening of a member that is not the master has come from its answer. -/
def State.ownerChanged (s : State) (p w : Nat) (isOpen : Bool) : State :=
  let k := s.cas p
  let s := s.modCascade p fun x => x.own w (if isOpen then some k.rank else none)
  if !k.joined then s
  else if k.master then s.spread p k.rank (ownerBody w k.rank isOpen)
  else if isOpen then s else s.manage p k.masterRank (askBody w k.rank 2)

/-- The dies that keep copies of a window (spec/11 R289). -/
def State.copyDies (s : State) (w : Window) : List Nat :=
  if w.kind = 1 then [s.dieOf w.core]
  else [0, 1, 2, 3].filter fun d => decide (w.base < 0x3C00000000 * (d + 1)) && decide (0x3C00000000 * d < w.base + (w.len + 1) * 512)

/-- A window closes: its register changes at once, each copy after a time that the spec leaves open (spec/11 R294; n10). -/
def State.closeWindow (s : State) (p w : Nat) : State :=
  let x := s.window p w
  if !x.isOpen then s
  else
    let until_ (d : Nat) : Nat := s.ns + (Config.copyDelay (s.fresh + d)).toNat
    let s := { s with fresh := s.fresh + 4 }.modWindow p w fun x =>
      { x with isOpen := false, copies := (s.copyDies x).map fun d => (d, until_ d) }
    s.ownerChanged p w false

/-- Has every copy of a window changed? -/
def Window.settled (w : Window) (ns : Nat) : Bool := w.copies.all fun c => decide (c.2 ≤ ns)

/-- Steps 2 and 3 of PART_DESTROY: the cascade is left, every window closes and every handle is invalid (spec/11 R295), the data queue
pairs are disconnected. -/
def State.vacatePart (s : State) (p : Nat) : State :=
  let s := s.leaveCascade p
  let s := ((s.part p).windows.map Prod.fst).foldl (fun s w => s.closeWindow p w) s
  let s := s.modCores (s.coresOf p) fun k => { k with handles := [] }
  s.dropData fun q => q.scope == p

/-- PART_DESTROY: its steps 2 and 3 follow at once, or at the end of the run that it aborts. -/
def partDestroySpec : CmdSpec :=
  { opcode := 0x0011, inM := true, lenOk := fun n => n == 2, run := fun _ seq b s =>
      let p := fld b 0 1
      let force := bit (fld b 1 1) 0
      guarded [(decide (p < 8) && fld b 1 1 / 2 == 0, zeBadField),
          ((s.part p).exist && !(s.part p).destroying, zeNoPartition),
          (!(s.part p).run.present || force, zePartBusy)] fun _ =>
        let s := (if (s.part p).run.present then s.abortRun p else s).modPart p fun x => { x with destroying := true }
        let s := if (s.part p).run.present then s else s.vacatePart p
        .accept (s.longStart 8 seq 0x0011 p 0) true [] }

/-- PART_DESTROY arrives. -/
def execPartDestroy (q : Nat) (h : CmdHdr) (b : List Byte) (s : State) : Out :=
  zcp "PART_DESTROY" 0x0011 (some partDestroySpec) q h b s

/-- Can a write into a window still come to be accepted or commit: a copy shows it open, or one that was accepted has not committed (R294)? -/
def State.windowBusy (s : State) (p : Nat) (w : Option Nat) : Bool :=
  ((s.part p).windows.any fun x => (w.isNone || w == some x.1) && !x.2.settled s.ns)
    || s.xfers.any fun x => x.part == p && x.remote && x.stage == .accepted && (x.foreign || x.xrank.isNone)
      && (x.kind == .store || x.kind == .scatter || x.kind == .stockRow) && (w.isNone || w == some x.win)

/-- Steps 4 and 5 of PART_DESTROY. -/
def State.destroyPart (s : State) (p : Nat) : State :=
  let us := s.unitsOfPart p
  let s := (s.zeroUnits us).setOwner us none
  let s := { s with segs := s.segs.filter fun g => g.1 / 64 != p }
  s.modPart p fun x =>
    { windows := x.windows.map fun w => (w.1, { w.2 with isOpen := false, held := false, copies := [], kept := [] }) }

/-- The last step of a PART_DESTROY is done: the run, if there was one, has ended and every write accepted into a window has
committed. -/
def execPartDestroyDone (p : Nat) (s : State) : Out :=
  match s.longFind 8 0x0011 fun l => l.a == p with
  | none => notNow "PART_DESTROY_DONE"
  | some l =>
    if (s.part p).run.present || s.host.long.any (fun m => m.scope == p) || s.windowBusy p none then
      notNow "PART_DESTROY_DONE"
    else .next ((s.destroyPart p).longEnd l 0 [])

/-! ## PART_SET_QUOTA (R377, spec/14 R358) -/

/-- PART_SET_QUOTA. -/
def partSetQuotaSpec : CmdSpec :=
  { opcode := 0x0012, inM := true, lenOk := fun n => n == 32, run := fun _ _ b s =>
      let p := fld b 0 1
      guarded [(decide (p < 8) && fld b 1 15 == 0 && fld b 28 4 == 0 && decide (fld b 16 4 ≤ 960)
            && regulatorOk (fld b 24 2) (fld b 26 2), zeBadField),
          ((s.part p).exist && !(s.part p).destroying, zeNoPartition)] fun _ =>
        .accept ((s.modPart p fun x => { x with memQuota := fld b 16 4 }).setRates p (fld b 20 4) (fld b 24 2) (fld b 26 2))
          false [] }

/-- PART_SET_QUOTA arrives. -/
def execPartSetQuota (q : Nat) (h : CmdHdr) (b : List Byte) (s : State) : Out :=
  zcp "PART_SET_QUOTA" 0x0012 (some partSetQuotaSpec) q h b s

/-! ## MEM_ALLOC and MEM_FREE (R378, R379) -/

/-- Is a memory unit there and free? -/
def State.unitFree (s : State) (u : Nat) : Bool :=
  decide (u < 960) && !(s.fuses.grade == .tx768 && decide (192 ≤ u % 240)) && (s.ownerOfUnit u).isNone

/-- The first unit of the run that MEM_ALLOC takes: anywhere, at FIRST, or on die FIRST (R378). -/
def State.unitRun (s : State) (place first n : Nat) : Option Nat :=
  let starts := if place = 0 then List.range 960 else if place = 1 then [first]
    else ((List.range 240).filter fun i => decide (i + n ≤ 240)).map (240 * first + ·)
  starts.find? fun b => (List.range n).all fun i => s.unitFree (b + i)

/-- Add 1 to a segment's generation (R364). -/
def State.nextGen (s : State) (p k : Nat) : State :=
  { s with gens := Tab.modify 0 s.gens (64 * p + k) fun g => (g + 1) % 2 ^ 23 }

/-- The rkey of a segment (R364). -/
def State.rkey (s : State) (p k : Nat) : Nat := k + 64 * p + 512 * Tab.get 0 s.gens (64 * p + k)

/-- A segment is written. -/
def State.mapSegment (s : State) (p k base limit rights : Nat) (units : Bool) : State :=
  (s.modSeg p k fun _ => { base := base, limit := limit, v := true, rd := bit rights 0, wr := bit rights 1, pl := bit rights 2,
                           rm := bit rights 3, units := units }).nextGen p k

/-- The result of MEM_ALLOC. -/
def State.allocResult (s : State) (p k : Nat) : List Byte :=
  toLE 8 (s.seg p k).base ++ toLE 8 (k * 2 ^ 38) ++ toLE 4 (s.rkey p k)

/-- MEM_ALLOC. -/
def memAllocSpec : CmdSpec :=
  { opcode := 0x0020, inP := true, lenOk := fun n => n == 8, run := fun p _ b s =>
      let k := fld b 0 1
      let kind := fld b 1 1
      let rights := fld b 2 1
      let place := fld b 3 1
      let n := fld b 4 2
      let first := fld b 6 2
      let core := (s.coresOf p).getD first 0
      let fields := if kind = 0 then decide (place ≤ 2) && decide (1 ≤ n) && decide (n ≤ 256)
          && (place != 1 || decide (first + n ≤ 960)) && (place != 2 || decide (first < 4))
        else decide (first < (s.coresOf p).length)
      let run := s.unitRun place first n
      let us := (List.range n).map (run.getD 0 + ·)
      guarded [(decide (k < 64) && decide (kind ≤ 1) && rights / 16 == 0 && !(s.seg p k).v && fields, zeBadField),
          (kind == 1 || decide ((s.unitsOfPart p).length + n ≤ (s.part p).memQuota), zeQuota),
          (kind == 1 || run.isSome, zeResourceTaken),
          (if kind = 1 then !s.coreHedged core else us.all fun u => !s.dieHedged (u / 240), zeFenced)] fun _ =>
        let t := if kind = 1 then s.mapSegment p k (s.aliasOf core 0) 3071 rights false
          else (s.setOwner us (some p)).mapSegment p k (2 ^ 30 * run.getD 0) (n * 2 ^ 18 - 1) rights true
        .accept t false (t.allocResult p k) }

/-- MEM_ALLOC arrives. -/
def execMemAlloc (q : Nat) (h : CmdHdr) (b : List Byte) (s : State) : Out :=
  zcp "MEM_ALLOC" 0x0020 (some memAllocSpec) q h b s

/-- Does a loaded or loading program lie in a segment? -/
def State.programIn (s : State) (p k : Nat) : Bool :=
  (s.part p).progs.any fun g => g.2.kind != 0 && (g.2.seg == k || (g.2.kind == 1 && g.2.routeAddr / 2 ^ 38 % 64 == k && g.2.routeLen != 0))

/-- Does the trace buffer of the partition's present or last run lie in a segment (R372, R387)? -/
def State.traceIn (s : State) (p k : Nat) : Bool :=
  let g := s.seg p k
  match (s.part p).run.trace with
  | some a => decide (g.base ≤ a) && decide (a < g.base + (g.limit + 1) * 4096)
  | none => false

/-- The memory units a segment is made of, as a long MEM_FREE keeps them: the first one and 1,024 times their number. -/
def Segment.unitCode (g : Segment) : Nat := if g.units then unitOf g.base + 1024 * ((g.limit + 1) / 2 ^ 18) else 0

/-- MEM_FREE: at acceptance the segment is invalid and its generation new. -/
def memFreeSpec : CmdSpec :=
  { opcode := 0x0021, inP := true, lenOk := fun n => n == 1, run := fun p seq b s =>
      let k := fld b 0 1
      guarded [(decide (k < 64) && (s.seg p k).v, zeBadField),
          (!(s.part p).run.present && !s.programIn p k && !s.traceIn p k, zePartBusy)] fun _ =>
        let g := s.seg p k
        let s := (s.modSeg p k fun g => { g with v := false }).nextGen p k
        .accept (s.longStart p seq 0x0021 k g.unitCode) true [] }

/-- MEM_FREE arrives. -/
def execMemFree (q : Nat) (h : CmdHdr) (b : List Byte) (s : State) : Out :=
  zcp "MEM_FREE" 0x0021 (some memFreeSpec) q h b s

/-- Every request accepted before a MEM_FREE has ended: its units are zeroed and free (R379). -/
def execMemFreeDone (p k : Nat) (s : State) : Out :=
  match s.longFind p 0x0021 fun l => l.a == k with
  | none => notNow "MEM_FREE_DONE"
  | some l =>
    if s.host.rdma.any fun r => r.part == p && r.seg == k && decide (r.id < l.mark) then notNow "MEM_FREE_DONE"
    else
      let us := (List.range (l.b / 1024)).map (l.b % 1024 + ·)
      .next (((s.zeroUnits us).setOwner us none).longEnd l 0 [])

/-! ## CHAN_POWER (R380) -/

/-- Does a partition own the twelve units of a channel's group (spec/01 R30)? -/
def State.ownsGroup (s : State) (p stack chan : Nat) : Bool :=
  let base := 240 * (stack / 5) + 48 * (stack % 5) + 12 * (chan / 8)
  (List.range 12).all fun i => s.ownerOfUnit (base + i) == some p

/-- CHAN_POWER. -/
def chanPowerSpec : CmdSpec :=
  { opcode := 0x0022, inP := true, lenOk := fun n => n == 3, run := fun p seq b s =>
      let st := fld b 0 1
      let ch := fld b 1 1
      let on := fld b 2 1
      let n := chanNo st ch
      guarded [(decide (st < 20) && decide (ch < 32) && decide (on ≤ 1) && s.ownsGroup p st ch, zeBadField)] fun _ =>
        let s := match s.host.long.find? fun l => l.opcode == 0x0022 && l.a == n with
          | some l => s.longEnd l 0 (toLE 1 (s.chan n).state)
          | none => s
        .accept ((s.reqOff st ch (on == 0)).longStart p seq 0x0022 n on) true [] }

/-- CHAN_POWER arrives. -/
def execChanPower (q : Nat) (h : CmdHdr) (b : List Byte) (s : State) : Out :=
  zcp "CHAN_POWER" 0x0022 (some chanPowerSpec) q h b s

/-- The state a CHAN_POWER asked for is reached. -/
def execChanPowerDone (stack chan : Nat) (s : State) : Out :=
  let n := chanNo stack chan
  match s.host.long.find? fun l => l.opcode == 0x0022 && l.a == n with
  | none => notNow "CHAN_POWER_DONE"
  | some l =>
    if (s.chan n).state ≠ (if l.b = 1 then 0 else 2) then notNow "CHAN_POWER_DONE"
    else .next (s.longEnd l 0 (toLE 1 (s.chan n).state))

/-! ## Windows (R381, R382; spec/11 R291, R294; spec/16 R404) -/

/-- The handle entries of WINDOW_OPEN: (core, slot), or none where one breaks R381. -/
def State.handleEntries (s : State) (p : Nat) (b : List Byte) : Option (List (Nat × Nat)) :=
  let cs := s.coresOf p
  (List.range (fld b 3 1)).mapM fun i =>
    let o := 20 + 4 * i
    if fld b o 2 < cs.length ∧ fld b (o + 2) 1 < 32 ∧ fld b (o + 3) 1 = 0 then some (cs.getD (fld b o 2) 0, fld b (o + 2) 1)
    else none

/-- Write a window handle of a core (spec/11 R290). -/
def State.putHandles (s : State) (es : List (Nat × Nat)) (w epoch : Nat) : State :=
  es.foldl (fun s e => s.modCore e.1 fun k => { k with handles := Tab.set {} k.handles e.2 ⟨w, epoch, true⟩ }) s

/-- The module address of the range WINDOW_OPEN names, and its core for KIND 1; none where the range breaks R291 or R381. -/
def State.windowRange (s : State) (p : Nat) (b : List Byte) : Option (Nat × Nat) :=
  let base := fld b 4 8
  let n := (fld b 12 4 + 1) * 512
  if fld b 2 1 = 0 then
    let g := s.seg p (base / 2 ^ 38 % 64)
    let off := base % 2 ^ 38
    let a := g.base + off
    if base < 2 ^ 44 ∧ base % 512 = 0 ∧ g.v ∧ g.units ∧ off + n ≤ (g.limit + 1) * 4096 then some (a, 0) else none
  else if fld b 2 1 = 1 then
    let off := bits base 47 24
    if bits base 23 16 = 0 ∧ base < 2 ^ 48 ∧ base % 2 ^ 16 < (s.coresOf p).length ∧ off % 512 = 0 ∧ off + n ≤ scratchSize then
      let c := (s.coresOf p).getD (base % 2 ^ 16) 0
      some (s.aliasOf c off, c)
    else none
  else none

/-- Does a range overlap an open window of a partition other than `w`? -/
def State.windowOverlap (s : State) (p w a n : Nat) : Bool :=
  (s.part p).windows.any fun x =>
    x.1 != w && x.2.isOpen && decide (a < x.2.base + (x.2.len + 1) * 512) && decide (x.2.base < a + n)

/-- The lowest free window slot of a core (R291). -/
def State.freeSlot (s : State) (p c : Nat) : Option Nat :=
  (List.range 32).find? fun i => !((s.part p).windows.any fun x =>
    (x.2.held && x.2.kind == 1 && x.2.core == c && x.2.slot == i) || x.2.kept.contains (c, i))

/-- Open a window. The slot of a close of it that is still in progress stays held (spec/11 R291). -/
def State.openWindow (s : State) (p w kind len : Nat) (a : Nat × Nat) (slot : Nat) (es : List (Nat × Nat)) : State :=
  let x := s.window p w
  let e := (x.epoch + 1) % 2 ^ 16
  let held := (if x.held && x.kind == 1 then [(x.core, x.slot)] else []) ++ x.kept
  let s := s.modWindow p w fun _ =>
    { base := a.1, epoch := e, isOpen := true, kind := kind, core := a.2, slot := slot, len := len, held := true, kept := held }
  (s.ownerChanged p w true).putHandles es w e

/-- Of a member that is not the master, a WINDOW_OPEN goes on once the master has answered (spec/16 R404). -/
def State.asked (s : State) (p w what : Nat) (b : List Byte) (r : Reply) : Reply :=
  let k := s.cas p
  if !k.joined || k.master || s.host.parked.any fun x => x.part == p && x.win == w && x.answered then r
  else .park (s.manage p k.masterRank (askBody w k.rank what)) w b

/-- WINDOW_OPEN: VAR 0 opens a window here, VAR 1 writes handles for a window of another member. -/
def windowOpenSpec : CmdSpec :=
  { opcode := 0x0028, inP := true, lenOk := fun n => decide (20 ≤ n), run := fun p _ b s =>
      let var := fld b 0 1
      let w := fld b 1 1
      let kind := fld b 2 1
      let es := s.handleEntries p b
      let r := s.windowRange p b
      let a := r.getD (0, 0)
      let slot := if kind = 1 then s.freeSlot p a.2 else some 0
      let other := s.winRank p w
      let common := decide (var ≤ 1) && decide (fld b 3 1 ≤ 32) && fld b 18 2 == 0 && es.isSome
      if b.length ≠ 20 + 4 * fld b 3 1 then .reject zeBadLength
      else if var = 1 then
        guarded [(common && decide (kind ≤ 1), zeBadField)] fun _ => s.asked p w 1 b <|
          guarded [(!(s.cas p).joined || other.isSome, zeBadField)] fun _ =>
          .accept (s.putHandles (es.getD []) w (fld b 16 2)) false (toLE 2 (fld b 16 2) ++ toLE 1 255)
      else
        guarded [(common && fld b 16 2 == 0 && r.isSome && !(s.window p w).isOpen
              && !s.windowOverlap p w a.1 ((fld b 12 4 + 1) * 512), zeBadField)] fun _ => s.asked p w 0 b <|
          guarded [(other.isNone, zeResourceTaken),
            (slot.isSome, zeQuota)] fun _ =>
          let t := s.openWindow p w kind (fld b 12 4) a (slot.getD 0) (es.getD [])
          .accept t false (toLE 2 (t.window p w).epoch ++ toLE 1 (if kind = 1 then slot.getD 0 else 255)) }

/-- WINDOW_OPEN with VAR other than 1 arrives. -/
def execWindowOpen (q : Nat) (h : CmdHdr) (b : List Byte) (s : State) : Out :=
  if fld b 0 1 = 1 then notNow "WINDOW_OPEN" else zcp "WINDOW_OPEN" 0x0028 (some windowOpenSpec) q h b s

/-- WINDOW_OPEN with VAR 1 arrives. -/
def execWindowOpenHandle (q : Nat) (h : CmdHdr) (b : List Byte) (s : State) : Out :=
  if fld b 0 1 ≠ 1 then notNow "WINDOW_OPEN_HANDLE" else zcp "WINDOW_OPEN_HANDLE" 0x0028 (some windowOpenSpec) q h b s

/-- WINDOW_CLOSE. -/
def windowCloseSpec : CmdSpec :=
  { opcode := 0x0029, inP := true, lenOk := fun n => n == 1, run := fun p seq b s =>
      let w := fld b 0 1
      guarded [((s.window p w).isOpen, zeBadField)] fun _ =>
        .accept ((s.closeWindow p w).longStart p seq 0x0029 w 0) true [] }

/-- WINDOW_CLOSE arrives. -/
def execWindowClose (q : Nat) (h : CmdHdr) (b : List Byte) (s : State) : Out :=
  zcp "WINDOW_CLOSE" 0x0029 (some windowCloseSpec) q h b s

/-- Every copy of a closed window has changed, and every write accepted into it has committed (R294). -/
def execWindowCloseComplete (p w : Nat) (s : State) : Out :=
  match s.longFind p 0x0029 fun l => l.a == w with
  | none => notNow "WINDOW_CLOSE_COMPLETE"
  | some l =>
    if s.windowBusy p (some w) then notNow "WINDOW_CLOSE_COMPLETE"
    else .next ((s.modWindow p w fun x =>
      if x.kept.isEmpty then { x with held := x.isOpen, copies := [] } else { x with kept := x.kept.dropLast }).longEnd l 0 [])

/-! ## The refill (spec/11 R284, R286) -/

/-- The bucket depth of a die (R285). -/
def pdepth (rate : Nat) : Nat := max 65536 (400 * rate)

/-- Refill the partition buckets. -/
def Part.refill (x : Part) : Part :=
  { x with buckets := (List.range 4).foldl (fun t d =>
      let b := Tab.get (0, 0) t d
      if b.1 = 0 ∧ b.2 = 0 then t else Tab.set (0, 0) t d (b.1, min (b.2 + 100 * b.1) (pdepth b.1))) x.buckets }

/-- Refill a core's bucket: its rate is in force from now on, and its depth bounds the tokens whatever the rate (R286). -/
def Core.refill (k : Core) : Core :=
  { k with tokens := min (k.tokens + k.rate * 100) (k.burst * 1024), rateNow := k.rate }

/-- Is the counter at a multiple of 100 at which no refill has happened yet? -/
def State.refillDue (s : State) : Bool := s.now % 100 == 0 && s.clk.lastRefill != some s.now

/-- Every bucket refills. -/
def State.refillAll (s : State) : State :=
  let s := partNumbers.foldl (fun s p => if (s.part p).exist then s.modPart p Part.refill else s) s
  { s with cores := s.cores.map fun c => (c.1, c.2.refill), clk := { s.clk with lastRefill := some s.now } }

/-- At each stamp that is a multiple of 100, every bucket refills, once. -/
def execTokenRefill (s : State) : Out := if s.refillDue && s.mgt.moduleOn then .next s.refillAll else notNow "TOKEN_REFILL"

end Sys2Proof.Machine
end

