-- ==== Sys2Proof/Machine/Sm3.lean ====
section
/-!
DEFINITION. Sys2Proof/Machine/Sm3.lean: the SM3 digest the module's digests are formed with (spec/00 R7, spec/06 R169).
PRESUMED: the spec names SM3 and not its rounds; they are those of the published standard GB/T 32905 (notes/assumptions).
-/
namespace Sys2Proof.Machine

/-- A 32-bit word of SM3. -/
abbrev W32 := BitVec 32

/-- The first permutation. -/
def sm3P0 (x : W32) : W32 := x ^^^ x.rotateLeft 9 ^^^ x.rotateLeft 17
/-- The second permutation. -/
def sm3P1 (x : W32) : W32 := x ^^^ x.rotateLeft 15 ^^^ x.rotateLeft 23

/-- The boolean functions of round j. -/
def sm3FF (j : Nat) (x y z : W32) : W32 := if j < 16 then x ^^^ y ^^^ z else (x &&& y) ||| (x &&& z) ||| (y &&& z)
/-- The boolean functions of round j. -/
def sm3GG (j : Nat) (x y z : W32) : W32 := if j < 16 then x ^^^ y ^^^ z else (x &&& y) ||| (~~~x &&& z)

/-- The round constant of round j. -/
def sm3T (j : Nat) : W32 := if j < 16 then 0x79CC4519 else 0x7A879D8A

/-- The eight chaining words. -/
structure Sm3Reg where
  a : W32
  b : W32
  c : W32
  d : W32
  e : W32
  f : W32
  g : W32
  h : W32
  deriving DecidableEq, Repr

/-- The initial value. -/
def Sm3Reg.iv : Sm3Reg :=
  ⟨0x7380166F, 0x4914B2B9, 0x172442D7, 0xDA8A0600, 0xA96F30BC, 0x163138AA, 0xE38DEE4D, 0xB0FB0E4E⟩

/-- Big-endian 32-bit words of a list of bytes. -/
def beWords : List Byte → List W32
  | a :: b :: c :: d :: t => (a ++ b ++ c ++ d : BitVec 32) :: beWords t
  | _ => []

/-- The word that follows in the expansion, from the words so far newest first. -/
def sm3Next (ws : List W32) : W32 :=
  let g (i : Nat) : W32 := ws.getD (i - 1) 0
  sm3P1 (g 16 ^^^ g 9 ^^^ (g 3).rotateLeft 15) ^^^ (g 13).rotateLeft 7 ^^^ g 6

/-- The expanded words, newest first. -/
def sm3Expand : Nat → List W32 → List W32
  | 0, ws => ws
  | n + 1, ws => sm3Expand n (sm3Next ws :: ws)

/-- One round. -/
def sm3Round (j : Nat) (w w4 : W32) (r : Sm3Reg) : Sm3Reg :=
  let ss1 := (r.a.rotateLeft 12 + r.e + (sm3T j).rotateLeft (j % 32)).rotateLeft 7
  let ss2 := ss1 ^^^ r.a.rotateLeft 12
  let tt1 := sm3FF j r.a r.b r.c + r.d + ss2 + (w ^^^ w4)
  let tt2 := sm3GG j r.e r.f r.g + r.h + ss1 + w
  ⟨tt1, r.a, r.b.rotateLeft 9, r.c, sm3P0 tt2, r.e, r.f.rotateLeft 19, r.g⟩

/-- The 64 rounds over expanded words. -/
def sm3Rounds : Nat → List W32 → Sm3Reg → Sm3Reg
  | _, [], r => r
  | j, w :: ws, r => if j < 64 then sm3Rounds (j + 1) ws (sm3Round j w (ws.getD 3 0) r) else r

/-- The compression of one 64-byte block. -/
def sm3Block (r : Sm3Reg) (bs : List Byte) : Sm3Reg :=
  let ws := (sm3Expand 52 (beWords bs).reverse).reverse
  let n := sm3Rounds 0 ws r
  ⟨n.a ^^^ r.a, n.b ^^^ r.b, n.c ^^^ r.c, n.d ^^^ r.d, n.e ^^^ r.e, n.f ^^^ r.f, n.g ^^^ r.g, n.h ^^^ r.h⟩

/-- Fold the compression over `n` blocks. -/
def sm3Blocks : Nat → List Byte → Sm3Reg → Sm3Reg
  | 0, _, r => r
  | n + 1, bs, r => sm3Blocks n (bs.drop 64) (sm3Block r (bs.take 64))

/-- Big-endian bytes of a number. -/
def toBE (k n : Nat) : List Byte := (toLE k n).reverse

/-- The padded message. -/
def sm3Pad (bs : List Byte) : List Byte :=
  let n := bs.length
  let z := (119 - n % 64) % 64
  bs ++ 0x80 :: (List.replicate z 0 ++ toBE 8 (8 * n))

/-- The 32-byte SM3 digest, first byte first. -/
def sm3 (bs : List Byte) : List Byte :=
  let p := sm3Pad bs
  let r := sm3Blocks (p.length / 64) p .iv
  [r.a, r.b, r.c, r.d, r.e, r.f, r.g, r.h].flatMap fun w => toBE 4 w.toNat

end Sys2Proof.Machine
end

