-- ==== Sys2Proof/Machine/Programs.lean ====
section
/-!
DEFINITION. Sys2Proof/Machine/Programs.lean: PROG_LOAD and PROG_UNLOAD with the checks of a binary, its route image, and a
diagnostic image (spec/06 R169 to R173; spec/09 R242; spec/12 R307 to R314; spec/15 R383).
-/
namespace Sys2Proof.Machine

/-! ## The binary (spec/06 R169 to R172) -/

/-- The bytes with 32 bytes at `off` set to zero. -/
def zeroDigest (b : List Byte) (off : Nat) : List Byte := b.take off ++ List.replicate 32 0 ++ b.drop (off + 32)

/-- Does the SM3 of an image equal the digest it carries at byte 32? -/
def digestOk (b : List Byte) : Bool := sm3 (zeroDigest b 32) == (b.drop 32).take 32

/-- CORES of a manifest. -/
def binCores (b : List Byte) : Nat := fld b 20 2
/-- NBUCKET of a manifest. -/
def binBuckets (b : List Byte) : Nat := fld b 22 2
/-- NVAR of a manifest. -/
def binVars (b : List Byte) : Nat := fld b 24 2

/-- An entry of the core table (R172). -/
structure CoreEntry where
  entry  : Nat
  pblk   : Nat
  pcount : Nat
  dcount : Nat
  psrc   : Nat
  dsrc   : Nat
  clean  : Bool
  deriving DecidableEq, Repr

/-- The core table entry of bucket `k` and partition core `i`. -/
def coreEntry (b : List Byte) (k i : Nat) : CoreEntry :=
  let o := fld b 80 8 + 32 * (k * binCores b + i)
  ⟨fld b o 2, fld b (o + 2) 1, fld b (o + 3) 1, fld b (o + 4) 1, fld b (o + 8) 8, fld b (o + 16) 8,
   fld b (o + 5) 3 == 0 && fld b (o + 24) 8 == 0⟩

/-- The bound of a shape variable in a bucket (R171). -/
def bucketBound (b : List Byte) (k v : Nat) : Nat := fld b (fld b 72 8 + 64 * k + 4 * v) 4

/-- The compiled cycle count of a bucket. -/
def bucketCycles (b : List Byte) (k : Nat) : Nat := fld b (fld b 72 8 + 64 * k + 32) 8

/-- A core table entry keeps R172 and check 8 of R173. -/
def CoreEntry.ok (e : CoreEntry) (length : Nat) : Bool :=
  e.clean && decide (e.entry < 8192) && decide (1 ≤ e.pcount) && decide (e.pcount ≤ 16) && decide (e.dcount ≤ 32)
    && e.psrc % 4096 == 0 && e.dsrc % 4096 == 0 && decide (e.pblk ≤ e.entry / 64) && decide (e.entry / 64 < e.pblk + e.pcount)
    && decide (e.pblk + e.pcount ≤ 128) && decide (e.psrc + 4096 * e.pcount ≤ length)
    && decide (e.dsrc + 4096 * e.dcount ≤ length)

/-- Check 8 of R173. -/
def tablesOk (b : List Byte) : Bool :=
  let length := fld b 64 8
  let nb := binBuckets b
  decide (1 ≤ nb) && decide (nb ≤ 16) && decide (binVars b ≤ 8) && decide (fld b 72 8 + 64 * nb ≤ length)
    && decide (fld b 80 8 + 32 * nb * binCores b ≤ length)
    && (List.range nb).all (fun k =>
      (List.range 8).all (fun v => decide (v < binVars b) || bucketBound b k v == 0) && fld b (fld b 72 8 + 64 * k + 40) 24 == 0)
    && (List.range nb).all fun k => (List.range (binCores b)).all fun i => (coreEntry b k i).ok length

/-- The features of the part as the bits of R170. -/
def State.features (s : State) : Nat := if s.fuses.grade = .tx960 then 31 else 0

/-- Checks 1 to 8 of R173 on a binary of `n` bytes. -/
def State.checkBinary (s : State) (p : Nat) (b : List Byte) (n : Nat) : Option Nat :=
  firstFail [(fld b 0 4 == 0x31585952 && fld b 4 2 == 1 && fld b 6 2 == 256 && fld b 64 8 == n && n % 4096 == 0
        && fld b 26 6 == 0 && fld b 88 168 == 0 && fld b 19 1 / 2 == 0 && fld b 8 8 / 32 == 0, zeBadField),
    (digestOk b, zeImageDigest),
    ((fld b 8 8 &&& s.features) == fld b 8 8, zeFeatureAbsent),
    (fld b 18 1 == (if s.fuses.grade = .tx960 then 1 else 2), zeProfileMismatch),
    (fld b 16 1 == (if s.fuses.stepping = .a1 || (s.part p).hold then 1 else 2), zeProfileMismatch),
    (fld b 17 1 == 1, zeProfileMismatch),
    (decide (1 ≤ binCores b) && decide (binCores b ≤ (s.coresOf p).length), zeBadField),
    (tablesOk b, zeBadField)]

/-! ## The route image (spec/12 R307, R308, R310, R311, R314) -/

/-- A route table entry (R308). -/
def Route.ofNat (w : Nat) : Route :=
  { tag := bits w 15 0, v := bit w 16, plane := bits w 17 17, kind := bits w 19 18, index := bits w 21 20, core := bits w 40 32,
    rank := bits w 53 41, xmod := bit w 54 }

/-- A ring setting (R314). -/
def Ring.ofNat (w : Nat) : Ring :=
  { base := bits w 23 0, size := bits w 27 24, v := bit w 28, relCnt := bits w 34 29, status := bits w 58 35 }

/-- The word of route table entry `j` of partition core `i`. -/
def routeWord (r : List Byte) (i j : Nat) : Nat := fld r (64 + 4160 * i + 16 * j) 16

/-- The ring setting `j` of partition core `i`. -/
def ringWord (r : List Byte) (i j : Nat) : Nat := fld r (64 + 4160 * i + 4096 + 16 * j) 16

/-- The clock regions a partition owns, ascending. -/
def State.regionsOf (s : State) (p : Nat) : List Nat := (List.range 16).filter fun r => bit (s.part p).regions r

/-- May partition `p` have this route on core `c` (R311)? -/
def State.routeOk (s : State) (p c w : Nat) : Bool :=
  let r := Route.ofNat w
  let here := (s.coresOf p).contains r.core
  bits w 31 22 == 0 && bits w 127 55 == 0
    && (!r.v || (r.kind != 3
      && (if r.plane = 0 then !r.xmod && here && s.dieOf r.core == s.dieOf c else r.xmod || here)))

/-- Do two ranges, (start, length), share a byte? -/
def rangesMeet (a b : Nat × Nat) : Bool := decide (a.1 < b.1 + b.2) && decide (b.1 < a.1 + a.2)

/-- Is no range of a list met by a later one? -/
def disjoint : List (Nat × Nat) → Bool
  | [] => true
  | a :: t => (t.all fun b => !rangesMeet a b) && disjoint t

/-- The ring settings of a core keep R314. -/
def ringsOk (ws : List Nat) : Bool :=
  let rs := (ws.map Ring.ofNat).filter fun r => r.v
  let areas : List (Nat × Nat) := (rs.map fun r => (r.base, r.z)) ++ rs.map fun r => (r.status, 32)
  (ws.all fun w => bits w 127 59 == 0)
    && (rs.all fun r => decide (r.size ≤ 8) && r.base % r.z == 0 && r.status % 32 == 0)
    && (areas.all fun x => decide (x.1 + x.2 ≤ scratchSize))
    && disjoint areas
    && decide (rs.map Ring.relCnt).Nodup

/-- The place a router faces in a direction (0 north, 1 east, 2 south, 3 west), if it lies on the die (spec/01 R21). -/
def facing (place dir : Nat) : Option Nat :=
  match dir with
  | 0 => if place < 9 then none else some (place - 9)
  | 1 => if place % 9 = 8 then none else some (place + 1)
  | 2 => if 63 ≤ place then none else some (place + 9)
  | _ => if place % 9 = 0 then none else some (place - 1)

/-- Does a direction from a place stay within the partition's regions of a die (spec/01 R38)? -/
def State.staysIn (s : State) (p die place dir : Nat) : Bool :=
  match facing place dir with
  | some q => bit (s.part p).regions (4 * die + q / 18)
  | none => false

/-- One slot table entry keeps R310, R311 and spec/01 R23. -/
def State.slotOk (s : State) (p die place output v : Nat) : Bool :=
  decide (v ≤ 5) && (v == 0 ||
    ((output == 4 || s.staysIn p die place output) && (if v = 5 then output != 4 else s.staysIn p die place (v - 1))))

/-- The router records of a route image: (region, router within it, byte offset). -/
def State.routers (s : State) (p cores : Nat) : List (Nat × Nat × Nat) :=
  ((s.regionsOf p).zip (List.range 16)).flatMap fun x =>
    (List.range 18).map fun j => (x.1, j, 64 + 4160 * cores + 320 * (18 * x.2 + j))

/-- The checks of R311 and check 9 of R173 on a route image of `n` bytes. -/
def State.checkRoutes (s : State) (p cores : Nat) (r : List Byte) (n : Nat) : Option Nat :=
  let regions := (s.regionsOf p).length
  let cs := s.coresOf p
  firstFail [(fld r 0 4 == 0x31545452 && fld r 4 2 == 1 && fld r 6 2 == 64 && fld r 8 2 == cores && fld r 10 1 == regions
        && fld r 11 21 == 0 && n == 64 + 4160 * cores + 320 * 18 * regions, zeBadField),
    (digestOk r, zeImageDigest),
    ((List.range cores).all (fun i =>
      let ws := (List.range 256).map (routeWord r i)
      (ws.all fun w => s.routeOk p (cs.getD i 0) w)
        && decide (((ws.map Route.ofNat).filter Route.v).map Route.tag).Nodup
        && ringsOk ((List.range 4).map (ringWord r i))), zeBadField),
    ((s.routers p cores).all (fun x =>
      (List.range 320).all fun k =>
        s.slotOk p (x.1 / 4) (18 * (x.1 % 4) + x.2.1) (k / 64) (fld r (x.2.2 + k) 1)), zeBadField)]

/-! ## Diagnostic images (spec/09 R242) -/

/-- Is an image a diagnostic one? -/
def isDiag (b : List Byte) : Bool := fld b 0 4 == 0x31474944

/-- The checks of R242 on an image of `n` bytes. -/
def State.checkDiag (s : State) (b : List Byte) (n routeLen : Nat) : Option Nat :=
  let entry := fld b 8 4
  let pblk := fld b 12 1
  let pcount := fld b 13 1
  let grade := fld b 14 1
  firstFail [(fld b 4 2 == 1 && fld b 6 2 == 64 && entry % 4 == 0 && decide (pblk ≤ entry / 4096)
        && decide (entry / 4096 < pblk + pcount) && decide (1 ≤ pcount) && decide (pblk + pcount ≤ 128) && decide (grade ≤ 2)
        && fld b 15 1 == 0 && fld b 20 4 == 0 && decide (1 ≤ fld b 16 4) && decide (fld b 16 4 ≤ 60000000)
        && fld b 24 8 == 4096 * (pcount + 1) && fld b 24 8 == n && routeLen == 0, zeBadField),
    (digestOk b, zeImageDigest),
    (grade == 0 || grade == (if s.fuses.grade = .tx960 then 1 else 2), zeProfileMismatch)]

/-! ## PROG_LOAD and PROG_UNLOAD (spec/15 R383) -/

/-- A program slot. -/
def State.prog (s : State) (p h : Nat) : ProgSlot := Tab.get {} (s.part p).progs h

/-- Write a program slot. -/
def State.setProg (s : State) (p h : Nat) (g : ProgSlot) : State :=
  s.modPart p fun x => { x with progs := Tab.set {} x.progs h g }

/-- Does a range of the partition space lie in one valid segment that satisfies a test? -/
def State.inSegment (s : State) (p a n : Nat) (ok : Segment → Bool) : Bool :=
  let g := s.seg p (a / 2 ^ 38 % 64)
  decide (a < 2 ^ 44) && g.v && ok g && decide (a % 2 ^ 38 + n ≤ (g.limit + 1) * 4096)

/-- A program of a partition that lies in a segment, other than in slot `h`. -/
def State.neighbour (s : State) (p k h : Nat) : Option ProgSlot :=
  ((s.part p).progs.find? fun g => g.1 != h && g.2.kind != 0 && g.2.seg == k).map Prod.snd

/-- A slot is emptied; WR and RM of its segment return where no other program lies in it. -/
def State.emptySlot (s : State) (p h : Nat) : State :=
  let g := s.prog p h
  let s := s.setProg p h {}
  if (s.neighbour p g.seg h).isSome then s else s.modSeg p g.seg fun x => { x with wr := g.wr, rm := g.rm }

/-- PROG_LOAD. -/
def progLoadSpec : CmdSpec :=
  { opcode := 0x0030, inP := true, lenOk := fun n => n == 36, run := fun p seq b s =>
      let h := fld b 0 1
      let bin := fld b 8 8
      let n := fld b 16 8
      let rt := fld b 24 8
      let m := fld b 32 4
      let k := bin / 2 ^ 38 % 64
      let g := s.prog p h
      guarded [(g.kind != 1, zePartBusy),
          (decide (h < 16) && fld b 1 7 == 0 && g.kind == 0 && decide (1 ≤ n) && s.inSegment p bin n (fun x => x.rd && x.pl)
            && ((rt == 0 && m == 0) || s.inSegment p rt m fun x => x.rd), zeBadField)] fun _ =>
        let x := s.seg p k
        let other := s.neighbour p k h
        let slot : ProgSlot := { kind := 1, seg := k, addr := bin, len := n, routeAddr := rt, routeLen := m,
                                 wr := (other.map ProgSlot.wr).getD x.wr, rm := (other.map ProgSlot.rm).getD x.rm }
        .accept (((s.modSeg p k fun x => { x with wr := false, rm := false }).setProg p h slot).longStart p seq 0x0030 h k)
          true [] }

/-- PROG_LOAD arrives. -/
def execProgLoad (q : Nat) (h : CmdHdr) (b : List Byte) (s : State) : Out :=
  zcp "PROG_LOAD" 0x0030 (some progLoadSpec) q h b s

/-- A write into a segment accepted before its rights changed, and not yet committed (R383). -/
def State.segmentBusy (s : State) (p k : Nat) : Bool :=
  let g := s.seg p k
  (s.host.rdma.any fun r => r.part == p && r.seg == k)
    || s.xfers.any fun x => x.part == p && (x.kind == .store || x.kind == .scatter)
        && (x.stage == .waiting || x.stage == .launched || x.stage == .accepted) && (x.foreign || x.xrank.isNone)
        && decide (g.base ≤ x.dst) && decide (x.dst < g.base + (g.limit + 1) * 4096)

/-- Read a place of the module for the command processor: memory, or a scratchpad, which a core that is hedged or in micro mode does not
give (spec/11 R287); none where a byte cannot be read. -/
def State.readPlace (s : State) (a n : Nat) : State × Option (List Byte) :=
  match s.locate a with
  | .scratch c _ => (s, if s.coreShut c then none else some (s.bytesAt a n))
  | _ =>
    let r := s.readMem a n []
    (r.state, if r.err.isSome then none else some r.data)

/-- Read an image of the partition space; none where a byte cannot be read. -/
def State.readImage (s : State) (p a n : Nat) : State × Option (List Byte) :=
  if n = 0 then (s, some []) else s.readPlace ((s.seg p (a / 2 ^ 38 % 64)).base + a % 2 ^ 38) n

/-- The first failing check of a load: of a binary with its route image, or of a diagnostic image. What cannot be read fails as
a digest (DEDUCED, n10). -/
def State.checkLoad (s : State) (p : Nat) (g : ProgSlot) (bin route : Option (List Byte)) : Option Nat :=
  match bin with
  | none => some zeImageDigest
  | some b =>
    if isDiag b then s.checkDiag b g.len g.routeLen
    else match s.checkBinary p b g.len with
      | some e => some e
      | none => match route with
        | none => some zeImageDigest
        | some r => s.checkRoutes p (binCores b) r g.routeLen

/-- The checks of a PROG_LOAD end (R173, R383). The result of CMD_DONE is one byte, bit 0 of REDUCE of a binary (spec/13 R328: it is reported;
where is a DESIGN CHOICE, n10). -/
def execProgLoadDone (p h : Nat) (s : State) : Out :=
  match s.longFind p 0x0030 fun l => l.a == h with
  | none => notNow "PROG_LOAD_DONE"
  | some l =>
    let g := s.prog p h
    if s.segmentBusy p g.seg then notNow "PROG_LOAD_DONE"
    else
      let x := s.readImage p g.addr g.len
      let y := x.1.readImage p g.routeAddr g.routeLen
      let s := y.1
      match s.checkLoad p g x.2 y.2 with
      | some e => .next ((s.emptySlot p h).longEnd l e [])
      | none =>
        let b := x.2.getD []
        let g := { g with kind := if isDiag b then 3 else 2, route := y.2.getD [], digest := (b.drop 32).take 32 }
        .next ((s.setProg p h g).longEnd l 0 (if isDiag b then [] else toLE 1 (fld b 19 1 % 2)))

/-- PROG_UNLOAD. -/
def progUnloadSpec : CmdSpec :=
  { opcode := 0x0031, inP := true, lenOk := fun n => n == 1, run := fun p _ b s =>
      let h := fld b 0 1
      let g := s.prog p h
      let r := (s.part p).run
      guarded [(g.kind != 0, zeNoProgram), (g.kind != 1 && !(r.present && r.handle == h), zePartBusy)] fun _ =>
        .accept (s.emptySlot p h) false [] }

/-- PROG_UNLOAD arrives. -/
def execProgUnload (q : Nat) (h : CmdHdr) (b : List Byte) (s : State) : Out :=
  zcp "PROG_UNLOAD" 0x0031 (some progUnloadSpec) q h b s

end Sys2Proof.Machine
end

