-- ==== Sys2Proof/Machine/Runs.lean ====
section
/-!
DEFINITION. Sys2Proof/Machine/Runs.lean: RUN, its start, its close and its end, RUN_ABORT and RUN_STATUS (spec/15 R384 to R386;
spec/06 R174, R175; spec/03 R97; spec/09 R243; spec/12 R305).
-/
namespace Sys2Proof.Machine

/-! ## The owner of a unit (spec/15 R389, spec/17 R425) -/

/-- The memory units of the group a channel belongs to (spec/01 R28, R29). -/
def chanUnits (index : Nat) : List Nat :=
  (List.range 12).map (240 * (index / 32 / 5) + 48 * (index / 32 % 5) + 12 * (index % 32 / 8) + ·)

/-- Does a partition have cores on a die? -/
def State.onDie (s : State) (p d : Nat) : Bool := (s.part p).exist && (s.part p).regions / 2 ^ (4 * d) % 16 != 0

/-- The one partition of a list that names no other. -/
def soleOf : List Nat → Option Nat
  | [] => none
  | p :: t => if t.all (· == p) then some p else none

/-- The partition that owns a unit: domain and index of R373. A compute die's is the one with regions on it, a channel's the one that owns
the memory units of its group, where it is one alone (DEDUCED, n10). -/
def State.unitPart (s : State) (domain index : Nat) : Option Nat :=
  match domain with
  | 0 => s.partOf index
  | 1 => s.regionOwner index
  | 2 => soleOf (partNumbers.filter fun p => s.onDie p index)
  | 3 => soleOf ((chanUnits index).filterMap s.ownerOfUnit)
  | 4 => partNumbers.find? fun p => (s.part p).exist && bit (s.part p).links index
  | 5 => partNumbers.find? fun p => (s.part p).exist && bit (s.part p).ports index
  | _ => none

/-- Does a hedge of a unit touch a partition's resources (spec/15 R370)? One of a channel touches every partition that owns a memory
unit of its group. -/
def State.touches (s : State) (domain index p : Nat) : Bool :=
  if domain = 2 then s.onDie p index
  else if domain = 3 then (chanUnits index).any fun u => s.ownerOfUnit u == some p
  else s.unitPart domain index == some p

/-- A recovery of a unit ends now (spec/17 R425). -/
def State.endRecovery (s : State) (domain index : Nat) : State :=
  let e := s.err
  let stop (y : Recovery) : Recovery :=
    if y.domain = domain ∧ y.index = index ∧ y.stop.isNone then { y with stop := some s.now } else y
  { s with err := { e with recoveries := e.recoveries.map stop } }

/-- A unit returns to service: LG_UNHEDGE (spec/17 R426). Its recovery is over, but for that of a channel, which lasts 40 µs (R425). -/
def State.unhedge (s : State) (domain index : Nat) : State :=
  let e := s.err
  let s := { s with err := { e with hedges := e.hedges.filter fun h => !(h.domain == domain && h.index == index) } }
  (if domain = 3 then s else s.endRecovery domain index).logEntry domain index (s.unitPart domain index) 0x0051
    (toLE 2 domain ++ toLE 2 index)

/-! ## Links in and out of cascade service (spec/16 R401, R406, R411, R416) -/

/-- Does a link belong to the cascade of a partition that has joined? -/
def State.linkServes (s : State) (l : Nat) : Bool :=
  (s.link l).role != 7 && (match s.unitPart 4 l with | some p => (s.cas p).joined | none => false)

/-- A link is in cascade service again: the packets that wait on links of its direction, or of its connector, that are neither in service nor
retraining leave on those that now serve (R406). -/
def State.regather (s : State) (p l : Nat) : State :=
  let waits (s : State) (j : Nat) : Bool :=
    let x := s.link j
    bit (s.part p).links j && !x.packets.isEmpty && (x.role == (s.link l).role || (x.role == 7 && j / 8 == (s.link l).role))
      && x.state != 3 && !(x.state == 1 && x.role != 7)
  (List.range 64).foldl (fun s j => if waits s j then s.rehome p j else s) s

/-- A link to a torus neighbour is in service again: one that was lost has returned (R411, R417). -/
def State.memberBack (s : State) (p l : Nat) : State :=
  let r := (s.link l).peerRank
  if (s.cas p).joined && (s.cas p).lost.contains r && decide ((s.link l).role < 6) then
    (s.modCascade p fun k => { k with lost := k.lost.filter (· != r) }).tellCascade p 4 r s.now
  else s

/-- A link re-enters cascade service, with what waited on it. -/
def State.reenter (s : State) (p l : Nat) : State :=
  let s := (s.modLink l fun x => { x with state := 3, since := s.ns }).endRecovery 4 l
  ((s.memberBack p l).rehome p l).regather p l

/-- LG_TWIN_MISMATCH and TWIN_MISMATCH (R416, R417). -/
def State.twinMismatch (s : State) (p ordinal reason entry : Nat) (own other : List Byte) : State :=
  let k := s.cas p
  let dig (b : List Byte) : List Byte := (b ++ List.replicate 32 0).take 32
  let s := s.logEntry 12 0 (some p) 0x0046 (toLE 8 ordinal ++ toLE 1 reason)
  (s.event p 0x8006 (toLE 8 k.twinIdent ++ toLE 8 ordinal ++ toLE 1 reason ++ toLE 1 entry ++ toLE 2 k.rank ++ dig own ++ dig other)).modCascade
    p fun x => { x with twinOwn := none, twinOther := none }

/-- A member that waits for its partner's packet finds GL62 and GL63 both out of service (R416). -/
def State.twinCut (s : State) (p : Nat) : State :=
  match (s.cas p).twinOwn with
  | some a => if s.twinUp then s else s.twinMismatch p a.1 5 0 [] []
  | none => s

/-- A link in service has left it: was it the last one of its direction (R406), or of the twin exchange? -/
def State.linkGone (s : State) (p l : Nat) : State := (s.checkDirection p (s.link l).role).twinCut p

/-- With the end of a partition's run, its links that returned during it re-enter cascade service (spec/16 R401). -/
def State.relink (s : State) (p : Nat) : State :=
  let back := (List.range 64).filter fun l => s.unitPart 4 l == some p && (s.link l).state == 2 && s.linkServes l
  back.foldl (fun s l => s.reenter p l) s

/-- The repeat hedges of a partition's units end with its run: a channel returns at once, another unit goes through its return
procedure (spec/17 R425, R426). -/
def State.endRepeats (s : State) (p : Nat) : State :=
  let ended := s.err.hedges.filter fun h => h.kind == 2 && h.returning.isNone && s.unitPart h.domain h.index == some p
  ended.foldl (fun s h =>
    if h.domain = 3 then s.unhedge h.domain h.index
    else
      let e := s.err
      let back (g : Hedge) : Hedge := if g.domain = h.domain ∧ g.index = h.index then { g with returning := some (8, 0) } else g
      { s with err := { e with hedges := e.hedges.map back } }) s

/-- CORE_MICRO_STAT (R230). -/
def Micro.stat (m : Micro) : Nat :=
  m.pc % 2 ^ 19 + 2 ^ 19 * b2n m.running + 2 ^ 20 * b2n m.halted + 2 ^ 21 * b2n m.faulted + 2 ^ 22 * b2n m.aborted
    + 2 ^ 32 * m.mfc + 2 ^ 40 * m.exit

/-! ## RUN (spec/15 R384) -/

/-- The bytes of a loaded image. -/
def State.imageBytes (s : State) (p : Nat) (g : ProgSlot) : List Byte :=
  s.bytesAt ((s.seg p g.seg).base + g.addr % 2 ^ 38) g.len

/-- select_bucket of R174. -/
def selectBucket (b : List Byte) (sv : List Nat) : Option Nat :=
  (List.range (binBuckets b)).foldl (fun best k =>
    let fits := (List.range (binVars b)).all fun v => decide (sv.getD v 0 ≤ bucketBound b k v)
    match best with
    | none => if fits then some k else none
    | some j => if fits && decide (bucketCycles b k < bucketCycles b j) then some k else some j) none

/-- The effects of R175 step 2, and of every rule that clears a core's registers when a run starts. -/
def Core.prepare (k : Core) (shape : Tab Nat) (bucket entry : Nat) : Core :=
  { k.closeRows with
    bucket := bucket, entry := entry, next := entry, running := false, halted := false, faulted := false, cycle := 0,
    startCyc := 0, due := 0, dueStamp := none, halting := none, haltSigs := [], stalls := 0, stallOp := 0, stallCause := 0,
    stallValid := false, stallStamp := 0, illCount := 0, illOp := 0, illReason := 0, illDue := false, legalBlk := none, arith := {}, loops := [],
    shape := shape, windows := [], pend := [], pvalid := 0, dvalid := 0, powner := [], downer := [], jobs := [],
    tried := 0, passed := 0, stallOpen := false, vhold := [], holdV := 0, unmarked := none,
    later := k.later.filter fun x => (match x.2 with | .inc _ _ _ _ _ => true | _ => false), wp0 := [], wp1 := [], potBusy := 0 }

/-- What is cleared on every core of the partition when a run starts: the port FIFOs, the counts of messages, the contents of the rings,
STRAY (spec/12 R306, R313, R314, R318). -/
def Core.clearMessages (k : Core) : Core :=
  { k with ports := [], sendTag := 0, sendOp := 0, sendReason := 0, sendStamp := 0, sent := 0, refused := 0,
           rings := k.rings.map fun r =>
             (r.1, { r.2 with head := 0, tail := 0, used := 0, recs := [], refused := 0, written := 0 }) }

/-- Part of a start load: `n` blocks of 4,096 bytes from an offset of the image, read with the right PL (R175). -/
def State.readBlocks (s : State) (p addr off n : Nat) : State × Option (List Byte) :=
  if n = 0 then (s, some [])
  else match s.translate p (addr + off) (4096 * n) .pl with
    | none => (s, none)
    | some a => s.readPlace a (4096 * n)

/-- Blocks `first` to `first + n - 1` as bits. -/
def blockBits (first n : Nat) : Nat := (2 ^ n - 1) * 2 ^ first

/-- The start load of a core; none if it fails. Its bytes are paid for from the partition's bucket, as far as tokens are there (spec/11
R280, R284; DESIGN CHOICE, n8). -/
def State.startLoad (s : State) (p addr c : Nat) (e : CoreEntry) : State × Bool :=
  let x := s.readBlocks p addr e.psrc e.pcount
  let y := x.1.readBlocks p addr e.dsrc e.dcount
  match x.2, y.2 with
  | some pb, some db =>
    ((y.1.payBucket c p (4096 * (e.pcount + e.dcount))).modCore c fun k =>
      { k with pstore := Memory.write k.pstore (4096 * e.pblk) pb, pvalid := blockBits e.pblk e.pcount,
               dtable := Memory.write k.dtable 0 db, dvalid := blockBits 0 e.dcount }, true)
  | _, _ => (y.1, false)

/-- Every start load, in core order. -/
def State.startLoads (s : State) (p addr : Nat) (es : List (Nat × CoreEntry)) : State × Bool :=
  es.foldl (fun (t : State × Bool) e => if t.2 then t.1.startLoad p addr e.1 e.2 else t) (s, true)

/-- The tables of a route image go into the cores and routers (spec/12 R307). -/
def State.writeRoutes (s : State) (p cores : Nat) (r : List Byte) : State :=
  let cs := s.coresOf p
  let s := (cs.zip (List.range cs.length)).foldl (fun s x =>
    s.modCore x.1 fun k =>
      if x.2 < cores then
        { k with routes := (List.range 256).foldl (fun t j => Tab.set {} t j (Route.ofNat (routeWord r x.2 j))) [],
                 rings := (List.range 4).foldl (fun t j => Tab.set {} t j (Ring.ofNat (ringWord r x.2 j))) [] }
      else { k with routes := [], rings := [] }) s
  { s with slotTables := (s.routers p cores).foldl (fun m x =>
      Memory.write m (320 * (72 * (x.1 / 4) + 18 * (x.1 % 4) + x.2.1)) ((r.drop x.2.2).take 320)) s.slotTables }

/-- Counters of a partition whose STRAY is set (spec/12 R306). -/
def State.strays (s : State) (p : Nat) : Nat :=
  (s.coresOf p).foldl (fun n c => n + ((s.core c).cnts.filter fun x => x.2.stray).length) 0

/-- Clear STRAY. -/
def Core.clearStray (k : Core) : Core :=
  (List.range 64).foldl (fun k n => if (k.cnt n).stray then k.setCnt n { k.cnt n with stray := false } else k) k

/-- The trace buffer's header (spec/17 R428). -/
def State.traceHeader (s : State) (p : Nat) : State :=
  match (s.part p).run.trace with
  | some a => s.tracePut a (toLE 16 0 ++ toLE 8 (s.part p).run.ts ++ List.replicate 40 0)
  | none => s

/-- What a RUN is to start: cores, each with its entry of the core table. -/
structure Launch where
  diag   : Bool
  bucket : Nat
  shape  : Tab Nat
  cores  : List (Nat × CoreEntry)
  deriving DecidableEq, Repr

/-- The launch of a binary or of a diagnostic image; none where no bucket holds the shape. -/
def State.launchOf (s : State) (p : Nat) (g : ProgSlot) (sv : List Nat) : Option Launch :=
  let b := s.imageBytes p g
  let cs := s.coresOf p
  if g.kind = 3 then
    let e : CoreEntry := ⟨0, fld b 12 1, fld b 13 1, 0, 4096, 0, true⟩
    some ⟨true, 0, [], (cs.filter fun c => !s.coreHedged c).map fun c => (c, e)⟩
  else match selectBucket b sv with
    | none => none
    | some k =>
      let used := cs.take (binCores b)
      some ⟨false, k, (List.range (binVars b)).foldl (fun t v => Tab.set 0 t v (sv.getD v 0)) [],
            (used.zip (List.range used.length)).map fun x => (x.1, coreEntry b k x.2)⟩

/-- A run is prepared: everything up to the start loads (R175). -/
def State.prepareRun (s : State) (p : Nat) (g : ProgSlot) (l : Launch) : State :=
  let s := s.modCores (l.cores.map Prod.fst) fun k => k.prepare l.shape l.bucket 0
  let s := l.cores.foldl (fun s x => s.modCore x.1 fun k => { k with entry := x.2.entry, next := x.2.entry }) s
  let s := s.modCores (s.coresOf p) fun k => k.clearStray.clearMessages
  let s := if l.diag then s else s.writeRoutes p l.cores.length g.route
  let x := s.part p
  { s with tickets := (List.range x.wtCount).foldl (fun t i => Tab.set 0 t (x.wtBase + i) 0) s.tickets }

/-- The run that a RUN begins; its cores start 10 µs later (spec/03 R97). -/
def State.beginRun (s : State) (p seq handle : Nat) (l : Launch) (trace : Option Nat) (traceCap strays : Nat) : State :=
  let s := s.modRun p fun _ =>
    { present := true, state := 1, handle := handle, bucket := l.bucket, diag := l.diag, cores := l.cores.map Prod.fst,
      seq := seq, ts := s.now + 10000, lastStop := s.ns, trace := trace, traceCap := traceCap, strays := strays }
  s.traceHeader p

/-- Does a long UNFENCE of a unit of the partition go on? -/
def State.unfencing (s : State) (p : Nat) : Bool :=
  s.host.long.any fun l => l.opcode == 0x0049 && s.touches l.a l.b p

/-- Is the partition too busy for a RUN (R372, spec/16 R415)? -/
def State.runBusy (s : State) (p : Nat) : Bool :=
  (s.part p).run.present || s.longBusy p 0x0030 || s.longBusy p 0x0021 || s.unfencing p
    || ((s.coresOf p).any fun c => (s.core c).micro.on) || (s.part p).cascade.twinDue.isSome

/-- The fields of RUN keep R384 and R243. -/
def State.runFieldsOk (s : State) (p : Nat) (g : ProgSlot) (b : List Byte) : Bool :=
  let nsv := fld b 1 1
  let vars := if g.kind = 3 then 0 else binVars (s.imageBytes p g)
  let tr := fld b 40 8
  let n := fld b 48 4
  fld b 2 6 == 0 && decide (nsv ≤ 8) && decide (nsv ≤ vars) && fld b (8 + 4 * nsv) (32 - 4 * nsv) == 0 && n % 64 == 0
    && (tr == 0 || s.inSegment p tr n fun x => x.wr)

/-- RUN. -/
def runSpec : CmdSpec :=
  { opcode := 0x0038, inP := true, lenOk := fun n => n == 52, run := fun p seq b s =>
      let h := fld b 0 1
      let g := s.prog p h
      let sv := (List.range 8).map fun v => fld b (8 + 4 * v) 4
      let l := s.launchOf p g sv
      let cs := (l.map Launch.cores).getD []
      let tr := fld b 40 8
      let n := fld b 48 4
      guarded [(g.kind != 0, zeNoProgram), (!s.runBusy p && g.kind != 1, zePartBusy), (s.runFieldsOk p g b, zeBadField),
          (l.isSome, zeShape), (cs.all fun x => !s.coreHedged x.1, zeFenced)] fun _ =>
        match l with
        | none => .reject zeShape
        | some l =>
          let strays := s.strays p
          let t := (s.prepareRun p g l).startLoads p g.addr l.cores
          if !t.2 then
            .failed (({ s with chans := t.1.chans, ecc := t.1.ecc, err := t.1.err } : State).modCores (cs.map Prod.fst)
              fun k => { k with pvalid := 0, dvalid := 0 }) zeStartFailed
          else
            let limit := fld (s.imageBytes p g) 16 4
            let entry := fld (s.imageBytes p g) 8 4
            let t := if l.diag then t.1.modCores (l.cores.map Prod.fst) fun k =>
                let k := k.enterMicro false entry
                { k with micro := { k.micro with limit := limit } }
              else t.1
            let at_ := (s.seg p (tr / 2 ^ 38 % 64)).base + tr % 2 ^ 38
            let t := t.beginRun p seq h l (if tr = 0 ∨ n = 0 then none else some at_) (n / 64) strays
            .accept t true (toLE 8 (t.part p).run.ts ++ toLE 1 l.bucket) }

/-- RUN arrives. -/
def execRun (q : Nat) (h : CmdHdr) (b : List Byte) (s : State) : Out := zcp "RUN" 0x0038 (some runSpec) q h b s

/-! ## The end of a run -/

/-- Has every core of a run ended, and has every op in its row taken what a port FIFO feeds it (spec/15 R385)? -/
def State.runQuiet (s : State) (r : Run) : Bool :=
  (r.started || r.aborted.isSome)
    && r.cores.all fun c => !(s.core c).working && (s.core c).halting.isNone && (s.core c).jobs.isEmpty

/-- Has a core of the run faulted, or an error ended it? -/
def State.runFaulty (s : State) (r : Run) : Bool :=
  r.outcome == 1 || r.cores.any fun c => if r.diag then (s.core c).micro.faulted else (s.core c).faulted

/-- Has a partition's run cores on a die (spec/17 R424)? -/
def State.runOnDie (s : State) (d p : Nat) : Bool :=
  let r := (s.part p).run
  r.present && r.cores.any fun c => s.dieOf c == d

/-- Does a hedge of a unit end the run of a partition (spec/17 R424)? -/
def State.hedgeEnds (s : State) (domain index p : Nat) : Bool :=
  if domain = 2 then s.runOnDie index p else decide (domain < 2) && s.touches domain index p

/-- Does the handling of a record end the run of a partition (spec/17 R423, R424)? -/
def State.endsRun (s : State) (p : Nat) (r : LogRec) : Bool :=
  if r.cls = 1 then r.part == p && !r.micro
  else match r.code with
    | 0x10 => s.hedgeEnds 0 r.index p
    | 0x12 => s.hedgeEnds 1 r.index p
    | 0x11 => s.hedgeEnds 2 r.index p
    | 0x35 => [0, 1, 2, 3].any fun d => s.hedgeEnds 2 d p
    | _ => false

/-- Does a record belong into the trace buffer of the partition's run, itself or with the HEDGED record of a unit that it may hedge
(spec/17 R428)? -/
def State.traces (s : State) (p : Nat) (r : LogRec) : Bool :=
  (s.part p).run.trace.isSome && (r.part == p || (r.cls == 0 && s.touches r.domain r.index p))

/-- Is a record that ends the run of the partition, or that its trace buffer is to hold, still to be handled (spec/17 R421, R428)? The end
of a diagnostic run waits for the second kind alone. -/
def State.faultWaits (s : State) (p : Nat) : Bool :=
  (s.err.transit ++ s.err.queue).any fun r => (!(s.part p).run.diag && s.endsRun p r) || s.traces p r

/-- Force a core's epochs closed (spec/12 R305). -/
def State.forceEpochs (s : State) (c : Nat) : State :=
  (List.range 64).foldl (fun s n =>
    let x := (s.core c).cnt n
    if !x.isOpen then s
    else
      (s.modCore c fun k => k.setCnt n { x with isOpen := false, ceil := x.value, mark := none }).logCore c 0x0003
        (toLE 1 n ++ toLE 6 x.ceil ++ toLE 6 x.value ++ toLE 6 x.base)) s

/-- Does the run close by force? -/
def State.runForced (s : State) (r : Run) : Bool := r.aborted.isSome || (!r.diag && s.runFaulty r)

/-- A run that faulted or was aborted closes, once its tags are free or 2 s have passed (spec/12 R305). -/
def execRunClose (p : Nat) (s : State) : Out :=
  let r := (s.part p).run
  if !r.present || r.closed || !s.runForced r || !s.runQuiet r then notNow "RUN_CLOSE"
  else if (r.cores.any fun c => !(s.heldTags c).isEmpty) && decide (s.ns < r.lastStop + 2000000000) then notNow "RUN_CLOSE"
  else
    let s := r.cores.foldl (fun s c => ((s.reclaim c).modCore c fun k => k.retireOps s.cyc).forceEpochs c) s
    .next (s.modRun p fun r => { r with closed := true })

/-- The record of a run's first error, or zeros. -/
def Run.errorBytes (r : Run) : List Byte := match r.firstErr with | some e => e.bytes | none => List.replicate 64 0

/-- The largest of a list. -/
def maxOf (l : List Nat) : Nat := l.foldl max 0

/-- Every core of a run has ended: its rows close (spec/04 R111; those of a micro run stay, spec/09 R234); RUN_END, and CMD_DONE of a
RUN_ABORT (R384, R385). A PART_DESTROY that waited for it goes on (R376). -/
def execRunEnd (p : Nat) (s : State) : Out :=
  let r := (s.part p).run
  if !r.present || !s.runQuiet r || (s.runForced r && !r.closed) || s.faultWaits p then notNow "RUN_END"
  else
    let out := if r.aborted.isSome then 2 else if s.runFaulty r then 1 else 0
    let cycles := maxOf (r.cores.map s.coreCycle)
    let stalls := (r.cores.map fun c => (s.core c).stalls).foldl (· + ·) 0
    let stats := if r.diag then r.cores.map fun c => (s.core c).micro.stat else []
    let s := s.modRun p fun r => { r with present := false, state := out + 2, endStamp := s.now, outcome := out, micro := stats }
    let s := s.modCores r.cores fun k => if r.diag then { k with micro := { k.micro with on := false } } else k.closeRows
    let s := s.event p 0x8002 (toLE 8 r.seq ++ toLE 1 r.handle ++ toLE 1 out ++ toLE 6 0 ++ toLE 8 cycles ++ toLE 8 stalls
      ++ r.errorBytes)
    let s := (s.longAll p 0x003A).foldl (fun s l => s.longEnd l (if out = 2 then 0 else zeNoRun) []) s
    let k := (s.part p).cascade
    let s := if k.joined && k.twin then
        s.modPart p fun x => { x with cascade := { k with twinOrdinal := k.twinOrdinal + 1, twinDue := some out } }
      else s
    let s := (s.relink p).endRepeats p
    .next (if (s.part p).destroying then s.vacatePart p else s)

/-- RUN_ABORT (R385). -/
def runAbortSpec : CmdSpec :=
  { opcode := 0x003A, inP := true, lenOk := fun n => n == 0, run := fun p seq _ s =>
      guarded [((s.part p).run.present, zeNoRun)] fun _ =>
        .accept ((s.abortRun p).longStart p seq 0x003A 0 0) true [] }

/-- RUN_ABORT arrives. -/
def execRunAbort (q : Nat) (h : CmdHdr) (b : List Byte) (s : State) : Out :=
  zcp "RUN_ABORT" 0x003A (some runAbortSpec) q h b s

/-! ## RUN_STATUS (R386) -/

/-- The core whose first stall is the first of the run. -/
def State.firstStall (s : State) (cs : List Nat) : Option Nat :=
  cs.foldl (fun best c =>
    let k := s.core c
    match best with
    | none => if k.stallValid then some c else none
    | some d => if k.stallValid && decide (k.stallStamp < (s.core d).stallStamp) then some c else some d) none

/-- The result of RUN_STATUS. -/
def State.runStatus (s : State) (p : Nat) : List Byte :=
  let r := (s.part p).run
  let stalls := r.cores.map fun c => (s.core c).stalls
  let first := match s.firstStall r.cores with
    | some c => let k := s.core c; toLE 2 c ++ toLE 2 k.stallOp ++ toLE 1 k.stallCause ++ toLE 3 0 ++ toLE 8 k.stallStamp
    | none => toLE 16 0
  let arith := (r.cores.foldl (fun a c => a.or (s.core c).arith) ({} : Arith)).toNat
  toLE 1 r.state ++ toLE 1 r.handle ++ toLE 1 r.bucket ++ toLE 1 (b2n r.diag) ++ toLE 4 r.cores.length ++ toLE 8 r.ts
    ++ toLE 8 r.endStamp ++ toLE 8 (maxOf (r.cores.map s.coreCycle)) ++ toLE 8 (stalls.foldl (· + ·) 0)
    ++ toLE 8 (maxOf stalls) ++ first ++ toLE 8 arith
    ++ toLE 4 ((r.cores.map fun c => (s.core c).illCount).foldl (· + ·) 0) ++ toLE 4 r.underruns ++ toLE 4 r.strays ++ toLE 4 0
    ++ r.errorBytes
    ++ (if r.diag then ((if r.present then r.cores.map fun c => (s.core c).micro.stat else r.micro).flatMap (toLE 8)) else [])

/-- RUN_STATUS. -/
def runStatusSpec : CmdSpec :=
  { opcode := 0x0039, inP := true, lenOk := fun n => n == 0, run := fun p _ _ s => .accept s false (s.runStatus p) }

/-- RUN_STATUS arrives. -/
def execRunStatus (q : Nat) (h : CmdHdr) (b : List Byte) (s : State) : Out :=
  zcp "RUN_STATUS" 0x0039 (some runStatusSpec) q h b s

end Sys2Proof.Machine
end

