-- ==== Sys2Proof/Machine/Clocks.lean ====
section
/-!
DEFINITION. Sys2Proof/Machine/Clocks.lean: steps and glides, replica margins, power and temperature, and the time base
(spec/14; spec/18 R437; spec/19 R464, R469).
-/
namespace Sys2Proof.Machine

/-! ## Power profile (R351, R352) -/

/-- The profile a key selects: 0 FLOOR, 1 AIR, 2 IMMERSION, 3 LIQUID (R351, spec/18 R432). -/
def profileOfKey (key : Nat) : Nat := if key = 1 then 1 else if key = 4 then 2 else if key = 2 then 3 else 0

/-- The sustained limit of a profile in W. -/
def profileLimit (p : Nat) : Nat := match p with | 1 => 2000 | 2 => 3400 | 3 => 4000 | _ => 1100

/-- The profile that the key and the forcing conditions give. -/
def State.chosenProfile (s : State) : Nat := if s.clk.floorForced ≠ 0 then 0 else profileOfKey s.mgt.key

/-- The effective limit in W (R351). -/
def State.effectiveLimit (s : State) : Nat := min (profileLimit s.mgt.profile) (s.clk.powerLimit.getD 4000)

/-- The excursion ceiling in mW: 1.2 times the effective limit. -/
def State.ceilingMw (s : State) : Nat := 1200 * s.effectiveLimit

/-! ## Status bits (spec/18 R437) -/

/-- Set or clear one bit of a byte. -/
def setBit (x i : Nat) (on : Bool) : Nat := if bit x i = on then x else if on then x + 2 ^ i else x - 2 ^ i

/-- A condition of STATUS_INPUT arises or ends; its bit latches. -/
def State.condInput (s : State) (i : Nat) (on : Bool) : State :=
  { s with mgt := { s.mgt with condInput := setBit s.mgt.condInput i on, stInput := if on then setBit s.mgt.stInput i true else s.mgt.stInput } }

/-- A condition of STATUS_TEMPERATURE arises or ends. -/
def State.condTemp (s : State) (i : Nat) (on : Bool) : State :=
  { s with mgt := { s.mgt with condTemp := setBit s.mgt.condTemp i on, stTemp := if on then setBit s.mgt.stTemp i true else s.mgt.stTemp } }

/-- A condition of STATUS_MFR_SPECIFIC arises or ends. -/
def State.condMfr (s : State) (i : Nat) (on : Bool) : State :=
  { s with mgt := { s.mgt with condMfr := setBit s.mgt.condMfr i on, stMfr := if on then setBit s.mgt.stMfr i true else s.mgt.stMfr } }

/-! ## Sensors (spec/18 R433) -/

/-- A sensor's sampled value and whether it is valid. -/
def State.sensor (s : State) (n : Nat) : Int × Bool := Tab.get (0, false) s.mgt.sensors n

/-- Readings are sampled. -/
def State.sample (s : State) (rs : List Reading) : State :=
  { s with mgt := { s.mgt with sensors := rs.foldl (fun t r => Tab.set (0, false) t r.sensor (r.value, true)) s.mgt.sensors } }

/-- The controller takes readings: when an inlet temperature came, and since when the flow is low, is kept (R352). -/
def State.take (s : State) (rs : List Reading) : State :=
  let one (s : State) (r : Reading) : State :=
    let m := s.mgt
    if r.sensor = 128 then
      { s with mgt := { m with inletAt := s.ns, inletBack := if m.inletAt + 1000000000 ≤ s.ns then s.ns else m.inletBack } }
    else if r.sensor = 130 then
      if r.value < 1000 then { s with mgt := { m with flowLowAt := some (m.flowLowAt.getD s.ns) } }
      else
        let lost : Bool := match m.flowLowAt with | some t => decide (t + 1000000000 ≤ s.ns) | none => false
        { s with mgt := { m with flowLowAt := none, flowBack := if lost then s.ns else m.flowBack } }
    else s
  rs.foldl one (s.sample rs)

/-- Does a region sensor read at or above a temperature? -/
def State.regionHot (s : State) (milli : Int) : Bool :=
  (List.range 64).any fun i => (s.sensor i).2 && decide (milli ≤ (s.sensor i).1)

/-- Does a stack sensor read at or above a temperature? -/
def State.stackHot (s : State) (milli : Int) : Bool :=
  (List.range 20).any fun i => (s.sensor (64 + i)).2 && decide (milli ≤ (s.sensor (64 + i)).1)

/-! ## Glides (R341 to R343) -/

/-- Change the clocks. -/
def State.modClk (s : State) (f : Clocks → Clocks) : State := { s with clk := f s.clk }

/-- The next step of a trajectory. -/
def toward (from_ goal : Nat) : Nat := if from_ < goal then from_ + 1 else from_ - 1

/-- A new target with its cause. Without a glide it starts one; during a glide it replaces the target, at once or at the next
step boundary (R342). -/
def State.retarget (s : State) (t cause : Nat) (atOnce : Bool) : State :=
  let c := s.clk
  if c.gliding then
    if atOnce then s.modClk fun c => { c with target := t, cause := cause, pendTarget := none }
    else s.modClk fun c => { c with pendTarget := some (t, cause) }
  else if t = c.present then s
  else
    (s.modClk fun c => { c with gliding := true, target := t, cause := cause, glides := satAdd 32 c.glides 1,
                                heading := toward c.present t, glideAt := s.ns + 800 }).logEntry 7 4 none 0x0030
      (toLE 1 c.present ++ toLE 1 t ++ toLE 1 cause)

/-- The effective step: the firmware step under THROTTLE_N, the thermal hold and an alarm hold (R340, R345, R354). -/
def State.effectiveStep (s : State) : Nat :=
  let c := s.clk
  if c.throttle || c.thermalHold then 0
  else match c.alarmHold with
    | some h => min c.fwStep h.1
    | none => c.fwStep

/-- Has a glide reached the end of its step? -/
def State.atBoundary (s : State) : Bool := s.clk.gliding && decide (s.clk.glideAt ≤ s.ns)

/-- A glide reaches a step boundary: a pending target takes effect, and the glide goes on or ends (R341, R342). -/
def State.passBoundary (s : State) : State :=
  let c := s.clk
  let c := { c with present := c.heading, glideAt := c.glideAt + 800 }
  let c := match c.pendTarget with
    | some t => { c with target := t.1, cause := t.2, pendTarget := none }
    | none => c
  let c := if c.target = c.present then { c with gliding := false, f0Since := if c.present = 0 then s.ns else c.f0Since }
    else { c with heading := toward c.present c.target }
  { s with clk := c }

/-- Is the controller restarting: after its cores disagreed, or from step 3 to step 4 of an activation (spec/18 R430, R446)? The firmware step
then stays where it stood. -/
def State.ctlDown (s : State) : Bool := s.mgt.restarting || s.mgt.actStep == 3

/-- A glide reaches a step boundary. -/
def execGlideStep (s : State) : Out := if s.atBoundary then .next s.passBoundary else notNow "GLIDE_STEP"

/-- The firmware chooses a step: at most one step up in each 1 ms, down at once. -/
def State.setFwStep (s : State) (t cause : Nat) : State :=
  let s := s.modClk fun c => { c with fwStep := t, lastRaise := if c.fwStep < t then s.ns else c.lastRaise,
                                      lastLower := if t < c.fwStep then s.ns else c.lastLower }
  let e := s.effectiveStep
  if (if s.clk.gliding then (s.clk.pendTarget.map Prod.fst).getD s.clk.target else s.clk.present) = e then s
  else s.retarget e cause false

/-- What held the step low has ended: the firmware raises the step from where it stands (R345). While the controller restarts the firmware
step stays, and the hardware applies it (R340; spec/18 R430). -/
def State.holdEnded (s : State) : State :=
  if s.ctlDown then
    let e := s.effectiveStep
    if (if s.clk.gliding then (s.clk.pendTarget.map Prod.fst).getD s.clk.target else s.clk.present) = e then s else s.retarget e 0 false
  else s.modClk fun c => { c with fwStep := min c.fwStep (if c.gliding then c.target else c.present) }

/-! ## Margins (R344, R345) -/

/-- A region's replica. -/
def State.replica (s : State) (r : Nat) : Replica := Tab.get {} s.clk.replicas r

/-- Change a region's replica. -/
def State.modReplica (s : State) (r : Nat) (f : Replica → Replica) : State :=
  s.modClk fun c => { c with replicas := Tab.modify {} c.replicas r f }

/-- A region's MARGIN is measured; since when it stands high, or below ALARM_TH, is kept. -/
def State.setMargin (s : State) (r m : Nat) : State :=
  let s := s.modReplica r fun x => { x with margin := m }
  let since (t : Tab Nat) (on : Bool) : Tab Nat := Tab.set 0 t r (if on then (if Tab.get 0 t r = 0 then s.ns + 1 else Tab.get 0 t r) else 0)
  s.modClk fun c => { c with badSince := since c.badSince (decide (m < (s.replica r).alarmTh)),
                             goodSince := since c.goodSince (decide ((s.replica r).warnTh + 8 ≤ m)) }

/-- Has a region's margin stood at or above WARN_TH + 8 for 10 ms? -/
def State.marginRecovered (s : State) (r : Nat) : Bool :=
  let t := Tab.get 0 s.clk.goodSince r
  t != 0 && decide (t + 10000000 ≤ s.ns + 1)

/-- Is every margin at or above its warning threshold? -/
def State.marginsOk (s : State) : Bool := (List.range 16).all fun r => decide ((s.replica r).warnTh ≤ (s.replica r).margin)

/-- Recovery begins anew. -/
def State.needRecovery (s : State) : State := s.modClk fun c => { c with recover := true }

/-- The target of an alarm or of the power guard: four steps below PRESENT; a glide that heads lower keeps its own. -/
def State.alarmTarget (s : State) : Nat :=
  let t := s.clk.present - 4
  if s.clk.gliding && decide (s.clk.target < t) then s.clk.target else t

/-- The hardware turns the glide to a target at once. A glide that already has it keeps it, and nothing waits for the next boundary any
more: the latest target applies (R342). -/
def State.hardTarget (s : State) (t cause : Nat) : State :=
  if s.clk.gliding && s.clk.target == t then s.modClk fun c => { c with pendTarget := none } else s.retarget t cause true

/-- The hardware retargets four steps down and holds (R345, R353). The step that THROTTLE_N, a thermal hold or the firmware has
chosen still applies where it is lower (R340, R357). At F0 nothing changes. -/
def State.alarmHold (s : State) (cause : Nat) : State :=
  if s.clk.present = 0 ∧ !s.clk.gliding then s
  else
    let t := s.alarmTarget
    let h := match s.clk.alarmHold with | some h => min h.1 t | none => t
    let s := s.modClk fun c => { c with alarmHold := some (h, s.ns) }
    s.hardTarget (min t s.effectiveStep) cause

/-- A region's MARGIN has fallen below WARN_TH: WARN, the log, and a glide one step down, which a restart of the controller
delays (R345, R430). -/
def State.warned (s : State) (r m : Nat) : State :=
  let s := s.modReplica r fun x => { x with warn := true }
  let s := (s.logEntry 1 r (s.regionOwner r) 0x0031 (toLE 1 m)).needRecovery
  if s.ctlDown then s.modClk fun c => { c with warnDue := true } else s.setFwStep (min s.clk.fwStep s.clk.present - 1) 1

/-- A region's MARGIN has fallen below ALARM_TH: ALARM, the log, and the hold (R345). -/
def State.alarmed (s : State) (r m : Nat) : State :=
  let s := s.modReplica r fun x => { x with alarm := true }
  let s := s.logEntry 1 r (s.regionOwner r) 0x0032 (toLE 1 m ++ toLE 1 s.alarmTarget)
  s.needRecovery.alarmHold 2

/-- A region's MARGIN is read: where it has fallen below a threshold since it was last read, that is a warning or an alarm (R345). -/
def State.takeMargin (s : State) (r m : Nat) : State :=
  let x := s.replica r
  let s := s.setMargin r m
  let s := if x.warnTh ≤ x.margin ∧ m < x.warnTh then s.warned r m else s
  if x.alarmTh ≤ x.margin ∧ m < x.alarmTh then s.alarmed r m else s

/-- A region's MARGIN falls below WARN_TH (R345). -/
def execMarginWarn (r m : Nat) (s : State) : Out :=
  if (s.replica r).warnTh ≤ m ∨ 16 ≤ r ∨ !s.mgt.moduleOn then notNow "MARGIN_WARN" else .next ((s.setMargin r m).warned r m)

/-- A region's MARGIN falls below ALARM_TH; the sticky WARN is set as well, and where the last reading stood above both thresholds
the fall is a warning too (R345). -/
def execMarginAlarm (r m : Nat) (s : State) : Out :=
  let x := s.replica r
  if x.alarmTh ≤ m ∨ 16 ≤ r ∨ !s.mgt.moduleOn then notNow "MARGIN_ALARM"
  else
    let s := s.setMargin r m
    let s := if x.warnTh ≤ x.margin ∧ m < x.warnTh then s.warned r m else s.modReplica r fun x => { x with warn := x.warn || decide (m < x.warnTh) }
    .next (s.alarmed r m)

/-- The alarm hold is over (R345). -/
def State.endHold (s : State) : State := (s.modClk fun c => { c with alarmHold := none }).holdEnded

/-- Has the alarm hold lasted 10 ms? -/
def State.holdOver (s : State) : Bool :=
  match s.clk.alarmHold with
  | some h => decide (h.2 + 10000000 ≤ s.ns)
  | none => false

/-- An alarm hold ends 10 ms after the alarm (R345). -/
def execAlarmHoldExpiry (s : State) : Out := if s.holdOver then .next s.endHold else notNow "ALARM_HOLD_EXPIRY"

/-- An ALERT event (spec/15 R370). -/
def State.alertEvent (s : State) (kind unit : Nat) (value : Int) (touches : Nat → Bool) : State :=
  s.eventBoth 0x8004 (toLE 1 kind ++ toLE 3 0 ++ toLE 4 unit ++ toLE 4 (lowBits 32 value)) touches

/-- A region's margin has stayed below ALARM_TH at F0 for 1 ms (R345, spec/17 R424). -/
def execLgRegionFail (r m : Nat) (s : State) : Out :=
  let since := Tab.get 0 s.clk.badSince r
  if 16 ≤ r ∨ (s.replica r).alarmTh ≤ m ∨ since = 0 ∨ s.clk.present ≠ 0 ∨ s.clk.gliding
      ∨ s.ns < max (since - 1) s.clk.f0Since + 1000000 then notNow "LG_REGION_FAIL"
  else
    let s := s.queueEntry 1 r (s.regionOwner r) 0x0012 (toLE 1 m ++ toLE 1 (s.replica r).alarmTh)
    .next (s.alertEvent 5 r m fun p => s.regionOwner r == some p)

/-- A write of the thresholds of CLK_REPLICA (R344). -/
def execReplicaThresholdWrite (r warn alarm : Nat) (s : State) : Out :=
  if 16 ≤ r ∨ 256 ≤ warn ∨ !s.mgt.moduleOn then notNow "REPLICA_THRESHOLD_WRITE"
  else if warn ≤ alarm then .next (s.logEntry 8 0 none 0x0054 (toLE 6 (0x90300000100 + 8 * r)))
  else .next (s.modReplica r fun x => { x with warnTh := warn, alarmTh := alarm })

/-! ## Power and temperature (R340, R353, R354) -/

/-- The average of the newest `n` readings, 0 without one. -/
def averageOf (n : Nat) (l : List Int) : Int := (l.take n).sum / (l.take n).length

/-- A region sensor reads 110 °C or more: the hardware holds F0 (R354). -/
def State.trip (s : State) (n : Nat) (milliC : Int) : State :=
  let r := n / 4
  let s := ((s.condTemp 7 true).condTemp 6 true).modClk fun c => { c with thermalHold := true }
  let s := s.hardTarget 0 4
  let s := s.logEntry 1 r (s.regionOwner r) 0x0034 (toLE 2 n ++ toLE 4 (lowBits 32 milliC))
  s.alertEvent 1 n milliC fun p => s.regionOwner r == some p

/-- LG_OVERTEMP, whose handling hedges every compute die (R354, spec/17 R424). -/
def State.overheated (s : State) (n : Nat) (milliC : Int) : State :=
  s.queueEntry 1 (n / 4) (s.regionOwner (n / 4)) 0x0035 (toLE 2 n ++ toLE 4 (lowBits 32 milliC))

/-- What the readings of the region sensors that an evaluation takes do by R354: a trip where none holds F0 yet, and LG_OVERTEMP where the
reading before stood below 120 °C. `old` is the state before they were sampled. -/
def State.takeHeat (s old : State) (rs : List Reading) : State :=
  (rs.filter fun r => decide (r.sensor < 64)).foldl (fun s r =>
    let s := if 110000 ≤ r.value ∧ !s.clk.thermalHold then s.trip r.sensor r.value else s
    let was := old.sensor r.sensor
    if 120000 ≤ r.value ∧ !(was.2 && decide (120000 ≤ was.1)) then s.overheated r.sensor r.value else s) s

/-- The firmware's averages of the input power over 1 ms and 10 ms, sensors 87 and 88, and of the input current over 10 ms: of the last
10 and 100 readings, one in each 100 µs (R353, spec/18 R433, spec/19 R464). -/
def State.average (s : State) (rs : List Reading) : State :=
  let newest (n : Nat) (l : List Int) : List Int := match rs.filter fun r => r.sensor == n with
    | [] => l
    | r :: _ => (r.value :: l).take 100
  let powers := newest 86 s.mgt.powers
  let s := { s with mgt := { s.mgt with powers := powers, currents := newest 85 s.mgt.currents } }
  if powers.isEmpty then s else s.sample [⟨87, averageOf 10 powers⟩, ⟨88, averageOf 100 powers⟩]

/-- The controller reads its sensors; the averages are its own. -/
def State.readSensors (s : State) (rs : List Reading) : State :=
  (s.take (rs.filter fun r => r.sensor != 87 && r.sensor != 88)).average rs

/-- Is the 10 ms average of the input current above 70 A (spec/19 R464)? -/
def State.currentHigh (s : State) : Bool := decide (70000 < averageOf 100 s.mgt.currents)

/-- The step the firmware takes at an evaluation: the highest that fits the power, the current and CAP; never up while a
temperature, a margin or a recovery forbids it; one down in each 1 ms while a sensor is hot; one at least where power or current is over,
where a margin stands below its warning threshold (R340: one step at an evaluation, DESIGN CHOICE, n14), or where a warning is due. -/
def State.evaluated (s : State) (fit : Nat) : Nat :=
  let c := s.clk
  let top := min fit c.cap
  let hot := s.regionHot 100000 || s.stackHot 95000
  let high := decide ((1000 * s.effectiveLimit : Int) < (s.sensor 88).1) || decide ((s.ceilingMw : Int) < (s.sensor 87).1)
  let recovered : Bool := !c.recover || (List.range 16).all s.marginRecovered
  let down := if hot && decide (c.lastLower + 1000000 ≤ s.ns) then c.fwStep - 1 else c.fwStep
  let down := if high || s.currentHigh || c.warnDue || !s.marginsOk then min down (c.fwStep - 1) else down
  if down < c.fwStep ∨ top ≤ c.fwStep then min down top
  else if hot || high || s.currentHigh || !s.marginsOk || !recovered || decide (s.ns < c.lastRaise + 1000000) || s.mgt.phase != 7 then
    c.fwStep
  else c.fwStep + 1

/-- Sensors and margins are read, and the profile is taken (R340, R344, R352). -/
def State.readAll (rs : List Reading) (ms : List (Nat × Nat)) (s : State) : State :=
  let s := (s.readSensors rs).takeHeat s rs
  let s := ms.foldl (fun s m => if m.1 < 16 then s.takeMargin m.1 m.2 else s) s
  let s := (List.range 16).foldl (fun s r => s.setMargin r (s.replica r).margin) s
  let s := (List.range 16).foldl (fun s r => if s.marginRecovered r then s.endRecovery 1 r else s) s
  { s with mgt := { s.mgt with profile := s.chosenProfile } }

/-- The firmware step is chosen; a step up ends a recovery. -/
def State.chooseStep (s : State) (fit : Nat) : State :=
  let t := s.evaluated fit
  (s.modClk fun c => { c with recover := c.recover && decide (t ≤ c.fwStep), warnDue := false }).setFwStep t 0

/-- Is it less than 100 µs since the last evaluation? -/
def State.evalEarly (s : State) : Bool := match s.clk.evalAt with | some t => decide (s.ns < t + 100000) | none => false

/-- The evaluation of every 100 µs (R340, R352 to R354, spec/19 R464). `fit` is the highest step whose power and current fit, as
the controller's model gives it. -/
def execFirmwareStepEvaluation (rs : List Reading) (ms : List (Nat × Nat)) (fit : Nat) (s : State) : Out :=
  if s.ctlDown ∨ s.mgt.phase ≤ 1 ∨ 7 < s.mgt.phase ∨ s.evalEarly then notNow "FIRMWARE_STEP_EVALUATION"
  else
    let s := (s.modClk fun c => { c with evalAt := some s.ns }).readAll rs ms
    let s := (s.condTemp 6 (s.regionHot 100000)).condInput 0 (decide ((1000 * s.effectiveLimit : Int) < (s.sensor 88).1))
    .next (s.chooseStep fit)

/-- The regulators' 50 µs average exceeds the excursion ceiling (R353). -/
def execPowerGuard (mw : Nat) (s : State) : Out :=
  if mw ≤ s.ceilingMw ∨ !s.mgt.moduleOn then notNow "POWER_GUARD"
  else
    let s := (s.alarmHold 3).logEntry 8 0 none 0x0033 (toLE 4 mw)
    let s := (s.condMfr 2 true).condMfr 2 false
    .next (s.alertEvent 3 0 mw fun _ => false)

/-- A region sensor reads 110 °C or more (R354). -/
def execThermalTrip (n : Nat) (milliC : Int) (s : State) : Out :=
  if 64 ≤ n ∨ milliC < 110000 ∨ !s.mgt.moduleOn then notNow "THERMAL_TRIP"
  else .next ((s.sample [⟨n, milliC⟩]).trip n milliC)

/-- Every region sensor reads below 100 °C after a trip (R354). -/
def execThermalTripClear (rs : List Reading) (s : State) : Out :=
  let s' := s.sample rs
  if !s.clk.thermalHold || s'.regionHot 100000 then notNow "THERMAL_TRIP_CLEAR"
  else
    .next (((s'.condTemp 7 false).condTemp 6 false).modClk fun c => { c with thermalHold := false }).holdEnded

/-- A region sensor reads 120 °C or more (R354, spec/17 R424). -/
def execLgOvertemp (n : Nat) (milliC : Int) (s : State) : Out :=
  if 64 ≤ n ∨ milliC < 120000 ∨ !s.mgt.moduleOn then notNow "LG_OVERTEMP"
  else .next ((s.sample [⟨n, milliC⟩]).overheated n milliC)

/-! ## The time base (R346 to R350, spec/19 R469) -/

/-- Is there a run anywhere? -/
def State.anyRun (s : State) : Bool := partNumbers.any fun p => (s.part p).run.present

/-- A write of TIME_STEP is discarded and logged while a run exists; else the counter moves at once (R349). -/
def State.timeStep (s : State) (delta : Int) : State :=
  if s.anyRun then s.logEntry 7 4 none 0x003A (toLE 8 (lowBits 64 delta))
  else s.modClk fun c => { c with now := lowBits 64 (c.now + delta), toGo := if c.toGo = 0 then 0 else c.toGo + delta }

/-- A write of TIME_STEP (R349). -/
def execTimeStep (delta : Int) (s : State) : Out := if s.mgt.moduleOn then .next (s.timeStep delta) else notNow "TIME_STEP"

/-- A measured offset: OFFSET saturates, LOCKED needs the last 16 within ±10 ns (R349). -/
def State.measure (s : State) (off : Int) : State :=
  s.modClk fun c =>
    let n := if -10 ≤ off ∧ off ≤ 10 then min 16 (c.inBand + 1) else 0
    { c with offset := max (-32767) (min 32767 off), toGo := off, inBand := n, locked := n == 16 }

/-- One tick is added to the counter or withheld, toward the source (R349). -/
def State.slewBy (s : State) (off : Int) : State :=
  let one : Int := if 0 < off then -1 else if off < 0 then 1 else 0
  s.modClk fun c => { c with slewAt := some s.ns, slew := c.slew + one, toGo := off + one }

/-- Is it less than 5,000 ns since the last correction? -/
def State.slewEarly (s : State) : Bool := match s.clk.slewAt with | some t => decide (s.ns < t + 5000) | none => false

/-- The time base adds or withholds one tick toward its source, at most once in 5,000 ns (R349). A positive offset says that the
counter is ahead (DEDUCED, n14). Under source 2 the offset is measured here; under source 1 it is what is left of that of the last accepted
PPS edge (R347, spec/19 R469), and under source 3 of that of the last beat (spec/16 R413). -/
def execTimeSlew (off : Int) (s : State) : Out :=
  if s.clk.source = 0 ∨ s.slewEarly ∨ (s.clk.source ≠ 2 ∧ off ≠ s.clk.toGo) then notNow "TIME_SLEW"
  else .next ((if s.clk.source = 2 then s.measure off else s).slewBy off)

/-- Does a PPS edge fall in the window after another (spec/19 R469)? -/
def ppsFits (a b : Nat) : Bool := decide (a + 999900000 ≤ b) && decide (b ≤ a + 1000100000)

/-- A PPS edge (spec/19 R469): accepted after the last one, or as the third of three once none was accepted for 3 s. -/
def execPpsEdge (width : Nat) (s : State) : Out :=
  let c := s.clk
  let third : Bool := match c.ppsCands with
    | [a, b] => ppsFits a b && ppsFits b s.now
    | _ => false
  let waited : Bool := match c.ppsAt with | some t => decide (t + 3000000000 ≤ s.ns) | none => true
  if !s.mgt.moduleOn then notNow "PPS_EDGE"
  else if width < 100 then .next s
  else if (c.ppsAt.isSome ∧ ppsFits c.ppsStamp s.now) ∨ (waited ∧ third) then
    let m := s.now % 1000000000
    let off : Int := if m < 500000000 then (m : Int) else (m : Int) - 1000000000
    let s := s.modClk fun c => { c with ppsStamp := s.now, ppsAt := some s.ns, ppsCands := [] }
    .next (if c.source = 1 then s.measure off else s)
  else
    .next (s.modClk fun c =>
      { c with ppsCands := (c.ppsCands.drop (c.ppsCands.length - 1)) ++ [s.now], ppsRejects := c.ppsRejects + 1,
               ppsFirst := if c.ppsRejects = 0 then s.now else c.ppsFirst })

/-- The 100 MHz reference stops (R350). -/
def execLgRefLost (s : State) : Out :=
  if s.clk.refLost ∨ !s.mgt.moduleOn then notNow "LG_REF_LOST"
  else
    let s := s.modClk fun c => { c with refLost := true, refLostAt := s.ns, locked := false, inBand := 0 }
    .next (((s.logEntry 7 4 none 0x0039 []).condMfr 3 true).alertEvent 4 0 0 fun _ => false)

/-- The reference has been present for 10 ms, and no glide runs (R350). -/
def execReferenceRestored (s : State) : Out :=
  if !s.clk.refLost || s.clk.gliding || decide (s.ns < s.clk.refLostAt + 10000000) then notNow "REFERENCE_RESTORED"
  else .next ((s.modClk fun c => { c with refLost := false }).condMfr 3 false)

end Sys2Proof.Machine
end

