-- ==== Sys2Proof/Machine/Errors.lean ====
section
/-!
DEFINITION. Sys2Proof/Machine/Errors.lean: the error queue, task hedges, failure and repeat hedges, recoveries and the loss of log
entries (spec/17 R421 to R427; spec/03 R99).
-/
namespace Sys2Proof.Machine

/-! ## Hedges (R424) -/

/-- A run ends for an error (R423): every core of it stops issuing; the record is the run's first error. -/
def State.endRun (s : State) (p : Nat) (r : LogRec) : State :=
  let x := (s.part p).run
  if !x.present || x.outcome == 1 || x.aborted.isSome then s
  else
    let s := s.modRun p fun x => { x with outcome := 1, firstErr := some r, lastStop := s.ns, started := true }
    x.cores.foldl (fun s c =>
      let k := s.core c
      if k.running || k.halting.isSome then s.stopCore c false else s.microAbort c) s

/-- The cores of a hedged unit, which stop issuing (spec/01 R41). -/
def State.hedgedCores (s : State) (domain index : Nat) : List Nat :=
  if domain = 0 then [index]
  else if domain = 1 then (List.range s.nCores).filter fun c => s.regionOf c == index
  else if domain = 2 then (List.range s.nCores).filter fun c => s.dieOf c == index
  else []

/-- Every queue pair of a port is disconnected (R424). -/
def State.dropPort (s : State) (port : Nat) : State :=
  let gone := s.host.qps.filter fun q => q.port == port
  let s := s.dropData fun q => q.port == port
  let s := { s with host := { s.host with qps := s.host.qps.filter fun q => q.port != port } }
  (gone.filter fun q => q.kind == 0).foldl (fun s q => s.send (.dreq q.q)) s

/-- A link is hedged: its receiver drops the packets it holds in part, and what it was to send leaves on the replacement links
(spec/16 R401). -/
def State.hedgeLink (s : State) (l : Nat) : State :=
  let whole (fs : List Flit) : List Flit := (fs.reverse.dropWhile fun f => !f.eop).reverse
  let served := (s.link l).state == 3
  let s := s.modLink l fun x => { x with state := 4, step := 0, outAt := if served then s.ns else x.outAt,
                                         buf := (x.buf.map fun b => (b.1, whole b.2)).filter fun b => !b.2.isEmpty }
  match s.unitPart 4 l with
  | some p =>
    let s := s.rehome p l
    if served then s.linkGone p l else s
  | none => s

/-- A core stops issuing at once: its program ends, or its micro-mode run is aborted (spec/09 R232). -/
def State.haltCore (s : State) (c : Nat) : State :=
  let k := s.core c
  if k.running || k.halting.isSome then s.stopCore c false else s.microAbort c

/-- The links that leave service with a compute die: of its sixteen, those that are not down or hedged (spec/01 R41). They read HEDGED
until the die returns (DESIGN CHOICE, n13). -/
def State.dieLinks (s : State) (d : Nat) : List Nat :=
  ((List.range 16).map (16 * d + ·)).filter fun l => (s.link l).state != 0 && (s.link l).state != 4

/-- What a hedge of a unit does at once. The routers of a hedged die leave service, so that what its cores have not sent stays unsent
(spec/01 R41). -/
def State.hedgeEffect (s : State) (domain index : Nat) : State :=
  let s := (s.hedgedCores domain index).foldl State.haltCore s
  if domain = 2 then
    let s := (s.hedgedCores 2 index).foldl State.dropWaiting s
    (s.dieLinks index).foldl State.hedgeLink (s.condMfr 0 true)
  else if domain = 4 then s.hedgeLink index
  else if domain = 5 then s.dropPort index
  else s

/-- A unit is hedged for a record: LG_HEDGE, which goes to the trace buffer of every partition the unit belongs to (R428),
HEDGED, and its effects. A failure hedge replaces a repeat hedge. -/
def State.hedge (s : State) (domain index kind : Nat) (r : LogRec) : State :=
  let e := s.err
  let h : Hedge := ⟨domain, index, kind, s.now, r, none⟩
  let s := { s with err := { e with hedges := h :: e.hedges.filter fun g => !(g.domain == domain && g.index == index) } }
  let p := s.unitPart domain index
  let ctx := toLE 2 domain ++ toLE 2 index ++ toLE 1 kind ++ toLE 8 r.seq
  let entry : LogRec := { stamp := s.now, seq := s.err.nextSeq, part := partByte p, domain := domain, index := index,
                          code := 0x0050, ctx := ctx }
  let s := s.logEntry domain index p 0x0050 ctx
  let s := (partNumbers.filter fun q => s.touches domain index q && p != some q).foldl (fun s p => s.traceRec p entry) s
  let s := s.eventBoth 0x8003 (toLE 2 domain ++ toLE 2 index ++ r.bytes) (s.touches domain index)
  s.hedgeEffect domain index

/-- Is a unit under a failure hedge? -/
def State.failureHedged (s : State) (domain index : Nat) : Bool :=
  s.err.hedges.any fun h => h.domain == domain && h.index == index && h.kind == 1

/-! ## The error queue (R421, R422) -/

/-- The compute die of a record's source, if it lies on one (R422). -/
def State.sourceDie (s : State) (r : LogRec) : Option Nat :=
  match r.domain with
  | 0 => some (s.dieOf r.index)
  | 1 => some (r.index / 4)
  | 2 => some r.index
  | 4 => some (r.index / 16)
  | _ => none

/-- The runs that a hedge of a unit ends (R424). -/
def State.runsOf (s : State) (domain index : Nat) : List Nat := partNumbers.filter (s.hedgeEnds domain index)

/-- A record reaches the error queue; one that finds it full is logged unhandled, and the die of its source is hedged (R422). -/
def State.reachQueue (s : State) (r : LogRec) : State :=
  let e := s.err
  if e.queue.length < 256 then { s with err := { e with queue := e.queue ++ [r] } }
  else
    let s := { s with err := { e with overflows := satAdd 32 e.overflows 1 } }
    let r := { r with flags := 8, seq := s.err.nextSeq }
    let s := s.writeLog r false
    let s := s.logEntry 7 3 none 0x0052 (toLE 4 s.err.overflows)
    match s.sourceDie r with
    | some d => if s.failureHedged 2 d then s else
        let ended := s.runsOf 2 d
        ended.foldl (fun s p => s.endRun p r) (s.hedge 2 d 1 r)
    | none => s

/-- A record reaches the error queue. -/
def execErrorRecordArrival (n : Nat) (s : State) : Out :=
  match s.err.transit.drop n with
  | [] => notNow "ERROR_RECORD_ARRIVAL"
  | r :: rest => .next (({ s with err := { s.err with transit := s.err.transit.take n ++ rest } } : State).reachQueue r)

/-- A record reaches the error queue within 1 µs of its stamp (R421): the latest time has come for these. -/
def State.arriveDue (s : State) : State :=
  let due (r : LogRec) : Bool := decide (r.stamp + 1000 ≤ s.now)
  let e := s.err
  if !e.transit.any due then s
  else (e.transit.filter due).foldl State.reachQueue { s with err := { e with transit := e.transit.filter fun r => !due r } }

/-- Does record `a` come before record `b` (R421)? -/
def LogRec.before (a b : LogRec) : Bool :=
  decide (a.stamp < b.stamp) || (a.stamp == b.stamp && (decide (a.domain < b.domain)
    || (a.domain == b.domain && (decide (a.index < b.index) || (a.index == b.index && decide (a.serial < b.serial))))))

/-- The eligible record with the least key, with the records that stay. -/
def takeLeast (now : Nat) : List LogRec → Option (LogRec × List LogRec)
  | [] => none
  | r :: t =>
    match takeLeast now t with
    | none => if r.stamp + 1000 ≤ now then some (r, t) else none
    | some (q, u) => if r.stamp + 1000 ≤ now ∧ !q.before r then some (r, t) else some (q, r :: u)

/-- A day in ns (R424). -/
def dayNs : Nat := 86400000000000

/-- The distinct uncorrectable units of a channel within 24 h, with that of a record (R424). -/
def Channel.noteUnit (c : Channel) (unit stamp : Nat) : Channel :=
  let old := c.ues.filter fun u => u.1 != unit && decide (stamp < u.2 + dayNs)
  { c with ues := (unit, stamp) :: old }

/-- The units a record's handling puts under a failure hedge (R424). -/
def State.failures (s : State) (r : LogRec) : List (Nat × Nat) :=
  if r.cls = 1 then []
  else match r.code with
    | 0x10 => [(0, r.index)]
    | 0x12 => [(1, r.index)]
    | 0x11 => [(2, r.index)]
    | 0x35 => [(2, 0), (2, 1), (2, 2), (2, 3)]
    | 0x21 => if 4 ≤ (s.chan r.index).ues.length then [(3, r.index)] else []
    | 0x40 => [(4, r.index)]
    | 0x42 => [(5, r.index)]
    | _ => []

/-- Is a record stamped inside the recovery of its unit (R425)? -/
def State.inRecovery (s : State) (r : LogRec) : Bool :=
  s.err.recoveries.any fun x => x.domain == r.domain && x.index == r.index && decide (x.stamp ≤ r.stamp)
    && (match x.stop with
      | some t => decide (r.stamp ≤ t)
      | none => match r.domain with
        | 3 => decide (r.stamp ≤ x.stamp + 40000)
        | 5 => decide (r.stamp ≤ x.stamp + 1000000000)
        | _ => true)

/-- A record of a unit with a recovery procedure begins it (R425). -/
def State.startRecovery (s : State) (r : LogRec) : State :=
  if r.cls = 0 && (r.domain == 1 || r.domain == 3 || r.domain == 4 || r.domain == 5) then
    let e := s.err
    let rest := e.recoveries.filter fun x => !(x.domain == r.domain && x.index == r.index)
    { s with err := { e with recoveries := ⟨r.domain, r.index, r.stamp, none⟩ :: rest } }
  else s

/-- The partition whose run a core fault ends: not that of a micro-mode fault (spec/09 R232), nor a run that began later. -/
def State.faultedRun (s : State) (r : LogRec) : Option Nat :=
  let x := (s.part r.part).run
  if r.cls = 1 && decide (r.part < 8) && x.present && !x.diag && !r.micro
    && decide (x.ts ≤ r.stamp + 10000) then some r.part else none

/-- The command processor handles one record (R421 to R425). -/
def State.handle1 (s : State) (r : LogRec) : State :=
  let s := if r.cls = 0 ∧ r.code = 0x21 then
      s.modChan r.index fun c => c.noteUnit (leNat (r.ctx.take 6)) r.stamp
    else s
  let again := s.inRecovery r
  let fails := (s.failures r).filter fun u => !s.failureHedged u.1 u.2
  let owner := s.unitPart r.domain r.index
  let running := match owner with | some p => (s.part p).run.present | none => false
  let hedges := if !fails.isEmpty then fails.map fun u => (u.1, u.2, 1)
    else if again && !s.hedgedUnit r.domain r.index then [(r.domain, r.index, if running then 2 else 1)] else []
  let r := { r with flags := b2n (!hedges.isEmpty) + 2 * b2n again + 4, seq := s.err.nextSeq }
  let s := (s.writeLog r true).startRecovery r
  let s := hedges.foldl (fun s h => s.hedge h.1 h.2.1 h.2.2 r) s
  let s := hedges.foldl (fun s h => (s.runsOf h.1 h.2.1).foldl (fun s p => s.endRun p r) s) s
  match s.faultedRun r with
  | some p => s.endRun p r
  | none => s

/-- The command processor takes the least eligible record and handles it. From step 2 to step 5 of an activation records wait: the command
processor's new firmware takes them up once step 4 has loaded it (spec/18 R446). -/
def execErrorRecordHandling (s : State) : Out :=
  let s := s.arriveDue
  match takeLeast s.now s.err.queue with
  | none => notNow "ERROR_RECORD_HANDLING"
  | some (r, rest) =>
    if s.mgt.paused ∧ s.mgt.actStep < 4 then notNow "ERROR_RECORD_HANDLING"
    else .next (({ s with err := { s.err with queue := rest } } : State).handle1 r)

/-- A channel's persistence check ends, 40 µs after the record that began it (R425). -/
def execPersistenceCheckEnd (stack chan : Nat) (s : State) : Out :=
  let n := chanNo stack chan
  match s.err.recoveries.find? fun x => x.domain == 3 && x.index == n && x.stop.isNone with
  | none => notNow "PERSISTENCE_CHECK_END"
  | some x =>
    if s.now < x.stamp + 40000 then notNow "PERSISTENCE_CHECK_END"
    else
      let e := s.err
      .next { s with err := { e with recoveries := e.recoveries.map fun y =>
        if y.domain == 3 && y.index == n && y.stop.isNone then { y with stop := some (y.stamp + 40000) } else y } }

/-- At the 1-second boundary after a second with dropped entries, their number is logged (R427). -/
def execLgLogLost (s : State) : Out := if s.err.lost = 0 then notNow "LG_LOG_LOST" else .next s.logLost

/-! ## Errors of the dies -/

/-- A core detects an error in one of its structures and stops (R424). -/
def execCoreError (c struct addr : Nat) (s : State) : Out :=
  if s.nCores ≤ c ∨ struct = 0 ∨ 5 < struct ∨ !s.mgt.moduleOn then notNow "CORE_ERROR"
  else
    .next ((s.queueEntry 0 c (s.partOf c) 0x0010 (toLE 1 struct ++ toLE 4 addr)).haltCore c)

/-- A bridge's pointers drift by two entries: no core of the die issues again until the die is retrained (spec/03 R99). -/
def execBridgeSlip (die boundary plane column : Nat) (s : State) : Out :=
  if 4 ≤ die ∨ 3 ≤ boundary ∨ 2 ≤ plane ∨ 9 ≤ column ∨ !s.mgt.moduleOn then notNow "BRIDGE_SLIP"
  else
    let s := s.queueEntry 2 die (s.unitPart 2 die) 0x0011 (toLE 1 boundary ++ toLE 1 plane ++ toLE 1 column)
    let s := (s.hedgedCores 2 die).foldl State.haltCore s
    .next { s with err := { s.err with slipped := setBit s.err.slipped die true } }

end Sys2Proof.Machine
end

