-- ==== Sys2Proof/Machine/Commands.lean ====
section
/-!
DEFINITION. Sys2Proof/Machine/Commands.lean: IDENTIFY, the log, trace, sensor and fence commands, UNFENCE with its return
procedures, the power limit and the step cap (spec/15 R374, R387 to R390; spec/17 R426; spec/14 R355, R356).
-/
namespace Sys2Proof.Machine

/-! ## IDENTIFY (R374) -/

/-- The reproducibility word (spec/13 R331). -/
def State.repro (s : State) : Nat :=
  let a1 := s.fuses.stepping = .a1
  s.features + 2 ^ 16 * (if a1 then 1 else 2) + 2 ^ 18 * (if a1 then 0 else 1) + 2 ^ 20 + 2 ^ 28 * (if a1 then 1 else 2)
    + 2 ^ 32 * (if s.fuses.grade = .tx960 then 1 else 2)

/-- The cascade rank that IDENTIFY reports: that of the partition in whose scope it is asked, or of the partition that joined. -/
def State.identRank (s : State) (i : Nat) : Nat :=
  let ps := if i < 8 then [i] else partNumbers
  match ps.find? fun p => (s.part p).cascade.joined with
  | some p => (s.part p).cascade.rank
  | none => 2 ^ 32 - 1

/-- The result of IDENTIFY. -/
def State.identity (s : State) (i : Nat) : List Byte :=
  let m := s.mgt
  let parts := partNumbers.foldl (fun n p => n + if (s.part p).exist then 2 ^ p else 0) 0
  toLE 8 s.repro ++ (s.fuses.moduleSerial ++ List.replicate 12 0).take 12 ++ toLE 4 m.cpVer ++ toLE 4 m.mgtVer
    ++ toLE 1 m.activeSlot ++ toLE 1 m.profile ++ toLE 1 s.clk.present ++ toLE 1 parts
    ++ ((List.range 9).flatMap fun e => toBE 6 (s.fuses.macBase + e))
    ++ toLE 1 (m.key % 8) ++ toLE 1 0
    ++ ((List.range 4).flatMap fun d => toLE 9 (s.fuses.coreMap.getD d 0))
    ++ toLE 4 (s.identRank i)
    ++ ((List.range 29).flatMap fun k => toLE 16 (Tab.get 0 s.fuses.serials k))

/-- IDENTIFY. -/
def identifySpec : CmdSpec :=
  { opcode := 0x0001, inM := true, inP := true, service := true, lenOk := fun n => n == 0,
    run := fun i _ _ s => .accept s false (s.identity i) }

/-- IDENTIFY arrives. -/
def execIdentify (q : Nat) (h : CmdHdr) (b : List Byte) (s : State) : Out :=
  zcp "IDENTIFY" 0x0001 (some identifySpec) q h b s

/-! ## LOG_READ and TRACE_READ (R387) -/

/-- The result of a read of records: NEXT, COUNT and the records from `first` on, of those that `at_` gives for indices below
`n`; an index older than `oldest` starts there. -/
def readRecords (first max_ oldest n : Nat) (at_ : Nat → List Byte) : List Byte :=
  let f := max first oldest
  let k := min max_ (n - f)
  toLE 8 (f + k) ++ toLE 4 k ++ (List.range k).flatMap fun i => at_ (f + i)

/-- The bytes of the log record with serial number `i`; the log holds the newest first. -/
def State.logBytes (s : State) (i : Nat) : List Byte := ((s.err.log.drop (s.err.nextSeq - 1 - i)).headD {}).bytes

/-- LOG_READ. -/
def logReadSpec : CmdSpec :=
  { opcode := 0x0040, inM := true, service := true, lenOk := fun n => n == 9, run := fun _ _ b s =>
      guarded [(decide (1 ≤ fld b 8 1) && decide (fld b 8 1 ≤ 63), zeBadField)] fun _ =>
        .accept s false (readRecords (fld b 0 8) (fld b 8 1) (s.err.nextSeq - s.err.log.length) s.err.nextSeq s.logBytes) }

/-- LOG_READ arrives. -/
def execLogRead (q : Nat) (h : CmdHdr) (b : List Byte) (s : State) : Out :=
  zcp "LOG_READ" 0x0040 (some logReadSpec) q h b s

/-- Records of the trace buffer with its header, record 0 (spec/17 R428). -/
def Run.traceCount (r : Run) : Nat := if r.trace.isSome then r.written + 1 else 0

/-- TRACE_READ. Where a record lies in memory out of reach the command is rejected (DESIGN CHOICE, n10). -/
def traceReadSpec : CmdSpec :=
  { opcode := 0x0041, inP := true, lenOk := fun n => n == 9, run := fun p _ b s =>
      guarded [(decide (1 ≤ fld b 8 1) && decide (fld b 8 1 ≤ 63), zeBadField)] fun _ =>
        let r := (s.part p).run
        let shut (i : Nat) : Bool := decide (i < r.traceCount) && (s.unreachable (r.trace.getD 0 + 64 * i)).isSome
        if (List.range (fld b 8 1)).any fun i => shut (fld b 0 8 + i) then .reject zeFenced
        else .accept s false (readRecords (fld b 0 8) (fld b 8 1) 0 r.traceCount fun i =>
          s.bytesAt (r.trace.getD 0 + 64 * i) 64) }

/-- TRACE_READ arrives. -/
def execTraceRead (q : Nat) (h : CmdHdr) (b : List Byte) (s : State) : Out :=
  zcp "TRACE_READ" 0x0041 (some traceReadSpec) q h b s

/-! ## SENSOR_READ (R388; spec/18 R433, R434) -/

/-- A sensor's value, and whether it is valid: in milli-units, but for the key and the level of PRESENT_N, which have no unit and are read from the
state (spec/18 R433). -/
def State.sensorValue (s : State) (n : Nat) : Int × Bool :=
  if n = 131 then (s.mgt.key, true)
  else if n = 132 then (b2n (!s.err.presentN.asserted), true)
  else if (n = 128 ∨ n = 129) ∧ profileOfKey s.mgt.key = 0 then (0, false)
  else if n = 130 ∧ s.mgt.key ≠ 2 then (0, false)
  else if 64 ≤ n ∧ n < 84 ∧ s.fuses.grade = .tx768 ∧ (n - 64) % 5 = 4 then (0, false)
  else if (89 ≤ n ∧ n ≤ 95) ∨ 134 < n then (0, false)
  else if (s.sensor n).2 then s.sensor n else (0, false)

/-- The thresholds of spec/18 R434: warning and alarm crossed. -/
def State.sensorFlags (s : State) (n : Nat) (v : Int) : Bool × Bool :=
  if n < 64 then (decide (100000 ≤ v), decide (110000 ≤ v))
  else if n < 84 then (decide (85000 ≤ v), decide (95000 ≤ v))
  else if n = 84 then (decide (v < 62000) || decide (78000 < v), decide (v < 60000) || decide (80000 < v))
  else if n = 88 then (decide ((1000 * s.effectiveLimit : Int) < v), decide ((s.ceilingMw : Int) < v))
  else if n = 130 then (decide (v < 1500), decide (v < 1000))
  else if n = 133 ∨ n = 134 then (decide (95000 ≤ v), decide (105000 ≤ v))
  else (false, false)

/-- An entry of SENSOR_READ. -/
def State.sensorEntry (s : State) (n : Nat) : List Byte :=
  let v := s.sensorValue n
  let f := s.sensorFlags n v.1
  toLE 2 n ++ toLE 2 (b2n v.2 + 2 * b2n (v.2 && f.1) + 4 * b2n (v.2 && f.2)) ++ toLE 4 (lowBits 32 v.1)

/-- SENSOR_READ. -/
def sensorReadSpec : CmdSpec :=
  { opcode := 0x0042, inM := true, service := true, lenOk := fun n => n == 4, run := fun _ _ b s =>
      guarded [(decide (1 ≤ fld b 2 2) && decide (fld b 2 2 ≤ 500), zeBadField)] fun _ =>
        .accept s false ((List.range (fld b 2 2)).flatMap fun i => s.sensorEntry (fld b 0 2 + i)) }

/-- SENSOR_READ arrives. -/
def execSensorRead (q : Nat) (h : CmdHdr) (b : List Byte) (s : State) : Out :=
  zcp "SENSOR_READ" 0x0042 (some sensorReadSpec) q h b s

/-! ## FENCE_QUERY and UNFENCE (R389; spec/17 R426) -/

/-- The hedged units that a scope may list, oldest hedge first: to a partition those whose hedge touches its resources (DEDUCED, n10). -/
def State.fenced (s : State) (i : Nat) : List Hedge :=
  s.err.hedges.reverse.filter fun h => i == 8 || s.touches h.domain h.index i

/-- FENCE_QUERY. -/
def fenceQuerySpec : CmdSpec :=
  { opcode := 0x0048, inM := true, inP := true, service := true, lenOk := fun n => n == 2, run := fun i _ b s =>
      let hs := s.fenced i
      .accept s false (toLE 4 hs.length ++ (((hs.drop (fld b 0 2)).take 253).flatMap fun h =>
        toLE 2 h.domain ++ toLE 2 h.index ++ toLE 1 (partByte (s.unitPart h.domain h.index)) ++ toLE 3 0 ++ toLE 8 h.stamp)) }

/-- FENCE_QUERY arrives. -/
def execFenceQuery (q : Nat) (h : CmdHdr) (b : List Byte) (s : State) : Out :=
  zcp "FENCE_QUERY" 0x0048 (some fenceQuerySpec) q h b s

/-- Has a partition that a unit belongs to, or whose cores lie on the die, a run? -/
def State.unitRuns (s : State) (domain index : Nat) : Bool :=
  partNumbers.any fun p => (s.part p).run.present && s.touches domain index p

/-- UNFENCE starts the return procedure of a unit. -/
def unfenceSpec : CmdSpec :=
  { opcode := 0x0049, inM := true, lenOk := fun n => n == 4, run := fun _ seq b s =>
      let d := fld b 0 2
      let i := fld b 2 2
      guarded [(s.hedgedUnit d i, zeNotFenced),
          (!s.unitRuns d i && !(s.err.hedges.any fun h => h.domain == d && h.index == i && h.returning.isSome), zePartBusy)] fun _ =>
        let e := s.err
        let go (h : Hedge) : Hedge := if h.domain = d ∧ h.index = i then { h with returning := some (8, seq) } else h
        .accept (({ s with err := { e with hedges := e.hedges.map go } } : State).longStart 8 seq 0x0049 d i) true [] }

/-- UNFENCE arrives. -/
def execUnfence (q : Nat) (h : CmdHdr) (b : List Byte) (s : State) : Out :=
  zcp "UNFENCE" 0x0049 (some unfenceSpec) q h b s

/-- A port has PCS lock. -/
def State.pcsLock (s : State) (port : Nat) : State :=
  ({ s with host := { s.host with locked := setBit s.host.locked port true, lostAt := Tab.set 0 s.host.lostAt port 0 } } : State).endRecovery 5 port

/-- A hedged link returns trained; what waited on it stays. It re-enters cascade service where its partition has no run (spec/16 R401). -/
def State.linkUp (s : State) (l : Nat) : State :=
  let t := s.modLink l fun x => { x.fresh with packets := x.packets, state := 2, since := s.ns }
  match s.unitPart 4 l with
  | some p => if s.linkServes l && !(s.part p).run.present then t.reenter p l else t
  | none => t

/-- A link returns by its own procedure: one of a hedged compute die stays out of service until the die returns (spec/01 R41). -/
def State.linkBack (s : State) (l : Nat) : State := if s.dieHedged (l / 16) then s else s.linkUp l

/-- What a passed return procedure leaves in a unit (R426). A test that still runs in one of its cores is aborted, and micro mode left. -/
def State.returned (s : State) (domain index : Nat) (unfence : Bool) : State :=
  let s := (s.hedgedCores domain index).foldl State.microAbort s
  let s := s.modCores (s.hedgedCores domain index) fun k => { k with scratch := [], micro := { k.micro with on := false } }
  if domain = 3 && unfence then s.zeroFill (index / 32) (index % 32)
  else if domain = 2 then
    let s := { s with err := { s.err with slipped := setBit s.err.slipped index false } }
    (((List.range 16).map (16 * index + ·)).filter fun l => (s.link l).state == 4 && !s.hedgedUnit 4 l).foldl State.linkUp s
  else if domain = 4 then s.linkBack index
  else if domain = 5 then s.pcsLock index
  else s

/-- A return procedure ends: the unit returns to service, or stays under a failure hedge (R426). -/
def execReturnProcedureDone (domain index : Nat) (pass : Bool) (s : State) : Out :=
  match s.err.hedges.find? fun h => h.domain == domain && h.index == index && h.returning.isSome with
  | none => notNow "RETURN_PROCEDURE_DONE"
  | some h =>
    let l := s.longFind 8 0x0049 fun l => l.a == domain && l.b == index
    let done (s : State) (status : Nat) : State := match l with | some l => s.longEnd l status [] | none => s
    if pass then
      let s := (s.returned domain index l.isSome).unhedge domain index
      let s := if domain = 2 then s.condMfr 0 ((List.range 4).any s.dieHedged) else s
      .next (done s 0)
    else
      let e := s.err
      let stay (g : Hedge) : Hedge :=
        if g.domain = domain ∧ g.index = index then { h with kind := 1, returning := none } else g
      .next (done { s with err := { e with hedges := e.hedges.map stay } } zeFenced)

/-! ## POWER_LIMIT_SET and STEP_CAP_SET (spec/14 R355, R356) -/

/-- POWER_LIMIT_SET. -/
def powerLimitSetSpec : CmdSpec :=
  { opcode := 0x0050, inM := true, lenOk := fun n => n == 4, run := fun _ _ b s =>
      guarded [(decide (1100 ≤ fld b 0 4), zeLimit)] fun _ =>
        .accept (s.modClk fun c => { c with powerLimit := some (fld b 0 4) }) false [] }

/-- POWER_LIMIT_SET arrives. -/
def execPowerLimitSet (q : Nat) (h : CmdHdr) (b : List Byte) (s : State) : Out :=
  zcp "POWER_LIMIT_SET" 0x0050 (some powerLimitSetSpec) q h b s

/-- STEP_CAP_SET: a cap below the present step starts a glide down. -/
def stepCapSetSpec : CmdSpec :=
  { opcode := 0x0051, inM := true, lenOk := fun n => n == 1, run := fun _ _ b s =>
      let cap := fld b 0 1
      guarded [(decide (cap ≤ 24), zeBadField)] fun _ =>
        let s := s.modClk fun c => { c with cap := cap }
        .accept (if cap < s.clk.present then s.setFwStep (min cap s.clk.fwStep) 6 else s) false [] }

/-- STEP_CAP_SET arrives. -/
def execStepCapSet (q : Nat) (h : CmdHdr) (b : List Byte) (s : State) : Out :=
  zcp "STEP_CAP_SET" 0x0051 (some stepCapSetSpec) q h b s

end Sys2Proof.Machine
end

