-- ==== Sys2Proof/Machine/Registers.lean ====
section
/-!
DEFINITION. Sys2Proof/Machine/Registers.lean: the register region (spec/00 R16, spec/01 R32): what a register reads, what a write does,
and the micro-mode control register (spec/09 R230 to R234). A register is reached by its 8-byte words; the spec gives HUB_SEG no
address and ETH_ no register.
-/
namespace Sys2Proof.Machine

/-- Module addresses of the region's blocks (R32). -/
def hubBase : Nat := 0x90000000000
/-- LNK_ registers. -/
def lnkBase : Nat := 0x90100000000
/-- CLK_ and TIME_ registers. -/
def clkBase : Nat := 0x90300000000
/-- MGT_ registers. -/
def mgtBase : Nat := 0x90400000000

/-- Put values side by side: each with its width, the first lowest. -/
def packFields : List (Nat × Nat) → Nat
  | [] => 0
  | (w, v) :: l => v % 2 ^ w + 2 ^ w * packFields l

/-- The address of a core's register at an offset of its slot (R32). -/
def State.coreRegAddr (s : State) (c off : Nat) : Nat :=
  0x80000000000 + (128 * s.dieOf c + s.localOf c) * 0x4000000 + off

/-! ## A core's registers -/

/-- CORE_PROFILE (spec/03 R101). -/
def State.coreProfile (s : State) (c : Nat) : Nat :=
  let native := if s.fuses.stepping = .a1 then 1 else 2
  let hold := match s.partOf c with | some p => (s.part p).hold | none => false
  packFields [(2, native), (1, b2n hold), (2, if s.tp1 c then 1 else 2), (3, (s.partOf c).getD 0)]

/-- CORE_LOOP[l] (spec/06 R166). -/
def Core.loopReg (k : Core) (l : Nat) : Nat :=
  match k.loops[l]? with
  | some x => packFields [(24, x.iter), (24, x.trip), (13, x.start), (3, 0), (13, x.stop), (1, 1)]
  | none => 0

/-- CORE_SIEVE_ENT[i] (spec/03 R86). -/
def Entry.reg (e : Entry) (cyc : Nat) : Nat :=
  packFields [(24, e.base), (24, e.len), (2, e.space), (3, e.kind), (1, b2n (e.live cyc)), (10, 0),
            (13, if e.kind < 3 then e.opAddr else 0), (8, if e.kind = 2 then e.tag else 0),
            (5, if 3 ≤ e.kind then e.win else 0), (6, 0), (32, e.stamp)]

/-- CORE_STOCK_ROW[r] (spec/04 R113). -/
def StockRow.reg (r : StockRow) : Nat := packFields [(1, b2n r.isOpen), (2, r.mode), (5, r.fmt), (13, r.opAddr), (1, r.unit)]

/-- SYNC_CNT[n] (spec/12 R296). -/
def Counter.reg (x : Counter) : Nat := packFields [(48, x.value), (1, b2n x.isOpen), (1, b2n x.mark.isSome), (1, b2n x.stray)]

/-- SYNC_CNT_MARK[n] (spec/12 R296). -/
def Counter.markReg (x : Counter) : Nat :=
  match x.mark with
  | some m => packFields [(44, m.addr), (13, m.opAddr), (2, m.kind), (3, m.cause), (2, 0), (9, m.core)]
  | none => 0

/-- SYNC_PORT[p] (spec/12 R313). -/
def PortFifo.reg (q : PortFifo) : Nat :=
  packFields [(15, q.bytes.length), (15, q.queue.foldl (fun t e => if e.2.2 then t else t + e.2.1.length) 0), (16, q.msgs.length + q.queue.length)]

/-- SYNC_RING[r] (spec/12 R314). -/
def Ring.reg (r : Ring) : Nat :=
  packFields [(24, r.base), (4, r.size), (1, b2n r.v), (6, r.relCnt), (24, r.status), (5, 0), (20, r.head), (20, r.tail),
            (16, r.recs.length)]

/-- SYNC_ROUTE[i] (spec/12 R308). -/
def Route.reg (r : Route) : Nat :=
  packFields [(16, r.tag), (1, b2n r.v), (1, r.plane), (2, r.kind), (2, r.index), (10, 0), (9, r.core), (13, r.rank), (1, b2n r.xmod)]

/-- Does the core's oldest waiting transfer wait for regulator tokens (spec/11 R281, R283)? -/
def State.tokenWait (s : State) (c : Nat) : Bool :=
  match s.oldest c with
  | some x => (s.core c).rateNow != 0 && decide ((s.core c).tokens < x.counted)
  | none => false

/-- DMA_QUEUE_STAT (spec/11 R281). -/
def State.queueStat (s : State) (c : Nat) : Nat :=
  let held (q : Nat) : Nat := (s.xfers.filter fun x => x.core == c && !x.foreign && x.tag.isSome && x.queue == q).length
  packFields [(9, (s.freeTags c).length), (9, held 0), (9, held 1), (9, held 2), (9, held 3), (1, b2n (s.tokenWait c))]

/-- Word `w` (0 or 1) of a 128-bit register. -/
def half (v w : Nat) : Nat := bits v (64 * w + 63) (64 * w)

/-- Entry i of an array of registers of `n` bytes each at `base`, `count` of them: i and the word within it. -/
def arrayAt (base n count a : Nat) : Option (Nat × Nat) :=
  if base ≤ a ∧ a < base + n * count then some ((a - base) / n, (a - base) % n / 8) else none

/-- The first answer of a list. -/
def firstSome {α : Type} : List (Option α) → Option α
  | [] => none
  | some x :: _ => some x
  | none :: l => firstSome l

/-- The single registers of a core, by offset (R32 and the rules each cites above). -/
def State.coreWord (s : State) (c off : Nat) : Option Nat :=
  let k := s.core c
  let m := k.micro
  match off with
  | 0x080 => some (s.coreProfile c)
  | 0x0C0 => some (s.coreCycle c % 2 ^ 64)
  | 0x100 => some k.stalls
  | 0x140 => some (packFields [(13, k.stallOp), (2, k.stallCause), (1, b2n k.stallValid), (32, k.stallStamp)])
  | 0x180 => some k.arith.toNat
  | 0x200 => some (bits k.pvalid 63 0)
  | 0x208 => some (bits k.pvalid 127 64)
  | 0x210 => some (bits k.dvalid 31 0)
  | 0x240 => some (packFields [(4, k.bucket), (13, k.entry), (13, k.next), (1, b2n k.running), (1, b2n k.halted), (1, b2n k.faulted)])
  | 0x250 => some (packFields [(32, k.illCount), (13, k.illOp), (8, k.illReason)])
  | 0x400 => some (packFields [(1, b2n m.on), (1, b2n m.priv), (30, 0), (19, m.entry)])
  | 0x408 => some (bits m.limit 31 0)
  | 0x410 => some m.stat
  | 0x500 => some (packFields [(12, k.rate), (4, 0), (16, k.burst), (32, k.tokens)])
  | 0x510 => some (s.queueStat c)
  | 0x4A00 => some (packFields [(16, k.sendTag), (13, k.sendOp), (3, k.sendReason), (32, k.sendStamp)])
  | 0x4A08 => some (packFields [(32, k.sent), (32, k.refused)])
  | _ => none

/-- The arrays of registers of a core. -/
def State.coreArrays (s : State) (c off : Nat) : List (Option Nat) :=
  let k := s.core c
  [(arrayAt 0x280 8 8 off).map fun i => Tab.get 0 k.shape i.1,
   (arrayAt 0x300 16 4 off).map fun i => half (k.loopReg i.1) i.2,
   (arrayAt 0x600 8 32 off).map fun i =>
     let h : Handle := Tab.get {} k.handles i.1
     packFields [(8, h.window), (16, h.epoch), (1, b2n h.v)],
   (arrayAt 0x1000 16 96 off).map fun i => half ((k.ent i.1).reg s.cyc) i.2,
   (arrayAt 0x2000 8 1024 off).map fun i => (k.row i.1).reg,
   (arrayAt 0x4000 8 64 off).map fun i => (k.cnt i.1).reg,
   (arrayAt 0x4200 8 64 off).map fun i => (k.cnt i.1).base,
   (arrayAt 0x4400 8 64 off).map fun i => (k.cnt i.1).ceil,
   (arrayAt 0x4600 16 64 off).map fun i => half (k.cnt i.1).markReg i.2,
   (arrayAt 0x4A40 8 4 off).map fun i => (k.port i.1).reg,
   (arrayAt 0x4A80 16 4 off).map fun i => half (k.ring i.1).reg i.2,
   (arrayAt 0x5000 16 256 off).map fun i => half (Tab.get ({} : Route) k.routes i.1).reg i.2]

/-- The physical place of register slot `n` of a die: of an enabled core, or of the j-th disabled one at 64 + j (spec/12 R310). -/
def State.slotPlace (s : State) (d n : Nat) : Option Nat :=
  let places (on : Bool) : List Nat := (List.range 72).filter fun i => bit (s.fuses.coreMap.getD d 0) i == on
  if n < s.perDie then (places true)[n]? else (places false)[n - 64]?

/-- Eight entries of the slot tables, from byte `o` of a router's 320 (spec/12 R310). -/
def State.slotWord (s : State) (d place o : Nat) : Nat :=
  leNat ((Memory.read s.slotTables (320 * (72 * d + place) + o) 8).map fun b => b % 8)

/-! ## The module's registers -/

/-- HUB_WIN[p][w] (spec/11 R289). -/
def Window.reg (w : Window) : Nat :=
  packFields [(44, w.base), (20, 0), (16, w.epoch), (1, b2n w.isOpen), (1, w.kind), (9, w.core), (5, w.slot), (32, w.len)]

/-- HUB_CHAN[s][c] (spec/11 R276). -/
def State.chanReg (s : State) (n : Nat) : Nat :=
  let c := s.chan n
  let absent : Bool := s.fuses.grade = .tx768 && n / 32 % 5 == 4
  packFields [(2, if absent then 2 else c.state), (1, b2n c.reqOff), (13, 0), (16, c.ce), (16, c.ue)]

/-- LNK_STAT[l] (spec/16 R400): TWIN stands on GL62 while it is in service, else on GL63, its standby (R414). -/
def State.linkStat (s : State) (l : Nat) : Nat :=
  let k := s.link l
  packFields [(3, k.state), (3, k.role), (1, b2n (k.twin && (l == 62 || (s.link 62).state != 3))), (1, 0), (13, k.peerRank), (3, k.peerLink), (8, 0), (16, k.retrains)]

/-- The partition LNK_CASCADE reports: the lowest-numbered one that has joined a cascade or is joining (DEDUCED, n12). -/
def State.cascadePart (s : State) : Option Nat :=
  partNumbers.find? fun p => (s.part p).exist && ((s.part p).cascade.joined || (s.part p).cascade.joining)

/-- LNK_CASCADE (spec/16 R410). -/
def State.cascadeReg (s : State) : Nat :=
  match s.cascadePart with
  | none => 0
  | some p =>
    let k := (s.part p).cascade
    packFields [(13, k.rank), (5, k.dimX - 1), (4, k.dimY - 1), (4, k.dimZ - 1), (1, b2n k.joined), (1, b2n k.master),
              (13, k.masterRank), (1, b2n k.twin), (1, b2n s.twinUp), (3, p)]

/-- LNK_CASCADE_ID (spec/16 R410). -/
def State.cascadeId (s : State) : Nat := match s.cascadePart with | none => 0 | some p => (s.part p).cascade.ident

/-- CLK_STEP (spec/14 R343). -/
def Clocks.stepReg (c : Clocks) : Nat :=
  packFields [(5, c.present), (5, if c.gliding then c.target else c.present), (5, c.cap), (1, b2n c.gliding), (1, b2n c.throttle),
            (1, b2n c.alarmHold.isSome), (3, c.cause), (11, 0), (32, c.glides)]

/-- CLK_REPLICA[r] (spec/14 R344). -/
def Replica.reg (r : Replica) : Nat :=
  packFields [(8, r.margin), (8, 0), (1, b2n r.warn), (1, b2n r.alarm), (6, 0), (8, r.warnTh), (8, r.alarmTh)]

/-- TIME_CTL (spec/14 R349). -/
def Clocks.timeCtl (c : Clocks) : Nat :=
  packFields [(2, c.source), (1, b2n c.locked), (1, b2n c.refLost), (4, 0), (16, lowBits 16 c.offset)]

/-- MGT_STATE (spec/18 R432). -/
def State.mgtState (s : State) : Nat :=
  let m := s.mgt
  packFields [(4, m.phase), (1, m.activeSlot), (1, b2n m.stagedOk), (1, b2n m.staging), (1, b2n m.activating), (2, m.profile),
            (6, m.slotId), (3, m.key), (13, 0), (7, s.fuses.svMin)]

/-- The single registers of the hub, the links, the clocks and the controller. -/
def State.hubWord (s : State) (a : Nat) : Option Nat :=
  match a with
  | 0x90000000100 => some s.repro
  | 0x90000000200 => some (packFields [(9, s.err.queue.length), (1, 0), (6, 0), (32, s.err.overflows)])
  | 0x90100010000 => some s.cascadeReg
  | 0x90100010008 => some s.cascadeId
  | 0x90300000000 => some s.clk.stepReg
  | 0x90300010000 => some s.now
  | 0x90300010008 => some s.clk.timeCtl
  | 0x90300010010 => some s.clk.ppsStamp
  | 0x90300010018 => some 0
  | 0x90400000000 => some s.mgtState
  | 0x90400000008 => some (packFields [(32, s.mgt.mgtVer), (32, s.mgt.cpVer)])
  | _ => none

/-- The arrays of registers of the hub, the links and the clocks. -/
def State.hubArrays (s : State) (a : Nat) : List (Option Nat) :=
  let win (i : Nat) : Window := Tab.get {} (s.part (i / 256)).windows (i % 256)
  [(arrayAt 0x90000100000 16 2048 a).map fun i => half (win i.1).reg i.2,
   (arrayAt 0x90000180000 8 2048 a).map fun i => packFields [(32, (win i.1).refusals), (32, (win i.1).refStamp)],
   (arrayAt 0x90000200000 8 640 a).map fun i => s.chanReg i.1,
   (arrayAt 0x90000280000 8 32 a).map fun i =>
     let b := (s.part (i.1 / 4)).bucket (i.1 % 4)
     packFields [(16, b.1), (32, b.2)],
   (arrayAt 0x90000300000 8 256 a).map fun i => s.ticket i.1,
   (arrayAt 0x90000300800 8 8 a).map fun i => packFields [(8, (s.part i.1).wtBase), (9, (s.part i.1).wtCount)],
   (arrayAt 0x90100000000 8 64 a).map fun i => s.linkStat i.1,
   (arrayAt 0x90100000400 8 64 a).map fun i =>
     packFields [(32, (s.link i.1).corr), (16, (s.link i.1).uncorr), (16, (s.link i.1).replays)],
   (arrayAt 0x90300000100 8 16 a).map fun i => (s.replica i.1).reg]

/-- A core's register slot: the die and the slot of an address, and the offset (R32). -/
def slotOfReg (a : Nat) : Option (Nat × Nat × Nat) :=
  let o := a - 0x80000000000
  if 0x80000000000 ≤ a ∧ o / 0x4000000 < 512 then some (o / 0x4000000 / 128, o / 0x4000000 % 128, o % 0x4000000) else none

/-- The core whose register slot an address lies in, if any. -/
def State.coreOfReg (s : State) (a : Nat) : Option (Nat × Nat) :=
  match slotOfReg a with
  | some (d, n, off) => if n < s.perDie then some (s.perDie * d + n, off) else none
  | none => none

/-- The word of the slot tables an address names: die, place, first byte (spec/12 R310). -/
def State.slotByte (s : State) (a : Nat) : Option (Nat × Nat × Nat) :=
  match slotOfReg a with
  | some (d, n, off) =>
    if 0x6000 ≤ off ∧ off < 0x6140 then (s.slotPlace d n).map fun p => (d, p, off - 0x6000) else none
  | none => none

/-- The 8-byte register word at an address, if a register lies there (R16, R32). -/
def State.readReg (s : State) (a : Nat) : Option Nat :=
  if a % 8 ≠ 0 then none
  else if 0x90000000000 ≤ a then firstSome (s.hubWord a :: s.hubArrays a)
  else
    match s.slotByte a with
    | some x => some (s.slotWord x.1 x.2.1 x.2.2)
    | none =>
      match s.coreOfReg a with
      | some x => firstSome (s.coreWord x.1 x.2 :: s.coreArrays x.1 x.2)
      | none => none

/-! ## The micro-mode control register (spec/09 R230 to R234) -/

/-- LG_WRITE_DISCARDED of the command processor (spec/17 R420). -/
def State.writeDiscarded (s : State) (a : Nat) : State := s.logEntry 7 1 none 0x0054 (toLE 6 a)

/-- What a write of CORE_MICRO_CTL sets: ENTRY has 19 bits and stays a multiple of 4. -/
def Core.microCtl (k : Core) (micro priv : Bool) (entry : Nat) : Core :=
  let e := entry % 2 ^ 19 / 4 * 4
  if micro && !k.micro.on then k.enterMicro priv e else { k with micro := { k.micro with on := micro, priv := priv, entry := e } }

/-- A write of CORE_MICRO_CTL (R230): ABORT ends a micro run; else it is discarded while the core runs. MICRO is set only while every tag
of the core is free (R231): a write that would set it earlier is discarded too (DESIGN CHOICE, n13). -/
def State.writeMicroCtl (s : State) (c : Nat) (micro priv go abort : Bool) (entry : Nat) : State :=
  let k := s.core c
  if abort && k.working then s.microAbort c
  else if k.working || (micro && !k.micro.on && !(s.heldTags c).isEmpty) then s.writeDiscarded (s.coreRegAddr c 0x400)
  else
    let k := k.microCtl micro priv entry
    s.setCore c (if go && k.micro.on then k.goMicro s.now s.cyc else k)

/-- A write of CORE_MICRO_LIMIT (R230). -/
def State.writeMicroLimit (s : State) (c us : Nat) : State :=
  if (s.core c).working then s.writeDiscarded (s.coreRegAddr c 0x408)
  else s.modCore c fun k => { k with micro := { k.micro with limit := us } }

/-! ## A write of a register word (R16) -/

/-- The word that a write of the bits of `mask` leaves in the fields that are RW. -/
def mergeWord (old val mask : Nat) : Nat :=
  let b (n : Nat) : BitVec 64 := BitVec.ofNat 64 n
  ((b old &&& ~~~ b mask) ||| (b val &&& b mask)).toNat

/-- The bits a write sets to 1: what W1C and WO fields see. -/
def onesOf (val mask : Nat) : Nat := (BitVec.ofNat 64 val &&& BitVec.ofNat 64 mask).toNat

/-- A write to a core's register; `v` is the merged word and `ones` the bits written as 1. RO fields take no effect. -/
def State.writeCore (s : State) (c off v ones : Nat) : State :=
  if off = 0x180 then s.modCore c fun k => { k with arith := k.arith.w1c ones }
  else if off = 0x400 then s.writeMicroCtl c (bit v 0) (bit v 1) (bit ones 2) (bit ones 3) (bits v 50 32)
  else if off = 0x408 then s.writeMicroLimit c (bits v 31 0)
  else if off = 0x500 then s.modCore c fun k => { k with rate := bits v 11 0, burst := bits v 31 16 }
  else
    match arrayAt 0x4000 8 64 off, arrayAt 0x4A80 16 4 off, arrayAt 0x5000 16 256 off with
    | some i, _, _ => s.modCore c fun k => k.setCnt i.1 { k.cnt i.1 with stray := (k.cnt i.1).stray && !bit ones 50 }
    | none, some i, _ =>
      if i.2 = 1 then s
      else s.modCore c fun k =>
        let r := Ring.ofNat v
        { k with rings := Tab.set {} k.rings i.1 { k.ring i.1 with base := r.base, size := r.size, v := r.v, relCnt := r.relCnt,
                                                                   status := r.status } }
    | none, none, some i =>
      if i.2 = 1 then s
      else s.modCore c fun k =>
        { k with routes := Tab.set {} k.routes i.1 { Route.ofNat v with seq := (Tab.get {} k.routes i.1).seq } }
    | _, _, _ => s

/-- A write of the thresholds and the sticky bits of CLK_REPLICA[r] (spec/14 R344). -/
def State.writeReplica (s : State) (r v ones : Nat) : State :=
  if bits v 31 24 ≤ bits v 39 32 then s.logEntry 8 0 none 0x0054 (toLE 6 (0x90300000100 + 8 * r))
  else s.modReplica r fun x =>
    { x with warnTh := bits v 31 24, alarmTh := bits v 39 32, warn := x.warn && !bit ones 16, alarm := x.alarm && !bit ones 17 }

/-- A write of HUB_WIN (spec/11 R289). -/
def Window.write (w : Window) (word v : Nat) : Window :=
  if word = 0 then { w with base := bits v 43 0 }
  else { w with epoch := bits v 15 0, isOpen := bit v 16, kind := bits v 17 17, core := bits v 26 18, slot := bits v 31 27,
                len := bits v 63 32 }

/-- A write to a register of the hub or the clocks. CAP is written through STEP_CAP_SET alone (spec/14 R343): a write of CLK_STEP is
discarded and logged (DESIGN CHOICE, n13). -/
def State.writeHub (s : State) (a v ones : Nat) : State :=
  if a = 0x90300000000 then s.writeDiscarded a
  else if a = 0x90300010008 then s.modClk fun c => { c with source := bits v 1 0, ownSource := if bits v 1 0 = 3 then c.ownSource else bits v 1 0,
                                                              toGo := if bits v 1 0 = c.source then c.toGo else 0 }
  else if a = 0x90300010018 then s.timeStep (signed 64 ones)
  else
    match arrayAt 0x90000100000 16 2048 a, arrayAt 0x90000200000 8 640 a, arrayAt 0x90000280000 8 32 a,
        arrayAt 0x90000300800 8 8 a, arrayAt 0x90300000100 8 16 a with
    | some i, _, _, _, _ => s.modWindow (i.1 / 256) (i.1 % 256) fun w => w.write i.2 v
    | none, some i, _, _, _ => if s.chanAbsent (i.1 / 32) then s else s.reqOff (i.1 / 32) (i.1 % 32) (bit v 2)
    | none, none, some i, _, _ =>
      s.modPart (i.1 / 4) fun p => { p with buckets := Tab.set (0, 0) p.buckets (i.1 % 4) (bits v 15 0, (p.bucket (i.1 % 4)).2) }
    | none, none, none, some i, _ => s.modPart i.1 fun p => { p with wtBase := bits v 7 0, wtCount := bits v 16 8 }
    | none, none, none, none, some i => s.writeReplica i.1 v ones
    | _, _, _, _, _ => s

/-- A write of the bits of `mask` to the register word at an address. Where no register lies nothing changes (spec/01 R27). -/
def State.writeReg (s : State) (a val mask : Nat) : State :=
  match s.readReg a with
  | none => s
  | some old =>
    let v := mergeWord old val mask
    let ones := onesOf val mask
    if 0x90000000000 ≤ a then s.writeHub a v ones
    else
      match s.slotByte a with
      | some x =>
        { s with slotTables := Memory.write s.slotTables (320 * (72 * x.1 + x.2.1) + x.2.2) ((toLE 8 v).map fun b => b % 8) }
      | none =>
        match s.coreOfReg a with
        | some x => s.writeCore x.1 x.2 v ones
        | none => s

/-- Does a register word belong to those that only the command processor, or it and the controller, write (spec/09 R230; spec/11 R276,
R289; spec/12 R308; spec/14 R343, R349)? A store of a firmware image there is discarded and logged (DESIGN CHOICE, n13). -/
def State.processorOnly (s : State) (a : Nat) : Bool :=
  a == 0x90300000000 || a == 0x90300010008 || a == 0x90300010018 || (arrayAt 0x90000100000 16 2048 a).isSome
    || (arrayAt 0x90000200000 8 640 a).isSome
    || (match s.coreOfReg a with | some x => x.2 == 0x400 || x.2 == 0x408 || (arrayAt 0x5000 16 256 x.2).isSome | none => false)

/-- A write of a register word (R16). -/
def execRegisterWrite (a value : Nat) (s : State) : Out :=
  if s.mgt.moduleOn then .next (s.writeReg a value (2 ^ 64 - 1)) else notNow "REGISTER_WRITE"

end Sys2Proof.Machine
end

