-- ==== Sys2Proof/Machine/Micro.lean ====
section
/-!
DEFINITION. Sys2Proof/Machine/Micro.lean: micro mode (spec/09): entry, GO, abort and time limit, the addresses of R235, and one meaning
for each instruction of R238 to R240.
-/
namespace Sys2Proof.Machine

/-! ## Control (R230 to R234) -/

/-- MICRO is set on an idle core whose tags are free (R231); a write while the core runs is discarded (R230). -/
def execMicroModeEnter (c : Nat) (priv : Bool) (entry : Nat) (s : State) : Out :=
  if s.nCores ≤ c ∨ (!(s.core c).working && !(s.heldTags c).isEmpty) ∨ !s.mgt.moduleOn then notNow "MICRO_MODE_ENTER"
  else .next (s.writeMicroCtl c true priv false false entry)

/-- MICRO is cleared (R231, R234); a write during a micro run is discarded (R230). -/
def execMicroModeExit (c : Nat) (s : State) : Out :=
  if s.nCores ≤ c ∨ !s.mgt.moduleOn then notNow "MICRO_MODE_EXIT"
  else .next (s.writeMicroCtl c false (s.core c).micro.priv false false (s.core c).micro.entry)

/-- GO is written with MICRO at 1 (R230). -/
def execGo (c : Nat) (priv : Bool) (entry : Nat) (s : State) : Out :=
  if s.nCores ≤ c ∨ (!(s.core c).working && !(s.heldTags c).isEmpty) ∨ !s.mgt.moduleOn then notNow "GO"
  else .next (s.writeMicroCtl c true priv true false entry)

/-- ABORT is written (R230, R232): it ends a micro run at once and has no other effect. -/
def execAbort (c : Nat) (s : State) : Out := s.whenOn "ABORT" (.next (s.microAbort c))

/-- May a core execute micro instructions: it is not hedged, or its test runs as part of the return procedure of its unit (spec/17 R426);
and no bridge of its die has slipped, unless the die is being returned, and so retrained (spec/03 R99)? -/
def State.mayTest (s : State) (c : Nat) : Bool :=
  let on (h : Hedge) : Bool := (s.hedgedCores h.domain h.index).contains c
  let back := s.err.hedges.any fun h => on h && h.returning.isSome
  let trained := !s.slipped (s.dieOf c) || s.err.hedges.any fun h => h.domain == 2 && h.index == s.dieOf c && h.returning.isSome
  (!s.coreHedged c || back) && trained

/-- Does a core execute micro instructions? -/
def State.microRuns (s : State) (c : Nat) : Bool :=
  decide (c < s.nCores) && (s.core c).micro.running && s.mayTest c

/-- The time limit ends a micro run (R232). -/
def execMicroTimeLimit (c : Nat) (s : State) : Out :=
  if (s.core c).micro.running && (s.core c).micro.overtime s.now then .next (s.microTimeout c) else notNow "MICRO_TIME_LIMIT"

/-! ## Fields (R237) -/

/-- OPC. -/
def mOpc (w : Nat) : Nat := bits w 31 26
/-- D of formats R, I, J and E. -/
def mD (w : Nat) : Nat := bits w 25 21
/-- A of formats R and I. -/
def mA (w : Nat) : Nat := bits w 20 16
/-- B of format R. -/
def mB (w : Nat) : Nat := bits w 15 11
/-- IMM, as it stands. -/
def mImm (w : Nat) : Nat := bits w 15 0
/-- IMM, sign-extended to 64 bits. -/
def mImmS (w : Nat) : Nat := lowBits 64 (signed 16 w)
/-- VD of format V. -/
def mVD (w : Nat) : Nat := bits w 25 22
/-- VA of format V. -/
def mVA (w : Nat) : Nat := bits w 21 18
/-- VB of format V. -/
def mVB (w : Nat) : Nat := bits w 17 14
/-- GA of format V. -/
def mGA (w : Nat) : Nat := bits w 13 9
/-- ET of format V. -/
def mET (w : Nat) : Nat := bits w 8 5
/-- FN of format V. -/
def mFN (w : Nat) : Nat := bits w 4 0
/-- VA of format E. -/
def mEVA (w : Nat) : Nat := bits w 20 17
/-- IDX of format E. -/
def mIdx (w : Nat) : Nat := bits w 16 6
/-- ET of format E. -/
def mEET (w : Nat) : Nat := bits w 5 2

/-- Bytes of an element type (R239). -/
def etBytes (et : Nat) : Nat := if et = 0 then 1 else if et = 1 then 2 else if et = 3 then 8 else 4

/-- A general register: G0 reads as zero (R228). -/
def Micro.reg (m : Micro) (i : Nat) : Nat := if i = 0 then 0 else Tab.get 0 m.g i

/-- Write a general register: a write to G0 is discarded (R228). -/
def Micro.setReg (m : Micro) (i v : Nat) : Micro := if i = 0 then m else { m with g := Tab.set 0 m.g i (v % 2 ^ 64) }

/-- The 512 bytes of a vector register. -/
def Micro.vec (m : Micro) (i : Nat) : List Byte := Memory.read m.v (512 * i) 512

/-- Write a vector register. -/
def Micro.setVec (m : Micro) (i : Nat) (bs : List Byte) : Micro := { m with v := Memory.write m.v (512 * i) bs }

/-- A format that the matrix instructions take: an operand format the grade has (R61, R240). -/
def State.matrixFmt (s : State) (code : Nat) : Option Fmt :=
  match Fmt.ofCode code with
  | some f => if f.arrayOperand && !(s.fuses.grade = .tx768 && f.fusedOn768) then some f else none
  | none => none

/-- Every field an instruction does not use is 0, and every field is in its range (R237 to R241). -/
def fieldsOk (w : Nat) : Bool :=
  let low := bits w 10 0 == 0
  let o := mOpc w
  if 0x01 ≤ o ∧ o ≤ 0x0C then low
  else if (0x10 ≤ o ∧ o ≤ 0x13) ∨ (0x18 ≤ o ∧ o ≤ 0x1B) ∨ (0x20 ≤ o ∧ o ≤ 0x23) ∨ o = 0x28 then true
  else match o with
    | 0x14 => bits w 15 6 == 0
    | 0x15 => bits w 15 6 == 0
    | 0x16 => mA w == 0
    | 0x29 => mB w == 0 && low
    | 0x30 => mA w == 0 && decide (mImm w < 4)
    | 0x34 => mD w == 0 && low
    | 0x35 => mVD w == 0 && mVB w == 0 && mGA w == 0 && mET w == 0 && mFN w == 0
    | 0x36 => bits w 25 0 == 0
    | 0x37 => mVD w == 0 && mVB w == 0 && mET w == 0 && mFN w == 0
    | 0x38 => mVA w == 0 && mVB w == 0 && mFN w == 0 && mET w == 0
    | 0x39 => mVD w == 0 && mVB w == 0 && mFN w == 0 && mET w == 0
    | 0x3A =>
      decide (mET w ≤ 4) && decide (mFN w ≤ 8) && (if mFN w = 8 then mVA w == 0 && mVB w == 0 else mGA w == 0)
    | 0x3B => bits w 1 0 == 0 && decide (mEET w ≤ 4) && decide (mIdx w < 512 / etBytes (mEET w))
    | 0x3C => bits w 1 0 == 0 && decide (mEET w ≤ 4) && decide (mIdx w < 512 / etBytes (mEET w))
    | 0x3D => low && mD w % 2 == 0 && mD w != 0
    | 0x3E => low
    | 0x3F => mD w == 0 && mA w == 0
    | _ => false

/-- Is an instruction legal (R241)? MOPEN names a format of the grade (R240). -/
def State.microLegal (s : State) (c w : Nat) : Bool :=
  fieldsOk w && (mOpc w != 0x34 || (s.matrixFmt (bits ((s.core c).micro.reg (mB w)) 20 16)).isSome)

/-! ## Addresses (R235, R236) -/

/-- Where a micro address leads: the core's own scratchpad, or a module address. -/
inductive MPlace where
  | own (off : Nat)
  | module (a : Nat)
  deriving DecidableEq, Repr

/-- The place of an access of `n` bytes at a micro address (R235, R244): first alignment, then the space. -/
def State.microPlace (s : State) (c pc ea n : Nat) (right : Need) : Except MFault MPlace :=
  let toOwn (a : Nat) : MPlace :=
    match s.locate a with
    | .scratch d off => if d = c then .own off else .module a
    | _ => .module a
  if ea % n ≠ 0 then .error (microFault 2 pc)
  else
    match bits ea 63 62 with
    | 0 => if bits ea 61 24 ≠ 0 ∨ 0xC00000 ≤ bits ea 23 0 then .error (microFault 3 pc) else .ok (.own (bits ea 23 0))
    | 1 =>
      if bits ea 61 44 ≠ 0 then .error (microFault 3 pc)
      else
        let a := bits ea 43 0
        match (s.partOf c).bind fun p => s.translate p a n right with
        | some m => .ok (toOwn m)
        | none => .error ((segFault (opAddrOf pc) a n right).micro 4)
    | 2 => if bits ea 61 44 ≠ 0 ∨ !(s.core c).micro.priv then .error (microFault 3 pc) else .ok (toOwn (bits ea 43 0))
    | _ => .error (microFault 3 pc)

/-- The address GA + IMM. -/
def Micro.ea (m : Micro) (w : Nat) : Nat := lowBits 64 ((m.reg (mA w) : Int) + mImmS w)

/-- The access of an instruction: its address, its bytes, and the right it needs. -/
def Micro.access (m : Micro) (w : Nat) : Option (Nat × Nat × Need) :=
  match mOpc w with
  | 0x18 => some (m.ea w, 8, .rd)
  | 0x19 => some (m.ea w, 4, .rd)
  | 0x1A => some (m.ea w, 8, .wr)
  | 0x1B => some (m.ea w, 4, .wr)
  | 0x38 => some (m.reg (mGA w), 512, .rd)
  | 0x39 => some (m.reg (mGA w), 512, .wr)
  | _ => none

/-- The counted length of an instruction's access to memory or to another core's scratchpad (spec/11 R284): it is a transfer, with a tag
of its own, of the core's activation-in or outbound queue (R236). On entry every tag is free (R231), so that one always is. -/
def State.microCounted (s : State) (c w pc : Nat) : Nat :=
  match (s.core c).micro.access w with
  | none => 0
  | some x =>
    match s.microPlace c pc x.1 x.2.1 x.2.2 with
    | .ok (.module a) => (match s.locate a with | .mem .. => ceilDiv x.2.1 64 * 64 | .scratch .. => ceilDiv x.2.1 64 * 64 | _ => 0)
    | _ => 0

/-- Do a core's bucket and that of its partition on its die hold the tokens (spec/11 R284)? -/
def State.mayPay (s : State) (c n : Nat) : Bool :=
  let k := s.core c
  (k.rateNow == 0 || decide (n ≤ k.tokens))
    && (match s.partOf c with | some p => decide (n ≤ ((s.part p).bucket (s.dieOf c)).2) | none => true)

/-- The tokens of a launched access are paid. -/
def State.payTokens (s : State) (c n : Nat) : State :=
  let s := if n = 0 then s else s.modCore c fun k => { k with tokens := if k.rateNow = 0 then k.tokens else k.tokens - n }
  match s.partOf c with
  | some p => if n = 0 then s else s.payBucket c p n
  | none => s

/-! ## One instruction -/

/-- What an instruction does to the state, given its word and its PC: the new state, or the fault with what the access that failed
left. PC already stands at the next instruction. -/
abbrev MStep := State → Nat → Nat → Nat → Except (State × MFault) State

/-- The core is past the instruction at its PC (R229). -/
def Micro.past (m : Micro) : Micro := { m with last := m.pc, pc := (m.pc + 4) % 0x80000 }

/-- A core takes up the instruction at its PC (R229, R241, R244). An access whose tokens lack waits (R236, spec/11 R284). -/
def microRow (mnemonic : String) (mine : Nat → Bool) (f : MStep) (c : Nat) (s : State) : Out :=
  let m := (s.core c).micro
  if !s.microRuns c || m.overtime s.now then notNow mnemonic
  else
    let s' := s.modCore c fun k => { k with micro := k.micro.past }
    if !(s.core c).blockValid (opAddrOf m.pc) then .next (s'.microStop c ((notLoaded (opAddrOf m.pc) 0xFFFF).micro 9))
    else
      let w := Memory.nat (s.core c).pstore m.pc 4
      if !mine (mOpc w) then notNow mnemonic
      else if !s.microLegal c w then .next (s'.microStop c (microFault 1 m.pc))
      else if !s.mayPay c (s.microCounted c w m.pc) then .next s
      else
        match f (s'.payTokens c (s.microCounted c w m.pc)) c w m.pc with
        | .ok s => .next s
        | .error e => .next (e.1.microStop c e.2)

/-- An instruction that changes the micro state alone. -/
def onMicro (f : Micro → Nat → Nat → Micro) : MStep :=
  fun s c w pc => .ok (s.modCore c fun k => { k with micro := f k.micro w pc })

/-- GD := f GA GB (R238). -/
def regOp (f : Nat → Nat → Nat) : MStep := onMicro fun m w _ => m.setReg (mD w) (f (m.reg (mA w)) (m.reg (mB w)))

/-- GD := f GA IMM (R238). -/
def immOp (imm : Nat → Nat) (f : Nat → Nat → Nat) : MStep := onMicro fun m w _ => m.setReg (mD w) (f (m.reg (mA w)) (imm w))

/-! ### Arithmetic (R238) -/

/-- A 64-bit word. -/
def w64 (n : Nat) : BitVec 64 := BitVec.ofNat 64 n

/-- Addition modulo 2^64. -/
def mAdd (a b : Nat) : Nat := (a + b) % 2 ^ 64
/-- Subtraction modulo 2^64. -/
def mSub (a b : Nat) : Nat := lowBits 64 ((a : Int) - b)
/-- Bitwise and. -/
def mAnd (a b : Nat) : Nat := (w64 a &&& w64 b).toNat
/-- Bitwise or. -/
def mOr (a b : Nat) : Nat := (w64 a ||| w64 b).toNat
/-- Bitwise exclusive or. -/
def mXor (a b : Nat) : Nat := (w64 a ^^^ w64 b).toNat
/-- Shift left by bits [5:0]. -/
def mShl (a b : Nat) : Nat := (a * 2 ^ (b % 64)) % 2 ^ 64
/-- Logical shift right by bits [5:0]. -/
def mShr (a b : Nat) : Nat := a / 2 ^ (b % 64)
/-- Arithmetic shift right by bits [5:0]. -/
def mSar (a b : Nat) : Nat := lowBits 64 (signed 64 a / (2 ^ (b % 64) : Nat))
/-- Signed less-than. -/
def mSlt (a b : Nat) : Nat := b2n (decide (signed 64 a < signed 64 b))
/-- Unsigned less-than. -/
def mSltu (a b : Nat) : Nat := b2n (decide (a < b))

/-- ADD (R238). -/
def execAdd (c : Nat) (s : State) : Out := microRow "ADD" (· == 0x01) (regOp mAdd) c s
/-- SUB (R238). -/
def execSub (c : Nat) (s : State) : Out := microRow "SUB" (· == 0x02) (regOp mSub) c s
/-- AND (R238). -/
def execAnd (c : Nat) (s : State) : Out := microRow "AND" (· == 0x03) (regOp mAnd) c s
/-- OR (R238). -/
def execOr (c : Nat) (s : State) : Out := microRow "OR" (· == 0x04) (regOp mOr) c s
/-- XOR (R238). -/
def execXor (c : Nat) (s : State) : Out := microRow "XOR" (· == 0x05) (regOp mXor) c s
/-- SHL (R238). -/
def execShl (c : Nat) (s : State) : Out := microRow "SHL" (· == 0x06) (regOp mShl) c s
/-- SHR (R238). -/
def execShr (c : Nat) (s : State) : Out := microRow "SHR" (· == 0x07) (regOp mShr) c s
/-- SAR (R238). -/
def execSar (c : Nat) (s : State) : Out := microRow "SAR" (· == 0x08) (regOp mSar) c s
/-- MUL (R238). -/
def execMul (c : Nat) (s : State) : Out := microRow "MUL" (· == 0x09) (regOp fun a b => a * b % 2 ^ 64) c s
/-- MULHU (R238). -/
def execMulhu (c : Nat) (s : State) : Out := microRow "MULHU" (· == 0x0A) (regOp fun a b => a * b / 2 ^ 64) c s
/-- SLT (R238). -/
def execSlt (c : Nat) (s : State) : Out := microRow "SLT" (· == 0x0B) (regOp mSlt) c s
/-- SLTU (R238). -/
def execSltu (c : Nat) (s : State) : Out := microRow "SLTU" (· == 0x0C) (regOp mSltu) c s
/-- ADDI (R238). -/
def execAddi (c : Nat) (s : State) : Out := microRow "ADDI" (· == 0x10) (immOp mImmS mAdd) c s
/-- ANDI (R238). -/
def execAndi (c : Nat) (s : State) : Out := microRow "ANDI" (· == 0x11) (immOp mImm mAnd) c s
/-- ORI (R238). -/
def execOri (c : Nat) (s : State) : Out := microRow "ORI" (· == 0x12) (immOp mImm mOr) c s
/-- XORI (R238). -/
def execXori (c : Nat) (s : State) : Out := microRow "XORI" (· == 0x13) (immOp mImm mXor) c s
/-- SHLI (R238). -/
def execShli (c : Nat) (s : State) : Out := microRow "SHLI" (· == 0x14) (immOp mImm mShl) c s
/-- SHRI (R238). -/
def execShri (c : Nat) (s : State) : Out := microRow "SHRI" (· == 0x15) (immOp mImm mShr) c s
/-- LUI (R238). -/
def execLui (c : Nat) (s : State) : Out := microRow "LUI" (· == 0x16) (immOp mImmS fun _ i => i * 65536 % 2 ^ 64) c s

/-! ### Loads and stores (R235, R236) -/

/-- An address in the part of the register region that a block has (spec/01 R32). -/
def inRegBlock (a : Nat) : Bool := decide (a < 0x81000000000) || decide (0x90000000000 ≤ a)

/-- The fault of an access that failed (R236, R279): MFC 0x05 for an uncorrectable read. -/
def accessFault (c pc : Nat) (e : Nat × Nat × Nat) : MFault :=
  (Mark.fault ⟨e.1, e.2.1, e.2.2, opAddrOf pc, c⟩ (opAddrOf pc)).micro (if e.1 = 1 then 5 else 0)

/-- The register words of a range; a word with no register reads a free value. -/
def State.regWords (s : State) (a : Nat) : Nat → State × List Byte
  | 0 => (s, [])
  | n + 1 =>
    match s.readReg a with
    | some v => let r := s.regWords (a + 8) n; (r.1, toLE 8 v ++ r.2)
    | none =>
      let r := { s with fresh := s.fresh + 1 }.regWords (a + 8) n
      (r.1, toLE 8 (Config.freeWord s.fresh).toNat ++ r.2)

/-- A load of `n` bytes (R235, R236). -/
def State.microLoad (s : State) (c pc ea n : Nat) : Except (State × MFault) (State × List Byte) :=
  match s.microPlace c pc ea n .rd with
  | .error f => .error (s, f)
  | .ok (.own off) => .ok (s, Memory.read (s.core c).scratch off n)
  | .ok (.module a) =>
    match s.locate a with
    | .mem .. =>
      let r := s.readMem a n []
      match r.err with
      | none => .ok (r.state, r.data)
      | some e => .error (r.state, accessFault c pc e)
    | .scratch d off =>
      if s.coreShut d then .error (s, accessFault c pc (2, 4, a)) else .ok (s, Memory.read (s.core d).scratch off n)
    | .reg _ =>
      if !inRegBlock a then .error (s, accessFault c pc (2, 3, a))
      else
        let r := s.regWords (a / 8 * 8) (ceilDiv n 8)
        .ok (r.1, (r.2.drop (a % 8)).take n)
    | _ => .error (s, accessFault c pc (2, 3, a))

/-- A write of bytes to the register region, word by word; the bytes it does not name are masked. -/
def State.writeRegs (s : State) (a : Nat) (bs : List Byte) : State :=
  let one (s : State) (a v mask : Nat) : State := if s.processorOnly a then s.writeDiscarded a else s.writeReg a v mask
  if bs.length = 4 then one s (a / 8 * 8) (leNat bs * 256 ^ (a % 8)) ((2 ^ 32 - 1) * 256 ^ (a % 8))
  else (List.range (bs.length / 8)).foldl (fun s i => one s (a + 8 * i) (leNat ((bs.drop (8 * i)).take 8)) (2 ^ 64 - 1)) s

/-- A store (R235, R236). Another core's scratchpad is written through a window alone, and a store has no handle (spec/01 R31,
spec/11 R290). -/
def State.microStore (s : State) (c pc ea : Nat) (bs : List Byte) : Except (State × MFault) State :=
  match s.microPlace c pc ea bs.length .wr with
  | .error f => .error (s, f)
  | .ok (.own off) => .ok (s.modCore c fun k => { k with scratch := Memory.write k.scratch off bs })
  | .ok (.module a) =>
    match s.locate a with
    | .mem .. =>
      let r := s.writeMem a bs []
      match r.err with
      | none => .ok r.state
      | some e => .error (r.state, accessFault c pc e)
    | .scratch .. =>
      let free (i : Nat) : Nat := (Config.freeWord (s.fresh + i)).toNat
      .error ({ s with fresh := s.fresh + 2 }, (windowClosed (opAddrOf pc) (free 0) (free 1) 5).micro 0)
    | .reg _ =>
      if !inRegBlock a then .error (s, accessFault c pc (2, 3, a))
      else if (s.coreOfReg a).map Prod.fst = some c then .error (s, microFault 3 pc)
      else .ok (s.writeRegs a bs)
    | _ => .error (s, accessFault c pc (2, 3, a))

/-- A scalar load of `n` bytes, zero-extended (R238). -/
def loadOp (n : Nat) : MStep := fun s c w pc => do
  let r ← s.microLoad c pc ((s.core c).micro.ea w) n
  .ok (r.1.modCore c fun k => { k with micro := k.micro.setReg (mD w) (leNat r.2) })

/-- A scalar store of `n` bytes (R238). -/
def storeOp (n : Nat) : MStep := fun s c w pc =>
  s.microStore c pc ((s.core c).micro.ea w) (toLE n ((s.core c).micro.reg (mD w)))

/-- LD (R238). -/
def execLd (c : Nat) (s : State) : Out := microRow "LD" (· == 0x18) (loadOp 8) c s
/-- LW (R238). -/
def execLw (c : Nat) (s : State) : Out := microRow "LW" (· == 0x19) (loadOp 4) c s
/-- SD (R238). -/
def execSd (c : Nat) (s : State) : Out := microRow "SD" (· == 0x1A) (storeOp 8) c s
/-- SW (R238). -/
def execSw (c : Nat) (s : State) : Out := microRow "SW" (· == 0x1B) (storeOp 4) c s

/-! ### Control flow (R238) -/

/-- PC := the target of a signed offset in instructions, modulo the program store. -/
def Micro.jump (m : Micro) (pc : Nat) (off : Int) : Micro := { m with pc := lowBits 19 ((pc : Int) + 4 * off) }

/-- A branch: its registers stand in [25:21] and [20:16]. -/
def branchOp (p : Nat → Nat → Bool) : MStep :=
  onMicro fun m w pc => if p (m.reg (mD w)) (m.reg (mA w)) then m.jump pc (signed 16 w) else m

/-- BEQ (R238). -/
def execBeq (c : Nat) (s : State) : Out := microRow "BEQ" (· == 0x20) (branchOp fun a b => a == b) c s
/-- BNE (R238). -/
def execBne (c : Nat) (s : State) : Out := microRow "BNE" (· == 0x21) (branchOp fun a b => a != b) c s
/-- BLT (R238). -/
def execBlt (c : Nat) (s : State) : Out := microRow "BLT" (· == 0x22) (branchOp fun a b => decide (signed 64 a < signed 64 b)) c s
/-- BLTU (R238). -/
def execBltu (c : Nat) (s : State) : Out := microRow "BLTU" (· == 0x23) (branchOp fun a b => decide (a < b)) c s

/-- JAL (R238). -/
def execJal (c : Nat) (s : State) : Out :=
  microRow "JAL" (· == 0x28) (onMicro fun m w pc => (m.setReg (mD w) (pc + 4)).jump pc (signed 21 w)) c s

/-- JR (R238): GA is read before GD is written. -/
def execJr (c : Nat) (s : State) : Out :=
  microRow "JR" (· == 0x29) (onMicro fun m w pc => { m.setReg (mD w) (pc + 4) with pc := m.reg (mA w) % 0x80000 / 4 * 4 }) c s

/-- The value MSYS selects (R238). -/
def State.msysValue (s : State) (c imm : Nat) : Nat :=
  match imm with
  | 0 => s.now
  | 1 => s.cyc - (s.core c).micro.goCycle
  | 2 => c
  | _ => s.coreProfile c

/-- MSYS (R238). -/
def execMsys (c : Nat) (s : State) : Out :=
  microRow "MSYS" (· == 0x30)
    (fun s c w _ => .ok (s.modCore c fun k => { k with micro := k.micro.setReg (mD w) (s.msysValue c (mImm w)) })) c s

/-- MHALT (R232, R238). -/
def execMhalt (c : Nat) (s : State) : Out :=
  microRow "MHALT" (· == 0x3F) (onMicro fun m w _ => { m.stop with halted := true, exit := mImm w }) c s

/-! ### Vector instructions (R239) -/

/-- VLD (R239). -/
def execVld (c : Nat) (s : State) : Out :=
  microRow "VLD" (· == 0x38) (fun s c w pc => do
    let r ← s.microLoad c pc ((s.core c).micro.reg (mGA w)) 512
    .ok (r.1.modCore c fun k => { k with micro := k.micro.setVec (mVD w) r.2 })) c s

/-- VST (R239). -/
def execVst (c : Nat) (s : State) : Out :=
  microRow "VST" (· == 0x39) (fun s c w pc =>
    s.microStore c pc ((s.core c).micro.reg (mGA w)) ((s.core c).micro.vec (mVA w))) c s

/-- The elements of a vector register. -/
def vecElems (n : Nat) (bs : List Byte) : List Nat := (List.range (512 / n)).map fun i => leNat ((bs.drop (n * i)).take n)

/-- One FP32 operation of VOP, by FN (R239): the steps of spec/05 R140 and R141, rounded by RNE, with the status they set. -/
def fpElem (fn a b : Nat) : Nat × Arith :=
  let da := decodeA .fp32 a
  let db := decodeA .fp32 b
  let r : Nat × Arith := match fn with
    | 0 => roundRaw (addRaw da.1 db.1 a b) .rne
    | 1 => roundRaw (addRaw da.1 db.1.negate a b) .rne
    | 2 => roundRaw (product da.1 db.1 0) .rne
    | 3 => ((encode .fp32 (minMax false da.1 db.1) .rne).1, {})
    | _ => ((encode .fp32 (minMax true da.1 db.1) .rne).1, {})
  (r.1, r.2.or (da.2.or db.2))

/-- One integer or bitwise operation of VOP on elements of `n` bytes; MIN and MAX are signed (DEDUCED, n13). -/
def intElem (n fn a b : Nat) : Nat :=
  let lt : Bool := decide (signed (8 * n) a < signed (8 * n) b)
  match fn with
  | 0 => (a + b) % 256 ^ n
  | 1 => lowBits (8 * n) ((a : Int) - b)
  | 2 => a * b % 256 ^ n
  | 3 => if lt then a else b
  | 4 => if lt then b else a
  | 5 => mAnd a b
  | 6 => mOr a b
  | _ => mXor a b

/-- The result of VOP (R239). -/
def vopResult (w ga : Nat) (va vb : List Byte) : List Byte × Arith :=
  let et := mET w
  let fn := mFN w
  let n := etBytes et
  if fn = 8 then ((List.range (512 / n)).flatMap fun _ => toLE n ga, {})
  else
    let xs := (vecElems n va).zip (vecElems n vb)
    if et = 4 ∧ fn < 5 then
      let rs := xs.map fun x => fpElem fn x.1 x.2
      (rs.flatMap fun r => toLE 4 r.1, rs.foldl (fun t r => t.or r.2) {})
    else (xs.flatMap fun x => toLE n (intElem n fn x.1 x.2), {})

/-- VOP (R239). -/
def execVop (c : Nat) (s : State) : Out :=
  microRow "VOP" (· == 0x3A) (fun s c w _ =>
    let m := (s.core c).micro
    let r := vopResult w (m.reg (mGA w)) (m.vec (mVA w)) (m.vec (mVB w))
    .ok (s.modCore c fun k => { k with micro := k.micro.setVec (mVD w) r.1 }.orArith r.2)) c s

/-- VEXT (R239). -/
def execVext (c : Nat) (s : State) : Out :=
  microRow "VEXT" (· == 0x3B) (onMicro fun m w _ =>
    let n := etBytes (mEET w)
    let x := Memory.nat m.v (512 * mEVA w + n * mIdx w) n
    m.setReg (mD w) (if mEET w = 4 then x else lowBits 64 (signed (8 * n) x))) c s

/-- VINS (R239). -/
def execVins (c : Nat) (s : State) : Out :=
  microRow "VINS" (· == 0x3C) (onMicro fun m w _ =>
    let n := etBytes (mEET w)
    { m with v := Memory.write m.v (512 * mEVA w + n * mIdx w) (toLE n (m.reg (mD w))) }) c s

/-! ### Matrix instructions (R240) -/

/-- MOPEN (R240): the row is opened without an anchor pass, with L from GB. -/
def execMopen (c : Nat) (s : State) : Out :=
  microRow "MOPEN" (· == 0x34) (fun s c w pc =>
    let m := (s.core c).micro
    let b := m.reg (mB w)
    match s.matrixFmt (bits b 20 16) with
    | none => .error (s, microFault 1 pc)
    | some f =>
      .ok (s.modCore c fun k =>
        { k.openRow (bits (m.reg (mA w)) 9 0) (accModeOf f false).code f.code (opAddrOf pc) 0 (fun _ => signed 16 b) with
          micro := { k.micro with openMode := f.code + 1 } })) c s

/-- Beats of a plane under the format recorded at the last MOPEN; where there was none, the plane's 128 (DEDUCED, n13). -/
def Micro.planeBeats (m : Micro) : Nat :=
  match m.openMode with
  | 0 => 128
  | n + 1 => match Fmt.ofCode n with | some f => f.wBeats false | none => 128

/-- Put a beat into a plane at an index; beats never loaded are zero. -/
def putBeat (p : Plane) (i : Nat) (b : List Byte) : Plane :=
  let p := p ++ List.replicate (i + 1 - p.length) (List.replicate 512 0)
  p.take i ++ b :: p.drop (i + 1)

/-- CF_STOCKPOT_STATE of a micro instruction (R244). -/
def Core.potMicro (k : Core) (pc row : Nat) : MFault :=
  (potState k (opAddrOf pc) row (Config.neededOfRead (opAddrOf pc) 0).toNat (Config.neededOfRead (opAddrOf pc) 1).toNat).micro 8

/-- MWLD (R240). -/
def execMwld (c : Nat) (s : State) : Out :=
  microRow "MWLD" (· == 0x35) (fun s c w pc =>
    let m := (s.core c).micro
    if m.planeBeats ≤ m.shadowBeats then
      .error ({ s with fresh := s.fresh + 1 }, (s.core c).potMicro pc ((Config.freeWord s.fresh).toNat % 1024))
    else
      .ok (s.modCore c fun k =>
        { k with shadow := putBeat k.shadow m.shadowBeats (m.vec (mVA w)),
                 micro := { k.micro with shadowBeats := m.shadowBeats + 1 } })) c s

/-- MSWAP (R240). -/
def execMswap (c : Nat) (s : State) : Out :=
  microRow "MSWAP" (· == 0x36) (fun s c _ _ =>
    .ok (s.modCore c fun k =>
      { k with active := k.shadow, shadow := k.active, micro := { k.micro with shadowBeats := 0 } })) c s

/-- The code of element (k, n) of a weight plane (spec/04 R104); a beat never loaded reads zero. -/
def planeElem (p : Plane) (f : Fmt) (k n : Nat) : Nat :=
  loadElem (Memory.write [] 0 (p.getD (k / f.g) [])) f 0 (128 * (k % f.g) + n)

/-- The row GA names. -/
def State.microStockRow (s : State) (c reg : Nat) : Nat := bits ((s.core c).micro.reg reg) 9 0

/-- MROW (R240): one activation row through the active plane, as spec/04 R108 adds terms. -/
def execMrow (c : Nat) (s : State) : Out :=
  microRow "MROW" (· == 0x37) (fun s c w pc =>
    let k := s.core c
    let row := s.microStockRow c (mGA w)
    match (k.row row).isOpen, Fmt.ofCode (k.row row).fmt with
    | true, some f =>
      let r := k.addTerms (opAddrOf pc) row 0 128 (List.range f.kp)
        (fun kk => decodeA f (loadElem k.micro.v f (512 * mVA w) kk)) (fun kk j => decodeA f (planeElem k.active f kk j))
      match r with
      | .ok k => .ok (s.setCore c k)
      | .error e => .error (s, e.micro 7)
    | _, _ => .error (s, k.potMicro pc row)) c s

/-- The row and the column of MRD and MRDX. -/
def State.microElem (s : State) (c w : Nat) : Elem :=
  (s.core c).elem (s.microStockRow c (mA w)) (bits ((s.core c).micro.reg (mB w)) 6 0)

/-- MRD (R240). -/
def execMrd (c : Nat) (s : State) : Out :=
  microRow "MRD" (· == 0x3D) (fun s c w pc =>
    let row := s.microStockRow c (mA w)
    if !((s.core c).row row).isOpen then .error (s, (s.core c).potMicro pc row)
    else
      let v := (s.microElem c w).v.toNat
      .ok (s.modCore c fun k =>
        { k with micro := (k.micro.setReg (mD w) (v % 2 ^ 64)).setReg (mD w + 1) (v / 2 ^ 64) })) c s

/-- MRDX (R240). -/
def execMrdx (c : Nat) (s : State) : Out :=
  microRow "MRDX" (· == 0x3E) (fun s c w pc =>
    let row := s.microStockRow c (mA w)
    if !((s.core c).row row).isOpen then .error (s, (s.core c).potMicro pc row)
    else
      let e := s.microElem c w
      .ok (s.modCore c fun k =>
        { k with micro := k.micro.setReg (mD w) (packFields [(16, lowBits 16 e.l), (2, e.s.code), (1, 1)]) })) c s

/-! ### Illegal instructions (R241) -/

/-- An instruction that R241 makes illegal (R244). -/
def execIllegalInstruction (c : Nat) (s : State) : Out :=
  let m := (s.core c).micro
  if s.microRuns c && (s.core c).blockValid (opAddrOf m.pc) && s.microLegal c (Memory.nat (s.core c).pstore m.pc 4) then
    notNow "ILLEGAL_INSTRUCTION"
  else microRow "ILLEGAL_INSTRUCTION" (fun _ => true) (fun s _ _ pc => .error (s, microFault 1 pc)) c s

end Sys2Proof.Machine
end

