-- ==== Sys2Proof/Machine/Ethernet.lean ====
section
/-!
DEFINITION. Sys2Proof/Machine/Ethernet.lean: the Ethernet ports: queue pairs, RDMA requests, the network layer, and the loss of
PCS lock (spec/15 R359 to R364, R370; spec/17 R424, R425).
-/
namespace Sys2Proof.Machine

/-! ## Ports and queue pairs (R360 to R363) -/

/-- Does a port carry traffic: the service port (8) from PHASE 2, E0 to E7 from PHASE 7, with lock and unhedged (spec/18 R449)? -/
def State.portUp (s : State) (port : Nat) : Bool :=
  if port = 8 then decide (3 ≤ s.mgt.phase) && decide (s.mgt.phase ≤ 7)
  else decide (port < 8) && s.mgt.phase == 7 && bit s.host.locked port && !s.hedgedUnit 5 port

/-- Is a queue pair refused (R359, R361, R362)? A partition that is being destroyed takes no data queue pair (DEDUCED, n10). -/
def State.refusesQp (s : State) (port scope kind : Nat) : Bool :=
  let here := s.host.qps.filter fun q => q.port == port
  decide (512 ≤ here.length) || decide (1 < kind) || (decide (8 ≤ scope) && scope != 255)
    || (if kind = 0 then
          decide (4 ≤ (here.filter fun q => q.kind == 0 && q.scope == scope).length) || (port == 8 && scope != 255)
        else port == 8 || decide (8 ≤ scope) || !(s.part scope).exist || (s.part scope).destroying
          || !bit (s.part scope).ports port)

/-- A connection manager REQ arrives on a port (R362). On the service port the path MTU is 1,024 (R361). Held
events go to a new mailbox, but not in the pause of an activation (R392). -/
def execQpConnectRequest (port scope : Nat) (ask : QpAsk) (s : State) : Out :=
  let kind := ask.kind
  if !s.portUp port then notNow "QP_CONNECT_REQUEST"
  else if s.refusesQp port scope kind then
    .next ((s.logEntry 5 port (s.unitPart 5 port) 0x0043 (toLE 1 scope ++ toLE 1 kind)).send (.cmRej port))
  else
    let q := s.host.nextQ
    let qp : QPair := { q := q, port := port, scope := scope, kind := kind, mtu := if port = 8 then 1024 else ask.mtu }
    let s := { s with host := { s.host with qps := s.host.qps ++ [qp], nextQ := q + 1 } }
    let s := s.send (.cmRep port q)
    .next (if kind = 0 && !s.mgt.paused then s.deliver (scopeIndex scope) [qp] else s)

/-- A host's DREQ, or a failure of its transport, ends a queue pair (R370): what waits on it is gone. -/
def execDreq (q : Nat) (s : State) : Out :=
  if !s.host.qps.any fun p => p.q == q then notNow "DREQ"
  else
    let h := s.host
    .next { s with host := { h with qps := h.qps.filter fun p => p.q != q, waiting := h.waiting.filter fun w => w.q != q,
                                    rdma := h.rdma.filter fun r => r.q != q } }

/-! ## RDMA (R364) -/

/-- A data queue pair that is connected on a port that carries traffic. -/
def State.dataQp (s : State) (q : Nat) : Option QPair :=
  s.host.qps.find? fun p => p.q == q && p.kind == 1 && s.portUp p.port

/-- Checks 1 to 5 of R364: the module address of the request, or none. -/
def State.rdmaAddress (s : State) (p va rkey len : Nat) (need : Need) : Option Nat :=
  let k := va / 2 ^ 38 % 64
  if rkey / 64 % 8 ≠ p ∨ rkey % 64 ≠ k ∨ rkey / 512 ≠ Tab.get 0 s.gens (64 * p + k) ∨ 2 ^ 44 ≤ va then none
  else s.translate p va len need

/-- Does a range of bytes meet the range of a window? -/
def Window.meets (w : Window) (a n : Nat) : Bool := decide (a < w.base + (w.len + 1) * 512) && decide (w.base < a + n)

/-- The open window that a write lies wholly in (check 6). -/
def State.openFor (s : State) (p a n : Nat) : Bool :=
  (List.range 256).any fun w => (s.window p w).isOpen && (s.window p w).covers a n

/-- The window a refused host write is charged to: the lowest one whose range it meets. Where it meets none the spec names none: a
free value (n4). -/
def State.chargedWindow (s : State) (p a n : Nat) : Nat :=
  ((List.range 256).find? fun w => ((s.part p).windows.any fun x => x.1 == w) && (s.window p w).meets a n).getD
    ((Config.freeWord s.fresh).toNat % 256)

/-- A write that fails check 6 is counted and logged, with the port and the queue pair in place of a core (R364). -/
def State.hostWriteRefused (s : State) (qp : QPair) (a n : Nat) : State :=
  let p := qp.scope
  let w := s.chargedWindow p a n
  let reason := if (s.window p w).isOpen then 4 else 1
  let now := s.stamp32
  let s := s.modWindow p w fun x => { x with refusals := satAdd 32 x.refusals 1, refStamp := now }
  { s.logEntry 5 qp.port (some p) 0x0006 (toLE 1 w ++ toLE 2 0 ++ toLE 2 0xFFFF ++ toLE 2 0 ++ toLE 1 qp.port ++ toLE 4 qp.q
      ++ toLE 1 reason) with fresh := s.fresh + 1 }

/-- The packets of a request: offset and length of each, the path MTU but for the last (R359). -/
def rdmaPackets (n mtu : Nat) : List (Nat × Nat) := (List.range (ceilDiv n mtu)).map fun i => (mtu * i, min mtu (n - mtu * i))

/-- Why a packet's memory cannot be written, with what that leaves behind: a part that is out of reach, or a unit that a partial
write finds uncorrectable (R364, spec/11 R274). -/
def State.packetFault (s : State) (a n : Nat) (errs : List EccErr) : Option State :=
  match (lineParts a n).find? fun p => (s.unreachable p.1).isSome with
  | some p => some (if s.unreachable p.1 = some 1 then s.reject p.1 else s)
  | none =>
    match (unitsOf a n).find? fun u =>
        (decide (64 * u < a) || decide (a + n < 64 * u + 64)) && decide (2 ≤ s.symbols errs u) && decide (s.symbols errs u ≤ 3) with
    | some u => some (s.uncorrectable u (s.symbols errs u) 2)
    | none => none

/-- One packet of an RDMA write: the state, and did it fail? -/
def State.writePacket (s : State) (a : Nat) (bs : List Byte) (errs : List EccErr) : State × Bool :=
  match s.locate a with
  | .scratch c off =>
    if s.coreShut c then (s, true) else (s.modCore c fun k => { k with scratch := Memory.write k.scratch off bs }, false)
  | _ =>
    match s.packetFault a bs.length errs with
    | some t => (t, true)
    | none => ((s.writeMem a bs errs).state, false)

/-- The packets of a write, up to the first that fails. -/
def State.writePackets (a : Nat) (bs : List Byte) (errs : List EccErr) (s : State) : List (Nat × Nat) → State × Bool
  | [] => (s, false)
  | p :: ps =>
    match s.writePacket (a + p.1) ((bs.drop p.1).take p.2) errs with
    | (t, true) => (t, true)
    | (t, false) => State.writePackets a bs errs t ps

/-- An RDMA WRITE (R364). -/
def execRdmaWrite (q va rkey : Nat) (data : List Byte) (rx : RdmaRx) (s : State) : Out :=
  match s.dataQp q with
  | none => notNow "RDMA_WRITE"
  | some qp =>
    let s := s.answerEcn q rx.ecn
    let p := qp.scope
    let k := va / 2 ^ 38 % 64
    match s.rdmaAddress p va rkey data.length .wr with
    | none => .next (s.send (.rdmaAccessNak q))
    | some a =>
      if (s.seg p k).rm && !s.openFor p a data.length then .next ((s.hostWriteRefused qp a data.length).send (.rdmaAccessNak q))
      else
        let r := s.writePackets a data rx.errs (rdmaPackets data.length qp.mtu)
        if r.2 then .next (r.1.send (.rdmaOpNak q))
        else
          let t := r.1
          .next { t with nextId := t.nextId + 1, host := { t.host with rdma := t.host.rdma ++ [⟨t.nextId, q, p, k⟩] } }

/-- The bytes of an RDMA WRITE have committed: its ACK is sent (R364). -/
def execRdmaWriteAck (r : Nat) (s : State) : Out :=
  match s.host.rdma.find? fun x => x.id == r with
  | none => notNow "RDMA_WRITE_ACK"
  | some x =>
    .next (({ s with host := { s.host with rdma := s.host.rdma.filter fun y => y.id != r } } : State).send (.rdmaAck x.q))

/-- One packet of an RDMA read: the state, its bytes, and did it fail? -/
def State.readPacket (s : State) (a n : Nat) (errs : List EccErr) : State × List Byte × Bool :=
  match s.locate a with
  | .scratch c off => if s.coreShut c then (s, [], true) else (s, Memory.read (s.core c).scratch off n, false)
  | _ =>
    let x := s.readMem a n errs
    (x.state, x.data, x.err.isSome)

/-- The packets of a read, up to the first that fails. -/
def State.readPackets (a : Nat) (errs : List EccErr) (s : State) : List (Nat × Nat) → State × List Byte × Bool
  | [] => (s, [], false)
  | p :: ps =>
    match s.readPacket (a + p.1) p.2 errs with
    | (t, _, true) => (t, [], true)
    | (t, bs, false) =>
      match State.readPackets a errs t ps with
      | (u, cs, f) => (u, bs ++ cs, f)

/-- An RDMA READ (R364). It is answered in the step in which it arrives, so that no queue pair ever has two outstanding; the limit of 16
(R359) is never met (n10). -/
def execRdmaRead (q va rkey len : Nat) (rx : RdmaRx) (s : State) : Out :=
  match s.dataQp q with
  | none => notNow "RDMA_READ"
  | some qp =>
    let s := s.answerEcn q rx.ecn
    match s.rdmaAddress qp.scope va rkey len .rd with
    | none => .next (s.send (.rdmaAccessNak q))
    | some a =>
      match s.readPackets a rx.errs (rdmaPackets len qp.mtu) with
      | (t, bs, true) => .next ((if bs.isEmpty then t else t.send (.rdmaData q bs)).send (.rdmaOpNak q))
      | (t, bs, false) => .next (t.send (.rdmaData q bs))

/-! ## The network layer (R359) -/

/-- A frame of an unsupported kind is dropped and counted. -/
def execUnsupportedFrame (port : Nat) (s : State) : Out :=
  if !s.portUp port then notNow "UNSUPPORTED_FRAME"
  else .next { s with host := { s.host with drops := Tab.modify 0 s.host.drops port (· + 1) } }

/-- A congestion notification packet: the port reduces its sending rate. -/
def execCongestionNotificationPacket (port : Nat) (s : State) : Out :=
  if !s.portUp port then notNow "CONGESTION_NOTIFICATION_PACKET"
  else
    .next { s with host := { s.host with cnps := Tab.modify 0 s.host.cnps port (· + 1), slowed := setBit s.host.slowed port true } }

/-- The interface identifier of a port: the modified EUI-64 of its MAC address, fused as a base plus the port's index (R360). -/
def State.interfaceId (s : State) (port : Nat) : Nat :=
  let m := s.fuses.macBase + port
  Nat.xor (m / 2 ^ 24 * 2 ^ 40 + 0xFFFE * 2 ^ 24 + m % 2 ^ 24) (2 ^ 57)

/-- The link-local address of a port, and those it has taken from advertisements and DHCP. -/
def State.portAddresses (s : State) (port : Nat) : List Nat :=
  (0xFE80 * 2 ^ 112 + s.interfaceId port) :: Tab.get [] s.host.addresses port

/-- A port takes an address. -/
def State.takeAddress (s : State) (port a : Nat) : State :=
  if (s.portAddresses port).contains a then s
  else { s with host := { s.host with addresses := Tab.modify [] s.host.addresses port (a :: ·) } }

/-- A port learns a neighbour. -/
def State.learn (s : State) (port a : Nat) : State :=
  if s.host.neighbours.contains (port, a) then s
  else { s with host := { s.host with neighbours := (port, a) :: s.host.neighbours } }

/-- A supported frame of the network layer arrives. -/
def execNetworkLayerFrame (port : Nat) (f : NetFrame) (s : State) : Out :=
  if !s.portUp port then notNow "NETWORK_LAYER_FRAME"
  else match f with
    | .arpRequest a t =>
      .next (if (s.portAddresses port).contains t then (s.learn port a).send (.net port (.arpReply t)) else s)
    | .neighbourSolicit a t =>
      .next (if (s.portAddresses port).contains t then (s.learn port a).send (.net port (.neighbourAdvert t)) else s)
    | .arpReply a => .next (s.learn port a)
    | .neighbourAdvert a => .next (s.learn port a)
    | .routerAdvert pre => .next (s.takeAddress port (pre % 2 ^ 64 * 2 ^ 64 + s.interfaceId port))
    | .dhcpAck a => .next (s.takeAddress port a)
    | .echoRequest a d => .next ((s.learn port a).send (.net port (.echoReply ((s.portAddresses port).headD 0) d)))
    | .echoReply _ _ => .next s

/-! ## PCS lock (spec/17 R424, R425) -/

/-- A port loses PCS lock and begins to relock. -/
def execPcsLockLost (port : Nat) (s : State) : Out :=
  if 8 ≤ port ∨ !bit s.host.locked port then notNow "PCS_LOCK_LOST"
  else
    .next { s with host := { s.host with locked := setBit s.host.locked port false,
                                         lostAt := Tab.set 0 s.host.lostAt port (s.ns + 1) } }

/-- A port has not regained PCS lock within 1 s. -/
def execLgPortDown (port : Nat) (s : State) : Out :=
  let t := Tab.get 0 s.host.lostAt port
  if t = 0 ∨ s.ns + 1 < t + 1000000000 then notNow "LG_PORT_DOWN"
  else
    .next (({ s with host := { s.host with lostAt := Tab.set 0 s.host.lostAt port 0 } } : State).queueEntry 5 port
      (s.unitPart 5 port) 0x0042 (toLE 1 1))

/-- A port regains PCS lock: its recovery ends. -/
def execPcsRelock (port : Nat) (s : State) : Out :=
  if 8 ≤ port ∨ bit s.host.locked port ∨ s.mgt.phase ≠ 7 then notNow "PCS_RELOCK"
  else .next (s.pcsLock port)

end Sys2Proof.Machine
end

