-- ==== Sys2Proof/Machine/Links.lean ====
section
/-!
DEFINITION. Sys2Proof/Machine/Links.lean: the receiver of a Galed link, replay, and the causes of retraining (spec/16 R395, R397,
R400, R401).
-/
namespace Sys2Proof.Machine

/-! ## Retraining (R399, R401) -/

/-- A link in service begins to retrain; what it is to send waits. -/
def State.retrain (s : State) (l : Nat) : State :=
  let s := s.modLink l fun x => { x with state := 1, step := 1, upto := 4, attempt := 1, since := s.ns, outAt := s.ns, again := (0, 0),
                                         retrains := satAdd 16 x.retrains 1 }
  match s.unitPart 4 l with
  | some p => s.linkGone p l
  | none => s

/-- A link trains at start-up, through step 6 (R399). Those of a hedged compute die stay out of service (spec/01 R41). -/
def State.startLink (s : State) (l : Nat) : State :=
  if s.dieHedged (l / 16) || s.hedgedUnit 4 l then s.modLink l fun x => { x with state := 4, step := 0 }
  else s.modLink l fun x => { x with state := 1, step := 1, upto := 6, attempt := 1, since := s.ns }

/-- A link loses FEC lock. A link out of cascade service does nothing that the spec names. -/
def execFecLockLost (l : Nat) (s : State) : Out :=
  if (s.link l).state = 3 then .next (s.retrain l)
  else if (s.link l).state = 2 then .next s else notNow "FEC_LOCK_LOST"

/-- No flit has arrived on a link in service for 10 µs. -/
def execFlitTimeout (l : Nat) (s : State) : Out :=
  if (s.link l).state = 3 ∧ (s.link l).since + 10000 ≤ s.ns then .next (s.retrain l) else notNow "FLIT_TIMEOUT"

/-! ## Receiving (R395, R397) -/

/-- Flits up to an acknowledged FSEQ leave the replay buffer; packets whose last flit went with them are acknowledged. -/
def Link.acknowledge (x : Link) (a : Nat) : Link :=
  if x.replay.any fun f => f.fseq == a then
    let gone := x.replay.takeWhile fun f => f.fseq != a
    let done (n : Nat) : Bool := n == a || gone.any fun f => f.fseq == n
    { x with replay := x.replay.drop (gone.length + 1),
             packets := x.packets.filter fun p => match p.2.2.2 with | some n => !done n | none => true }
  else x

/-- Credits come back. -/
def Link.credit (x : Link) (f : Flit) : Link :=
  if f.crcnt = 0 then x else { x with credits := Tab.modify 0 x.credits (2 * f.crvc + f.crcls) (· + f.crcnt) }

/-- A data flit in order enters its buffer. -/
def Link.accept (x : Link) (f : Flit) : Link :=
  { x with rxSeq := (f.fseq + 1) % 4096, lastAck := f.fseq, asked := false,
           buf := Tab.modify [] x.buf (2 * f.vc + f.cls) (· ++ [f]) }

/-- Send an empty flit of a type, with the acknowledgement and a credit return. -/
def State.sendEmpty (s : State) (l ty : Nat) : State :=
  let r := (s.link l).stampFlit (emptyFlit ty)
  (s.setLink l r.1).send (.flit l r.2)

/-- A flit is discarded; after the first one a replay request is sent (R395). -/
def State.discardFlit (s : State) (l : Nat) : State :=
  if (s.link l).asked then s else (s.modLink l fun x => { x with asked := true }).sendEmpty l 2

/-- Every flit of the replay buffer is sent again, in order. -/
def State.resend (s : State) (l : Nat) : State :=
  (s.link l).replay.foldl (fun s f => s.send (.flit l { f with ackseq := (s.link l).lastAck }.sealed)) s

/-- A replay request: what follows ACKSEQ is sent again; a flit asked for 16 times in a row makes a link in service retrain. -/
def State.replayFrom (s : State) (l : Nat) : State :=
  let s := s.modLink l fun x =>
    let first := (x.replay.headD (emptyFlit 1)).fseq
    { x with replays := satAdd 16 x.replays 1,
             again := (first, if x.replay.isEmpty then 0 else if x.again.1 = first then x.again.2 + 1 else 1) }
  if 16 ≤ (s.link l).again.2 ∧ (s.link l).state = 3 then s.retrain l else s.resend l

/-- Is a flit bad: in an uncorrectable codeword, or with a wrong CRC? -/
def badFlit (f : Flit) : Bool := !f.fecOk || f.crc != crc32c f.bytes

/-- A flit arrives on a link. -/
def State.flitIn (s : State) (l : Nat) (f : Flit) : State :=
  let s := s.modLink l fun x => { x with since := s.ns, corr := satAdd 32 x.corr f.corr,
                                         uncorr := if f.fecOk then x.uncorr else satAdd 16 x.uncorr 1 }
  let next := f.ty == 0 && f.fseq == (s.link l).rxSeq
  if badFlit f || (!next && ((s.link l).asked || f.ty == 0)) then s.discardFlit l
  else
    let s := s.modLink l fun x => (x.acknowledge f.ackseq).credit f
    let s := if f.ty = 0 then (s.modLink l fun x => x.accept f).sendEmpty l 1
      else if f.ty = 2 then s.replayFrom l else s
    State.pump l 512 s

/-- Does a link receive flits: is it up, or in cascade service? -/
def State.receives (s : State) (l : Nat) : Bool := (s.link l).state == 2 || (s.link l).state == 3

/-- A data flit arrives (R395). -/
def execDataFlit (l : Nat) (f : Flit) (s : State) : Out :=
  if s.receives l && f.ty == 0 then .next (s.flitIn l f) else notNow "DATA_FLIT"

/-- An idle flit arrives (R394): it acknowledges and returns credits. -/
def execIdleFlit (l : Nat) (f : Flit) (s : State) : Out :=
  if s.receives l && f.ty == 1 then .next (s.flitIn l f) else notNow "IDLE_FLIT"

/-- A replay request arrives (R395). -/
def execReplayRequest (l : Nat) (f : Flit) (s : State) : Out :=
  if s.receives l && f.ty == 2 then .next (s.flitIn l f) else notNow "REPLAY_REQUEST"

end Sys2Proof.Machine
end

