-- ==== Sys2Proof/Machine/Cascade.lean ====
section
/-!
DEFINITION. Sys2Proof/Machine/Cascade.lean: training of a link step by step, joining and leaving a cascade, packets from other members,
the master and its beats, and the twin exchange (spec/16 R399 to R417).
-/
namespace Sys2Proof.Machine

/-! ## CASCADE_JOIN (R403, R414) -/

/-- The torus is legal (R402). -/
def torusOk (x y z rank : Nat) : Bool :=
  decide (1 ≤ x) && decide (x ≤ 32) && decide (1 ≤ y) && decide (y ≤ 16) && decide (1 ≤ z) && decide (z ≤ 16)
    && decide (x * y * z ≤ 8192) && decide (rank < x * y * z)

/-- The entries of a twin join: partition address and length (R414). -/
def digestEntries (b : List Byte) : List (Nat × Nat) :=
  (List.range (fld b 32 2)).map fun i => (fld b (40 + 16 * i) 8, fld b (48 + 16 * i) 8)

/-- The cascade that a CASCADE_JOIN names. -/
def joinCascade (b : List Byte) : Cascade :=
  let twin := bit (fld b 13 1) 0
  { joining := true, ident := fld b 0 8, rank := fld b 8 2, dimX := fld b 10 1, dimY := fld b 11 1, dimZ := fld b 12 1,
    links := fld b 24 8, twin := twin, twinIdent := fld b 16 8, digests := if twin then digestEntries b else [] }

/-- Does the bitmap name every link that the torus, and a twin exchange, needs (R403)? -/
def Cascade.linksNamed (k : Cascade) : Bool :=
  (List.range 64).all fun l => bit k.links l || !(k.needs (l / 8) || (k.twin && l / 8 == 7))

/-- The fields of a twin join are legal: each entry lies in one segment with RD (R414). -/
def State.digestsOk (s : State) (p : Nat) (b : List Byte) : Bool :=
  decide (1 ≤ fld b 32 2) && decide (fld b 32 2 ≤ 16) && fld b 34 6 == 0
    && (digestEntries b).all fun e => s.inSegment p e.1 e.2 Segment.rd

/-- The record this module gives in step 5 of a link: the cascade that its partition joins, or zeros (R399). -/
def State.ownId (s : State) (l : Nat) : PeerId :=
  let k : Cascade := match s.unitPart 4 l with | some p => if (s.cas p).joining then s.cas p else {} | none => {}
  ⟨(s.fuses.moduleSerial ++ List.replicate 12 0).take 12, l % 8, k.ident, k.rank, k.dimX, k.dimY, k.dimZ, if k.twin then k.twinIdent else 0⟩

/-- The packet that carries an identity record in a join. -/
def identityPacket (i : PeerId) : Packet :=
  mgmtPacket 0 i.rank (toLE 1 6 ++ (i.serial ++ List.replicate 12 0).take 12 ++ toLE 1 i.link ++ toLE 8 i.cascadeId ++ toLE 2 i.rank
    ++ toLE 1 i.dimX ++ toLE 1 i.dimY ++ toLE 1 i.dimZ ++ toLE 8 i.twinId)

/-- Step 5 begins on a link: the record leaves, on VC 3 of a link that has trained (R396), outside the flits of one that has no credits
yet. -/
def State.beginExchange (s : State) (l : Nat) : State :=
  if (s.link l).upto = 6 then s.send (.training l (s.ownId l))
  else
    let s := s.modLink l fun x => { x with state := 2 }
    State.pump l 512 (s.modLink l fun x => { x with txq := Tab.modify [] x.txq 3 (· ++ (identityPacket (s.ownId l)).flits 0) })

/-- A link begins the identity exchange of a join. -/
def State.startExchange (s : State) (l : Nat) : State :=
  if (s.link l).state = 2 ∨ (s.link l).state = 5 then
    (s.modLink l fun x => { x with step := 5, upto := 5, attempt := 1, since := s.ns }).beginExchange l
  else s

/-- The join fails: CMD_DONE, and the module leaves (R403). -/
def State.joinFailed (s : State) (p : Nat) : State :=
  (s.cascadeEvent p 2 (s.cas p).rank s.now).leaveCascade p

/-- Is a direction that the torus needs without a link that passed, or a twin exchange without GL62 (R403, R414)? -/
def State.joinLacks (s : State) (p : Nat) : Bool :=
  let k := s.cas p
  let passed (d : Nat) : Bool := (List.range 64).any fun l => bit k.links l && (s.link l).state == 3 && (s.link l).role == d
  ((List.range 6).any fun d => k.needs d && !passed d)
    || (k.twin && !((s.link 62).state == 3 && (s.link 62).twin))

/-- Once every named link has had its exchange, the member reports to the barrier root, or the join fails (R403). -/
def State.joinProgress (s : State) (p : Nat) : State :=
  let k := s.cas p
  if !k.joining || (List.range 64).any fun l => bit k.links l && (s.link l).step != 0 then s
  else if s.joinLacks p then s.joinFailed p
  else if k.rank = 0 then s.modCascade p fun x => { x with arrived := 0 :: x.arrived.filter (· != 0) }
  else
    let b : Packet := { ptype := 6, flags := 0, dstRank := 0, srcRank := k.rank, dstCore := 0x1FF, srcCore := 0x1FF, ref := 0, body := [] }
    s.sendOn p b

/-- CASCADE_JOIN. -/
def cascadeJoinSpec : CmdSpec :=
  { opcode := 0x0058, inP := true, lenOk := fun n => n == 32 || (decide (56 ≤ n) && decide (n ≤ 296) && n % 16 == 8),
    run := fun p seq b s =>
      let k := joinCascade b
      let old := s.cas p
      let twinLen := if k.twin then b.length == 40 + 16 * fld b 32 2 else b.length == 32
      guarded [(twinLen, zeBadLength),
        (torusOk k.dimX k.dimY k.dimZ k.rank && fld b 14 2 == 0 && decide (fld b 13 1 < 2) && k.linksNamed
          && k.links &&& (s.part p).links == k.links && !old.joined && !old.joining && (!k.twin || s.digestsOk p b), zeBadField),
        (!(s.part p).run.present, zePartBusy)] fun _ =>
        let s := s.modPart p fun x => { x with cascade := k }
        let s := (List.range 64).foldl (fun s l => if bit k.links l then s.startExchange l else s) s
        .acceptDone (s.longStart p seq 0x0058 0 0) fun s => s.joinProgress p }

/-- CASCADE_JOIN arrives. -/
def execCascadeJoin (q : Nat) (h : CmdHdr) (b : List Byte) (s : State) : Out :=
  zcp "CASCADE_JOIN" 0x0058 (some cascadeJoinSpec) q h b s

/-- The partition whose join or membership an event without an operand concerns: the lowest-numbered one (DEDUCED, n12). -/
def State.lowest (s : State) (f : Cascade → Bool) : Option Nat := partNumbers.find? fun p => (s.part p).exist && f (s.cas p)

/-- The next four ranks in service above a member (R411). -/
def Cascade.nextFour (k : Cascade) : List Nat :=
  (((List.range k.size).drop (k.rank + 1)).filter fun r => !k.lost.contains r).take 4

/-- The cascade is complete at a member (R403, R411): every one but the master takes its time from the cascade (R413). -/
def State.completeJoin (s : State) (p stamp : Nat) : State :=
  let k := s.cas p
  let s := s.modCascade p fun x => { x with joining := false, joined := true, masterRank := 0, master := x.rank == 0, lastBeat := s.ns,
                                            succession := if x.rank = 0 then x.nextFour else [] }
  let s := if k.rank = 0 then s else s.modClk fun c => { c with source := 3 }
  let s := s.cascadeEvent p 1 k.rank stamp
  match s.longFind p 0x0058 fun _ => true with
  | some c => s.longEnd c 0 []
  | none => s

/-- Every rank has reported, and the master announces to the members that the cascade is complete (R403); at another member this is its
announcement that comes. -/
def execCascadeComplete (s : State) : Out :=
  match s.lowest fun k => k.joining with
  | none => notNow "CASCADE_COMPLETE"
  | some p =>
    let k := s.cas p
    let busy := (List.range 64).any fun l => bit k.links l && (s.link l).step != 0
    if busy || s.joinLacks p || (k.rank == 0 && !((List.range k.size).all fun r => k.arrived.contains r)) then
      notNow "CASCADE_COMPLETE"
    else
      .next ((if k.rank = 0 then s.spread p 0 (noticeBody 2 1 0 s.now) else s).completeJoin p s.now)

/-- The cascade is not complete 60 s after acceptance (R403). -/
def execCascadeJoinTimeout (s : State) : Out :=
  match s.lowest fun k => k.joining with
  | none => notNow "CASCADE_JOIN_TIMEOUT"
  | some p =>
    match s.longFind p 0x0058 fun _ => true with
    | none => notNow "CASCADE_JOIN_TIMEOUT"
    | some c => if s.ns < c.stamp + 60000000000 then notNow "CASCADE_JOIN_TIMEOUT" else .next (s.joinFailed p)

/-- CASCADE_LEAVE. -/
def cascadeLeaveSpec : CmdSpec :=
  { opcode := 0x0059, inP := true, lenOk := fun n => n == 0, run := fun p seq _ s =>
      guarded [(!(s.part p).run.present, zePartBusy)] fun _ =>
        .acceptDone (s.leaveCascade p) fun s => s.cmdDone p seq 0x0059 0 [] }

/-- CASCADE_LEAVE arrives. -/
def execCascadeLeave (q : Nat) (h : CmdHdr) (b : List Byte) (s : State) : Out :=
  zcp "CASCADE_LEAVE" 0x0059 (some cascadeLeaveSpec) q h b s

/-! ## Training, step by step (R399) -/

/-- LG_LINK_MISCABLE (spec/17 R420), and the link enters MISCABLED (R403). -/
def State.miscabled (s : State) (l : Nat) (peer : PeerId) : State :=
  (s.modLink l fun x => { x with state := 5 }).logEntry 4 l (s.unitPart 4 l) 0x0041
    ((peer.serial ++ List.replicate 12 0).take 12 ++ toLE 1 (peer.link % 8) ++ toLE 2 peer.rank ++ toLE 8 peer.cascadeId)

/-- The role an exchange gives a link: its direction, 6 for a twin or express link; or none where it does not pass (R403, R407,
R414). -/
def Cascade.roleFor (k : Cascade) (l : Nat) (peer : PeerId) : Option Nat :=
  let same := peer.cascadeId == k.ident && peer.dimX == k.dimX && peer.dimY == k.dimY && peer.dimZ == k.dimZ && peer.link % 8 == l % 8
  let d := l / 8
  if k.twin && d == 7 then
    if peer.rank == k.rank && peer.cascadeId == k.twinIdent && peer.twinId == k.ident then some 6 else none
  else if k.needs d then (if same && peer.rank == k.neighbour d then some d else none)
  else if same then some 6 else none

/-- The identity exchange of a join ends on a link: the links of G7 below GL62 stay unused in a twin cascade (R414). -/
def State.exchanged (s : State) (l : Nat) (peer : PeerId) : State :=
  let s := s.modLink l fun x => { x with state := 2, step := 0 }
  match s.unitPart 4 l with
  | none => s
  | some p =>
    let k := s.cas p
    if !k.joining || (k.twin && l / 8 == 7 && decide (l < 62)) then s.joinProgress p
    else
      match k.roleFor l peer with
      | none => (s.miscabled l peer).joinProgress p
      | some r =>
        (s.modLink l fun x => { x with state := 3, role := r, twin := k.twin && l / 8 == 7 }).joinProgress p

/-- A link has been retrained: one in cascade service returns to it, replay resumes, a recovery of it ends, and a member that had been lost is
back (R401, R411; spec/17 R425). Another is up, and if its partition joins a cascade goes on to step 5. -/
def State.retrained (s : State) (l : Nat) : State :=
  let served := (s.link l).role != 7
  let s := s.modLink l fun x => { x with state := if served then 3 else 2, step := 0, since := s.ns }
  let s := (State.pump l 512 (s.resend l)).endRecovery 4 l
  match s.unitPart 4 l with
  | none => s
  | some p =>
    if served then (s.memberBack p l).regather p l
    else if (s.cas p).joining && bit (s.cas p).links l then s.startExchange l else s

/-- Step 4 has fixed the one-way delay: its value is free (R399; n4). -/
def State.calibrated (s : State) (l : Nat) : State :=
  { s.modLink l fun x => { x with delay := (Config.freeWord s.fresh).toNat } with fresh := s.fresh + 1 }

/-- The next step of training begins. -/
def State.nextStep (s : State) (l : Nat) : State :=
  let s := s.modLink l fun x => { x with step := x.step + 1, since := s.ns }
  if (s.link l).step = 5 then s.beginExchange l else s

/-- The flits of the packet at the head of a buffer: up to its last one. -/
def headPacket : List Flit → Option (List Flit × List Flit)
  | [] => none
  | f :: fs => if f.eop then some ([f], fs) else (headPacket fs).map fun r => (f :: r.1, r.2)

/-- The bytes that flits carry. -/
def flitBytes (fs : List Flit) : List Byte := fs.flatMap fun f => f.payload.take f.valid

/-- A packet leaves its buffer: the class it arrived in, and its credits are to be returned (R397). -/
def Link.takePacket (x : Link) (k : Packet) : Option (Link × Nat) :=
  [0, 1].findSome? fun cls =>
    let i := 2 * k.vc + cls
    match headPacket (Tab.get [] x.buf i) with
    | none => none
    | some r =>
      if flitBytes r.1 = k.bytes ∧ (r.1.head?.bind Flit.side) = k.side then
        some ({ x with buf := Tab.set [] x.buf i r.2, owed := Tab.modify 0 x.owed i (· + r.1.length) }, cls)
      else none

/-- Does an identity record agree with the one that stands in the link's buffer, if one has come in flits? -/
def Link.identityFits (x : Link) (peer : PeerId) : Bool :=
  match headPacket (Tab.get [] x.buf 6) with
  | some r => (flitBytes r.1).drop 16 |>.head? |> fun b => b != some 6 || flitBytes r.1 == (identityPacket peer).bytes
  | none => true

/-- The far end's record: what LNK_STAT shows of it (R400), and its packet leaves the buffer. -/
def Link.identified (x : Link) (peer : PeerId) : Link :=
  let x := match x.takePacket (identityPacket peer) with | some r => r.1 | none => x
  { x with peerRank := peer.rank, peerLink := peer.link % 8 }

/-- A training step completes, and the next one begins. `peer` is the record of the far end, where the step is the fifth (R399). -/
def execLinkTrainStep (l : Nat) (peer : PeerId) (s : State) : Out :=
  let x := s.link l
  if x.step = 0 ∨ (x.step = 5 ∧ x.identityFits peer = false) then notNow "LINK_TRAIN_STEP"
  else
    let s := if x.step = 4 then s.calibrated l else if x.step = 5 then s.modLink l fun x => x.identified peer else s
    if x.step < x.upto then .next (s.nextStep l)
    else if x.upto = 5 then .next (s.exchanged l peer)
    else if x.upto = 6 then .next (s.modLink l fun x => { x.fresh with state := 2, step := 0, since := s.ns })
    else .next (s.retrained l)

/-- The time a step may take, in nanoseconds (R399). -/
def stepLimit (step : Nat) : Nat :=
  match step with | 1 => 5000000 | 2 => 150000000 | 3 => 5000000 | _ => 1000000

/-- A training step overruns its time: training begins again, and fails at the third attempt. -/
def execLinkTrainOverrun (l : Nat) (s : State) : Out :=
  let x := s.link l
  if x.step = 0 ∨ s.ns < x.since + stepLimit x.step then notNow "LINK_TRAIN_OVERRUN"
  else if x.attempt < 3 then
    .next (s.modLink l fun x => { x with state := 1, step := 1, attempt := x.attempt + 1, since := s.ns })
  else
    let p := s.unitPart 4 l
    let s := (s.modLink l fun x => { x with state := 0, step := 0 }).queueEntry 4 l p 0x0040 (toLE 1 x.step ++ toLE 1 x.attempt)
    match p with
    | some p => .next ((s.joinProgress p).twinCut p)
    | none => .next s

/-! ## Packets (R396 to R408) -/

/-- The class in which a packet that arrived on link `l` in a class goes on in a direction (R405). -/
def State.forwardClass (s : State) (p l cls out : Nat) : Nat :=
  let k := s.cas p
  let inn := (s.link l).role
  if 6 ≤ inn ∨ 6 ≤ out ∨ inn / 2 ≠ out / 2 then 0
  else
    let x := ((k.coords k.rank).getD (inn / 2) (0, 1)).1
    let wrapped : Bool := if inn % 2 = 1 then x == 0 else x == k.dim (inn / 2) - 1
    if cls = 1 ∨ wrapped then 1 else 0

/-- A packet for another member goes on (R405 to R407). -/
def State.forward (s : State) (p l cls : Nat) (k : Packet) : State :=
  let o := s.linkFor p k
  let role := if (s.link o).state = 3 then (s.link o).role else o / 8
  s.sendPacket o (s.forwardClass p l cls role) k

/-- A number of free values. -/
def State.free (s : State) (i : Nat) : Nat := (Config.freeWord (s.fresh + i)).toNat

/-- The mark of an increment that a packet says carries an error: the packet does not carry its fields, which are free values (n4). -/
def State.foreignMark (s : State) (core : Nat) (on : Bool) : Option Mark :=
  if on then some ⟨1 + s.free 0 % 2, s.free 1 % 8, s.free 2 % 2 ^ 44, s.free 3 % 2 ^ 13, core⟩ else none

/-- The parts that every transfer a packet starts has. -/
def State.foreignXfer (s : State) (p id : Nat) (k : Packet) : Xfer :=
  { id := id, core := k.srcCore, part := p, op := 0, opAddr := s.free 4 % 2 ^ 13, queue := 3, remote := true, stage := .launched,
    xrank := some k.srcRank, aux := k.ref, foreign := true, attMark := s.foreignMark k.srcCore (bit k.flags 0) }

/-- The increment that a write or a message brings. -/
def foreignSig (cnt inc tag : Nat) : Sig := ⟨cnt % 64, true, true, tag, inc⟩

/-- The free values a packet's transfer takes. -/
def State.useFree (s : State) : State := { s with fresh := s.fresh + 8 }

/-- The tag bytes of a cross-module write, each address translated by the owner's segment; none if one of them fails. -/
def State.takeTags (s : State) (p : Nat) (side : Option TagSide) : Option (List TagBlk) :=
  match side with
  | none => some []
  | some t => t.blocks.mapM fun b => (s.translate p b.2.2 1 .rm).map fun a => ⟨b.1, b.2.1, a⟩

/-- A cross-module write arrives: its address is translated by the owner's segment; a translation that fails refuses it as
REFUSE_RANGE (R404). -/
def State.takeWrite (s : State) (p l : Nat) (k : Packet) : State :=
  let b := k.body
  let att := bit k.flags 1
  let n := if att then 17 else 13
  let (id, s) := s.takeId
  let x := { s.foreignXfer p id k with
             win := fld b 0 1, epoch := fld b 1 2, launch := fld b 3 4, pa := fld b 7 6, data := b.drop n, len := (b.drop n).length,
             att := if att then [foreignSig (fld b 13 1) (fld b 14 3) (s.free 5 % 2 ^ 16)] else [],
             attCores := if att then [k.dstCore] else [] }
  let s := s.useFree
  match s.translate p x.pa x.data.length .rm, s.takeTags p k.side with
  | some a, some t =>
    let c := match s.locate a with | .scratch c _ => c | _ => k.dstCore
    { s with xfers := s.xfers ++ [{ x with kind := .store, dst := a, dstCore := c, tags := t,
                                           tagFmt := k.side.bind fun t => Fmt.ofCode t.fmt }] }
  | _, _ =>
    let s := s.windowRefused x 2 (l / 16) 4
    { s with xfers := s.xfers ++ [{ x with stage := .refused, reason := 4 }] }

/-- A message arrives: its header gives its tag, its increment and its place on its route (R398; spec/12 R312). -/
def State.takeMessage (s : State) (p : Nat) (k : Packet) : State :=
  let b := k.body
  let (id, s) := s.takeId
  let place := (Config.messagePlace (fld b 0 2) ((s.coresOf p).idxOf k.dstCore)).toNat
  let x := { s.foreignXfer p id k with
             kind := .message, data := b.drop 32, len := (b.drop 32).length, dstCore := k.dstCore, launch := fld b 16 4, seq := fld b 20 4,
             att := if fld b 6 3 = 0 then [] else [foreignSig (fld b 5 1) (fld b 6 3) (fld b 0 2)],
             route := { tag := fld b 0 2, v := true, plane := 1, kind := 1 + place / 4, index := place % 4, core := k.dstCore } }
  { s.useFree with xfers := s.xfers ++ [x] }

/-- A row of stock words arrives (spec/07 R198). -/
def State.takeRow (s : State) (p : Nat) (k : Packet) : State :=
  let b := k.body
  let att := bit k.flags 1
  let n := if att then 17 else 13
  let (id, s) := s.takeId
  let x := { s.foreignXfer p id k with
             kind := .stockRow, win := fld b 0 1, epoch := fld b 1 2, launch := fld b 3 4, place := fld b 7 6 / 2048, data := b.drop n,
             len := (b.drop n).length, dstCore := k.dstCore,
             att := if att then [foreignSig (fld b 13 1) (fld b 14 3) (s.free 5 % 2 ^ 16)] else [] }
  { s.useFree with xfers := s.xfers ++ [x] }

/-- A signal message of another member comes in (spec/12 R297). -/
def State.takeSignal (s : State) (k : Packet) : State :=
  let b := k.body
  let (id, s) := s.takeId
  let g : SigMsg :=
    { id := id, srcCore := k.srcCore, srcRank := k.srcRank, opAddr := s.free 4 % 2 ^ 13, tag := fld b 0 2, static := false,
      dstCore := k.dstCore, cnt := fld b 5 1 % 64, inc := fld b 6 3, mark := s.foreignMark k.srcCore (bit k.flags 0), ready := s.cyc,
      seq := fld b 20 4, stamp := fld b 16 4, attached := false, foreign := true, ref := k.ref }
  { s.useFree with sigs := s.sigs ++ [g] }

/-- The transfer of this module that an answer names: its core, tag and queue (R398). -/
def State.answered (s : State) (k : Packet) : Option Xfer :=
  s.xfers.find? fun x => x.core == k.dstCore && !x.foreign && x.xrank == some k.srcRank && x.stage == .launched
    && ((x.tag.getD (x.late.getD 0)) + 256 * x.queue) == k.ref

/-- An acknowledgement arrives. -/
def State.takeAck (s : State) (k : Packet) : State :=
  match s.answered k with
  | some x =>
    let m := (s.foreignMark x.core (bit k.flags 0)).map fun m => { m with opAddr := x.opAddr }
    s.useFree.modXfer x.id fun y => { y with stage := .committed, err := m }
  | none => s

/-- A refusal arrives: of a write, a message or a signal message, or of an increment that an edge adapter has sent on (R408; spec/12
R318). -/
def State.takeRefusal (s : State) (k : Packet) : State :=
  let reason := fld k.body 0 1
  let kind := fld k.body 1 1
  if kind = 2 ∧ k.ref = 0xFFFFFFFF then
    let tag := fld k.body 2 2
    let op := s.free 0 % 2 ^ 13
    ({ s with fresh := s.fresh + 1 }.noteRefused k.dstCore tag op reason).coreFault k.dstCore
      (sendRefused op tag reason k.srcCore k.srcRank)
  else
    match s.answered k with
    | some x => s.refuseXfer x.id reason (kind != 0)
    | none => s

/-- What a notice does to a member's tables: one that is lost or has left is out of the membership table, and the windows of one that has
left lose their entries in the owner map; one that has returned is back (R409, R411, R412). -/
def Cascade.note (k : Cascade) (kind rank : Nat) : Cascade :=
  if kind = 3 then { k with lost := rank :: k.lost.filter (· != rank) }
  else if kind = 7 then { k with lost := rank :: k.lost.filter (· != rank), owners := k.owners.filter fun o => o.2 != rank }
  else if kind = 4 then { k with lost := k.lost.filter (· != rank) } else k

/-- What the master does on a report (R406, R409, R412, R413): its tables, and the event to every member, with the stamp of the member that
detected it. -/
def State.masterNotes (s : State) (p kind rank stamp : Nat) : State :=
  (s.modCascade p fun k => k.note kind rank).tellCascade p kind rank stamp

/-! ## The owner map (R404) -/

/-- The rank that a member's copy of the owner map names for a window. -/
def Cascade.holder (k : Cascade) (w : Nat) : Option Nat := (k.owners.find? fun o => o.1 == w).map Prod.snd

/-- The master's answer is there for the WINDOW_OPEN commands of a partition that satisfy a test. -/
def State.parkedReady (s : State) (p : Nat) (ok : Parked → Bool) : State :=
  { s with host := { s.host with parked := s.host.parked.map fun x => if x.part == p && ok x then { x with answered := true } else x } }

/-- What the WINDOW_OPEN commands that wait ask a new master again. -/
def State.askAgain (s : State) (p : Nat) : State :=
  (s.host.parked.filter fun x => x.part == p && !x.answered).foldl (fun s x =>
    s.manage p (s.cas p).masterRank (askBody x.win (s.cas p).rank (fld x.body 0 1))) s

/-- A request reaches the master: to open a window, which it grants where no other member holds it open; to say who does; or to note that a
member has closed one. It tells every member what has changed, and answers. -/
def State.takeAsk (s : State) (p w rank what : Nat) : State :=
  let k := s.cas p
  let h := k.holder w
  if !k.master then s
  else if what = 2 then
    if h = some rank then (s.modCascade p fun x => x.own w none).spread p k.rank (ownerBody w rank false) else s
  else if what = 0 ∧ h.isNone then
    ((s.modCascade p fun x => x.own w (some rank)).spread p k.rank (ownerBody w rank true)).manage p rank (tellBody w (rank + 1))
  else s.manage p rank (tellBody w (match h with | some r => r + 1 | none => 0))

/-- The master's answer comes. -/
def State.takeTold (s : State) (p w holder : Nat) : State :=
  (s.modCascade p fun x => x.own w (if holder = 0 then none else some (holder - 1))).parkedReady p fun x => x.win == w

/-! ## The master and its beats (R411, R413) -/

/-- The master sends a beat, with the next four ranks in service. -/
def State.sendBeat (s : State) (p : Nat) : State :=
  let s := s.modCascade p fun k => { k with succession := k.nextFour, lastBeat := s.ns }
  s.spread p (s.cas p).rank (beatBody (s.cas p).rank (10 * s.now) (s.cas p).succession)

/-- Every 100 µs the master sends a beat. -/
def execMasterBeat (s : State) : Out :=
  match s.lowest fun k => k.joined && k.master with
  | none => notNow "MASTER_BEAT"
  | some p => if s.ns < (s.cas p).lastBeat + 100000 then notNow "MASTER_BEAT" else .next (s.sendBeat p)

/-- A member becomes the master: its own source drives its time base, which makes no step (R413), its copy of the owner map is the map, and
it sends a beat at once. -/
def State.becomeMaster (s : State) (p : Nat) : State :=
  let s := s.modCascade p fun x => { x with masterRank := x.rank, master := true }
  let s := s.modClk fun c => { c with source := c.ownSource }
  (s.parkedReady p fun _ => true).sendBeat p

/-- A member follows a master: one that was the master itself is a member again (R411), and takes its time from the cascade (R413). -/
def State.followMaster (s : State) (p rank : Nat) (succession : List Nat) : State :=
  let k := s.cas p
  let s := s.modCascade p fun x => { x with masterRank := rank, master := false, succession := succession, lastBeat := s.ns }
  let s := if k.master then s.modClk fun c => { c with source := 3 } else s
  if k.masterRank = rank then s else s.askAgain p

/-- The place of a rank in a list. -/
def placeIn (r : Nat) : List Nat → Option Nat
  | [] => none
  | x :: xs => if x = r then some 0 else (placeIn r xs).map (· + 1)

/-- Is a beat of a rank accepted: from the present master, or from a rank that stands earlier on the list than the present choice (R411)? A
choice that is not on the list stands after all of it, so that a master that returns joins its successor's members (DEDUCED, n12). -/
def Cascade.accepts (k : Cascade) (rank : Nat) : Bool :=
  (rank == k.masterRank && !k.master) || (match placeIn rank k.succession with
    | none => false
    | some i => match placeIn k.masterRank k.succession with | none => true | some j => decide (i < j))

/-- Time lock changes: the member that sees it tells it, once each way (R413). -/
def State.checkLock (s : State) (p : Nat) (was : Bool) : State :=
  let k := s.cas p
  if was && !s.clk.locked then (s.modCascade p fun x => { x with timeLost := true }).tellCascade p 8 k.rank s.now
  else if k.timeLost && s.clk.locked then (s.modCascade p fun x => { x with timeLost := false }).tellCascade p 9 k.rank s.now
  else s

/-- A member whose source is the cascade measures its offset, and slews by a tick where it may (R349, R413). -/
def State.followBeat (s : State) (off : Int) : State :=
  if s.clk.source ≠ 3 then s
  else
    let s := s.measure off
    if s.slewEarly then s else s.slewBy off

/-- The time a beat brings to this member: what it carries, and the delay of the link it came by (R413). -/
def State.beatTime (s : State) (l value : Nat) : Nat := value + (s.link l).delay

/-- This member's offset from the time a beat brings, in nanoseconds. -/
def State.beatOffset (s : State) (l value : Nat) : Int := (s.now : Int) - (s.beatTime l value / 10 : Nat)

/-- A beat comes down the tree of a root: if it is accepted it moves cascade time and goes on, with this member's residence time, a free
value, added (R411, R413; n4). One that names this member hands the master's role over to it (R409). -/
def State.takeBeat (s : State) (p l root rank value : Nat) (succession : List Nat) : State :=
  if !(s.cas p).accepts rank then s
  else if rank = (s.cas p).rank then s.becomeMaster p
  else
    let was := s.clk.locked
    let t := s.beatTime l value
    let s := (((s.followMaster p rank succession).followBeat (s.beatOffset l value)).checkLock p was)
    let body := beatBody rank (t + s.free 0) succession
    { s with fresh := s.fresh + 1 }.spread p root body

/-- A beat arrives on a link in cascade service. -/
def execBeatArrival (rank : Nat) (stamp : TimeFlit) (succession : List Nat) (offset : Int) (s : State) : Out :=
  match s.unitPart 4 stamp.link with
  | none => notNow "BEAT_ARRIVAL"
  | some p =>
    if !(s.cas p).joined || (s.link stamp.link).state != 3 || offset != s.beatOffset stamp.link stamp.value then notNow "BEAT_ARRIVAL"
    else .next (s.takeBeat p stamp.link rank rank stamp.value succession)

/-- The rank after the present choice on the list (R411). -/
def Cascade.nextChoice (k : Cascade) : Option Nat :=
  match placeIn k.masterRank k.succession with
  | none => k.succession.head?
  | some i => k.succession[i + 1]?

/-- No beat for 300 µs: the next rank on the list is the new master; a member that is it takes over (R411). Where the list has no further
rank the choice stays, and what waits for the master goes by the member's own copy of the owner map (DEDUCED, n12). -/
def execBeatTimeout (s : State) : Out :=
  match s.lowest fun k => k.joined && !k.master with
  | none => notNow "BEAT_TIMEOUT"
  | some p =>
    let k := s.cas p
    if s.ns < k.lastBeat + 300000 then notNow "BEAT_TIMEOUT"
    else
      match k.nextChoice with
      | none => .next ((s.modCascade p fun x => { x with lastBeat := s.ns }).parkedReady p fun _ => true)
      | some m =>
        if m ≠ k.rank then .next ((s.modCascade p fun x => { x with masterRank := m, lastBeat := s.ns }).askAgain p)
        else
          let s := s.logEntry 12 0 (some p) 0x0044 (toLE 2 k.masterRank ++ toLE 2 m)
          .next ((s.becomeMaster p).tellCascade p 5 m s.now)

/-- All links to a torus neighbour have been out of service for 300 µs (R412). -/
def execNeighbourLost (d : Nat) (s : State) : Out :=
  match s.lowest fun k => k.joined && k.needs d with
  | none => notNow "NEIGHBOUR_LOST"
  | some p =>
    let k := s.cas p
    let r := k.neighbour d
    let ls := (List.range 64).filter fun l => bit k.links l && decide ((s.link l).role < 6) && (s.link l).peerRank == r
    if ls.isEmpty || k.lost.contains r
        || ls.any fun l => (s.link l).state == 3 || decide (s.ns < (s.link l).outAt + 300000) then notNow "NEIGHBOUR_LOST"
    else if k.master then .next (s.masterNotes p 3 r s.now)
    else .next ((s.modCascade p fun x => { x with lost := r :: x.lost }).manage p k.masterRank (noticeBody 3 3 r s.now))

/-- The master receives a report of a loss (R412). -/
def execMemberLossReport (r : LossReport) (s : State) : Out :=
  match s.lowest fun k => k.joined && k.master with
  | none => notNow "MEMBER_LOSS_REPORT"
  | some p =>
    if (s.cas p).size ≤ r.rank then notNow "MEMBER_LOSS_REPORT"
    else if (s.cas p).lost.contains r.rank then .next s
    else .next (s.masterNotes p 3 r.rank r.stamp)

/-! ## The twin exchange (R415, R416) -/

/-- The first entry whose digests differ. -/
def firstDiff : Nat → List (List Byte) → List (List Byte) → Option (Nat × List Byte × List Byte)
  | _, [], [] => none
  | i, a :: as, b :: bs => if a = b then firstDiff (i + 1) as bs else some (i, a, b)
  | i, a :: _, [] => some (i, a, [])
  | i, [], b :: _ => some (i, [], b)

/-- Compare the member's own packet with its partner's. -/
def State.twinCompare (s : State) (p : Nat) : State :=
  let k := s.cas p
  match k.twinOwn, k.twinOther with
  | some a, some b =>
    if a.1 ≠ b.1 then s.twinMismatch p a.1 2 0 [] []
    else if a.2.1 ≠ 0 ∨ b.2.1 ≠ 0 then s.twinMismatch p a.1 3 0 [] []
    else
      match firstDiff 0 a.2.2 b.2.2 with
      | some d => s.twinMismatch p a.1 1 d.1 d.2.1 d.2.2
      | none =>
        (s.logEntry 12 0 (some p) 0x0045 (toLE 8 a.1)).modCascade p fun x => { x with twinOwn := none, twinOther := none }
  | _, _ => s

/-- The digest of an entry; of one that cannot be read, a free value (n4). -/
def State.digestOf (s : State) (p : Nat) (e : Nat × Nat) : State × List Byte :=
  match s.readImage p e.1 e.2 with
  | (s, some b) => (s, sm3 b)
  | (s, none) => (s.useFree, (List.range 4).flatMap fun i => toLE 8 (s.free i))

/-- The digests of a list of entries, in order. -/
def State.digestsOf (p : Nat) : State → List (Nat × Nat) → State × List (List Byte)
  | s, [] => (s, [])
  | s, e :: es =>
    let r := s.digestOf p e
    let t := State.digestsOf p r.1 es
    (t.1, r.2 :: t.2)

/-- Has every accepted write into a partition's memory and scratchpads committed (R415)? -/
def State.writesDone (s : State) (p : Nat) : Bool :=
  !(s.xfers.any fun x => x.part == p && x.stage == .accepted) && !(s.host.rdma.any fun r => r.part == p)

/-- The link that carries the twin exchange: GL62, or its standby (R414). -/
def State.twinLink (s : State) : Nat := if (s.link 62).state = 3 then 62 else 63

/-- A twin digest packet: outcome, number of digests, run ordinal, digests (R415). -/
def digestBody (ordinal outcome : Nat) (ds : List (List Byte)) : List Byte :=
  toLE 1 5 ++ toLE 1 outcome ++ toLE 2 ds.length ++ toLE 8 ordinal ++ ds.flatMap fun d => (d ++ List.replicate 32 0).take 32

/-- A run of a twin cascade has ended: the member sends its partner the digests (R415). -/
def execTwinDigestSend (p : Nat) (s : State) : Out :=
  let k := s.cas p
  match k.twinDue with
  | none => notNow "TWIN_DIGEST_SEND"
  | some out =>
    if !(s.part p).exist || !k.joined || !s.writesDone p then notNow "TWIN_DIGEST_SEND"
    else
      let r := if out = 0 then State.digestsOf p s k.digests else (s, [])
      let s := r.1.modCascade p fun x => { x with twinDue := none, twinOwn := some (k.twinOrdinal, out, r.2), twinSince := s.ns }
      if !s.twinUp then .next (s.twinMismatch p k.twinOrdinal 5 0 [] [])
      else .next ((s.sendPacket s.twinLink 0 (mgmtPacket k.rank k.rank (digestBody k.twinOrdinal out r.2))).twinCompare p)

/-- The partner's packet comes. One of a run that is already judged is dropped (DEDUCED, n12). -/
def State.takeDigest (s : State) (p ordinal outcome : Nat) (digests : List (List Byte)) : State :=
  let k := s.cas p
  if k.twinOwn = none ∧ k.twinDue = none ∧ ordinal ≤ k.twinOrdinal then s
  else (s.modCascade p fun x => { x with twinOther := some (ordinal, outcome, digests) }).twinCompare p

/-- The partner's packet arrives. -/
def execTwinDigestArrival (ordinal outcome : Nat) (digests : List (List Byte)) (s : State) : Out :=
  match s.lowest fun k => k.joined && k.twin with
  | none => notNow "TWIN_DIGEST_ARRIVAL"
  | some p => if s.twinUp then .next (s.takeDigest p ordinal outcome digests) else notNow "TWIN_DIGEST_ARRIVAL"

/-- The partner's packet has not arrived within 1 s of the member's own (R416). -/
def execTwinPartnerTimeout (s : State) : Out :=
  match s.lowest fun k => k.joined && k.twinOwn.isSome with
  | none => notNow "TWIN_PARTNER_TIMEOUT"
  | some p =>
    let k := s.cas p
    if s.ns < k.twinSince + 1000000000 then notNow "TWIN_PARTNER_TIMEOUT"
    else .next (s.twinMismatch p k.twinOrdinal 4 0 [] [])

/-! ## Packets that arrive (R396, R398, R405 to R408) -/

/-- A management packet arrives on a link (R396): what comes from the master goes on down its tree; a digest comes by the twin exchange
alone. -/
def State.takeManagement (s : State) (p l : Nat) (k : Packet) : State :=
  let b := k.body
  match fld b 0 1 with
  | 1 => (s.modCascade p fun x => x.own (fld b 1 1) (if fld b 4 1 = 1 then some (fld b 2 2) else none)).spread p k.srcRank b
  | 2 =>
    let s := s.spread p k.srcRank b
    if fld b 1 1 = 1 then (if (s.cas p).joining then s.completeJoin p (fld b 4 8) else s)
    else (s.modCascade p fun x => x.note (fld b 1 1) (fld b 2 2)).cascadeEvent p (fld b 1 1) (fld b 2 2) (fld b 4 8)
  | 3 => if (s.cas p).master then s.masterNotes p (fld b 1 1) (fld b 2 2) (fld b 4 8) else s
  | 4 =>
    if (s.cas p).joined then
      s.takeBeat p l k.srcRank (fld b 2 2) (fld b 4 9) ((List.range (fld b 1 1)).map fun i => fld b (13 + 2 * i) 2)
    else s
  | 5 =>
    if (s.link l).twin then
      s.takeDigest p (fld b 4 8) (fld b 1 1) ((List.range (fld b 2 2)).map fun i => (b.drop (12 + 32 * i)).take 32)
    else s
  | 7 => s.takeAsk p (fld b 1 1) (fld b 2 2) (fld b 4 1)
  | 8 => s.takeTold p (fld b 1 1) (fld b 2 2)
  | _ => s

/-- Does a packet concern the partition (R408): a core of it, or for a write, a barrier arrival and management the module? A packet of a core's
traffic comes only while the partition is in a cascade (spec/12 R311). -/
def State.concerns (s : State) (p : Nat) (k : Packet) : Bool :=
  let module := k.dstCore == 0x1FF && (k.ptype == 0 || k.ptype == 6 || k.ptype == 7)
  (module || (s.coresOf p).contains k.dstCore) && ((s.cas p).joined || decide (6 ≤ k.ptype))

/-- A packet for this member (R398, R404, R408): one that does not concern the partition is refused with reason 7 (spec/12 R311), which the core
of a message logs (spec/12 R318). A refusal is not answered (DEDUCED, n12). -/
def State.deliverPacket (s : State) (p l : Nat) (k : Packet) : State :=
  if !s.concerns p k then
    if k.ptype = 5 then s
    else
      let told := decide (k.ptype = 1 ∨ k.ptype = 2) && decide (k.dstCore < s.nCores)
      (if told then s.logRefusal k.dstCore k.srcCore k.srcRank (fld k.body 0 2) 7 else s).reply p 5 k.srcRank k.srcCore k.dstCore k.ref false
        (toLE 1 7 ++ toLE 1 (if k.ptype = 2 then 2 else 1) ++ toLE 2 (if k.ptype = 1 ∨ k.ptype = 2 then fld k.body 0 2 else 0))
  else
    match k.ptype with
    | 0 => s.takeWrite p l k
    | 1 => s.takeMessage p k
    | 2 => s.takeSignal k
    | 3 => s.takeRow p k
    | 4 => s.takeAck k
    | 5 => s.takeRefusal k
    | 6 => s.modCascade p fun x => { x with arrived := k.srcRank :: x.arrived.filter (· != k.srcRank) }
    | 7 => s.takeManagement p l k
    | _ => s

/-- A whole packet stands in the buffers of a link in cascade service: it is delivered, forwarded or refused (R405 to R408). Express links and
the twin exchange forward none (R407, R414): one for another member is dropped (DEDUCED, n12). -/
def execCascadePacket (l : Nat) (k : Packet) (s : State) : Out :=
  match s.unitPart 4 l, (s.link l).takePacket k with
  | some p, some r =>
    if (s.link l).state ≠ 3 then notNow "CASCADE_PACKET"
    else
      let s := (s.setLink l r.1).sendEmpty l 1
      .next (if k.dstRank = (s.cas p).rank then s.deliverPacket p l k
        else if (s.link l).role = 6 then s else s.forward p l r.2 k)
  | _, _ => notNow "CASCADE_PACKET"

end Sys2Proof.Machine
end

