-- ==== Sys2Proof/Machine/Sideband.lean ====
section
/-!
DEFINITION. Sys2Proof/Machine/Sideband.lean: the sideband inputs RST_N, THROTTLE_N and PRESENT_N with their filter and chatter, the
kit key and record, and the loss of cooling (spec/17 R429; spec/14 R352, R357; spec/18 R438; spec/19 R466, R470).
-/
namespace Sys2Proof.Machine

/-! ## Pins (R429) -/

/-- A sideband input: 0 RST_N, 1 THROTTLE_N, 2 PRESENT_N. -/
def State.pin (s : State) (i : Nat) : Pin := if i = 0 then s.err.rstN else if i = 1 then s.err.throttleN else s.err.presentN

/-- Change a sideband input. -/
def State.modPin (s : State) (i : Nat) (f : Pin → Pin) : State :=
  let e := s.err
  { s with err := if i = 0 then { e with rstN := f e.rstN } else if i = 1 then { e with throttleN := f e.throttleN }
                  else { e with presentN := f e.presentN } }

/-- Is the controller running: it has booted, and is not restarting? -/
def State.controllerRuns (s : State) : Bool := s.mgt.moduleOn && s.mgt.booted && !s.ctlDown && s.mgt.phase != 15

/-! ## RST_N -/

/-- The hub, the dies, the stacks, the links and the ports are reset, and every run is lost; the controller keeps running (R429), and
an activation ends, with the active-slot flag as it stands (spec/19 R466). With the hedges, the loss of the reference and the thermal hold their
conditions end (spec/18 R437). The time base starts anew (spec/14 R347). -/
def State.hubReset (s : State) : State :=
  { State.reset with
    fuses := s.fuses,
    clk := { powerLimit := s.clk.powerLimit, floorForced := s.clk.floorForced, throttle := s.err.throttleN.asserted, ns := s.ns, f0Since := s.ns },
    host := { nextQ := s.host.nextQ, sent := s.host.sent },
    err := { s.err with transit := [], queue := [], overflows := 0, hedges := [], recoveries := [], slipped := 0,
                        rstN := { s.err.rstN with since := s.ns, noted := s.ns } },
    mgt := { s.mgt with phase := if s.mgt.phase ≤ 1 ∨ s.mgt.phase = 15 then s.mgt.phase else 8, activating := false,
                        paused := false, actStep := if s.mgt.actStep = 3 then 3 else 0, failed := false, portsDone := false,
                        condMfr := setBit (setBit s.mgt.condMfr 0 false) 3 false, condTemp := setBit s.mgt.condTemp 7 false },
    nextId := s.nextId, fresh := s.fresh, pending := s.pending }

/-- RST_N comes to count as asserted: the module is held in reset, and LG_RESET_HELD is logged. -/
def State.resetHeld (s : State) : State :=
  let s := s.hubReset
  if s.mgt.phase ≤ 1 ∨ s.mgt.phase = 15 then s
  else
    let m := s.mgt
    let s := { s with mgt := { m with off := true } }
    s.logEntry 10 0 none 0x0061 (toLE 4 0)

/-- RST_N no longer counts as asserted: start-up resumes from hub bring-up. -/
def State.resetReleased (s : State) : State :=
  { s with mgt := { s.mgt with phase := if s.mgt.phase = 8 then 2 else s.mgt.phase } }

/-- Every 10 s while RST_N is held. -/
def execLgResetHeld (s : State) : Out :=
  let x := s.err.rstN
  if !x.asserted || !s.controllerRuns || decide (s.ns < x.noted + 10000000000) then notNow "LG_RESET_HELD"
  else
    .next ((s.modPin 0 fun x => { x with noted := x.noted + 10000000000 }).logEntry 10 0 none 0x0061
      (toLE 4 ((s.ns - x.since) / 1000000000)))

/-! ## THROTTLE_N (spec/14 R357) -/

/-- THROTTLE_N comes to count as asserted: the hardware glides to F0 and holds it. -/
def State.throttleOn (s : State) : State :=
  let s := s.modPin 1 fun x => { x with since := s.ns, noted := s.ns }
  let s := s.modClk fun c => { c with throttle := true }
  if s.clk.present = 0 ∧ !s.clk.gliding then s else s.retarget 0 5 false

/-- THROTTLE_N no longer counts as asserted: the firmware may raise the step again. -/
def State.throttleOff (s : State) : State := (s.modClk fun c => { c with throttle := false }).holdEnded

/-- Once in each second while THROTTLE_N stays asserted. With RST_N asserted too, RST_N acts alone (spec/19 R466). -/
def execLgThrottle (s : State) : Out :=
  let x := s.err.throttleN
  if !x.asserted || s.err.rstN.asserted || !s.controllerRuns || decide (s.ns < x.noted + 1000000000) then notNow "LG_THROTTLE"
  else
    .next ((s.modPin 1 fun x => { x with noted := x.noted + 1000000000 }).logEntry 10 1 none 0x0038
      (toLE 4 ((s.ns - x.since) / 1000000000)))

/-! ## Levels and chatter -/

/-- LG_SIDEBAND_CHATTER in a phase: 0 entry, 1 continuing, 2 exit. Before the controller has booted nothing is logged. -/
def State.logChatter (s : State) (i phase : Nat) : State :=
  if s.mgt.booted && s.mgt.phase != 15 then s.logEntry 10 i none 0x0060 (toLE 1 phase) else s

/-- An input enters chatter; `raw` is the latest change of its raw level. -/
def State.startChatter (s : State) (i raw : Nat) : State :=
  (s.modPin i fun x => { x with chatter := true, chatAt := s.ns, chatNoted := s.ns, rawAt := raw }).logChatter i 0

/-- What follows where an input comes to count as asserted, or no longer does: PRESENT_N is only reported (SENSOR_READ, sensor 132). -/
def State.acted (s : State) (i : Nat) (was : Bool) : State :=
  let now := (s.pin i).asserted
  if now = was ∨ !s.mgt.moduleOn then s
  else match i, now with
    | 0, true => s.resetHeld
    | 0, false => s.resetReleased
    | 1, true => s.throttleOn
    | 1, false => s.throttleOff
    | _, _ => s

/-- A level passes the filter, 2 µs after the change of the raw level. The second such change within 100 µs starts chatter. -/
def State.level (s : State) (i : Nat) (high : Bool) : State :=
  let x := s.pin i
  let quick := s.mgt.moduleOn && !x.chatter && x.changed != 0 && decide (s.ns + 1 ≤ x.changed + 100000)
  let t := s.modPin i fun x => { x with high := high, changed := s.ns + 1, rawAt := s.ns - 2000 }
  (if quick then t.startChatter i (s.ns - 2000) else t).acted i x.asserted

/-- RST_N falls and passes the filter. While the module is off only the level changes. -/
def execRstNAssert (s : State) : Out := if s.err.rstN.high then .next (s.level 0 false) else notNow "RST_N_ASSERT"

/-- RST_N rises and passes the filter. -/
def execRstNRelease (s : State) : Out := if s.err.rstN.high then notNow "RST_N_RELEASE" else .next (s.level 0 true)

/-- THROTTLE_N falls and passes the filter. -/
def execThrottleNAssert (s : State) : Out := if s.err.throttleN.high then .next (s.level 1 false) else notNow "THROTTLE_N_ASSERT"

/-- THROTTLE_N rises and passes the filter. -/
def execThrottleNRelease (s : State) : Out := if s.err.throttleN.high then notNow "THROTTLE_N_RELEASE" else .next (s.level 1 true)

/-- PRESENT_N changes level. -/
def execPresentNChange (level : Bool) (s : State) : Out :=
  if s.err.presentN.high = level then notNow "PRESENT_N_CHANGE" else .next (s.level 2 level)

/-- Do the latest raw changes of an input, the newest first, make four within 200 µs, the last of them not yet past a time? -/
def fourQuick (changes : List Nat) (ns : Nat) : Bool :=
  match changes with
  | a :: b :: c :: d :: _ => decide (a ≤ ns) && decide (b ≤ a) && decide (c ≤ b) && decide (d ≤ c) && decide (a ≤ d + 200000)
  | _ => false

/-- An input whose raw level has changed four times within 200 µs enters chatter and counts as asserted, also while the controller restarts
(spec/18 R430). -/
def execSidebandChatterEntry (i : RawInput) (s : State) : Out :=
  if 3 ≤ i.pin ∨ (s.pin i.pin).chatter ∨ !s.mgt.moduleOn ∨ fourQuick i.changes s.ns = false then notNow "SIDEBAND_CHATTER_ENTRY"
  else .next ((s.startChatter i.pin (i.changes.headD 0)).acted i.pin (s.pin i.pin).asserted)

/-- A chattering input's raw level has held one value for 10 ms since its latest change: it takes that value. -/
def execSidebandChatterExit (i : RawInput) (level : Bool) (s : State) : Out :=
  let x := s.pin i.pin
  let last := max x.rawAt (i.changes.headD 0)
  if 3 ≤ i.pin ∨ !x.chatter ∨ s.ns < last + 10000000 then notNow "SIDEBAND_CHATTER_EXIT"
  else .next (((s.modPin i.pin fun x => { x with chatter := false, high := level, rawAt := last }).logChatter i.pin 2).acted i.pin true)

/-- Once in each second of chatter. -/
def execLgSidebandChatter (i : Nat) (s : State) : Out :=
  if 3 ≤ i ∨ !(s.pin i).chatter ∨ !s.controllerRuns ∨ s.ns < (s.pin i).chatNoted + 1000000000 then
    notNow "LG_SIDEBAND_CHATTER"
  else .next ((s.modPin i fun x => { x with chatNoted := x.chatNoted + 1000000000 }).logChatter i 1)

/-! ## The kit key, its record, and cooling (spec/14 R351, R352; spec/18 R438; spec/19 R470) -/

/-- Does the kit's record name another kind than the key, or the key no kit? The kind is the key code that the record's kind
carries, 0 where the record is absent or unreadable (spec/17 R420). -/
def State.kitMismatch (s : State) : Bool := profileOfKey s.mgt.key == 0 || s.mgt.kitKind != s.mgt.key

/-- Where the kit did not bear out the key and now does, since when is kept. -/
def State.noteMatch (s : State) (was : Bool) : State :=
  let m := s.mgt
  if was && !s.kitMismatch then { s with mgt := { m with matchAt := s.ns } } else s

/-- FLOOR is forced for a reason: 0 a kit mismatch, 1 a loss of cooling. -/
def State.forceFloor (s : State) (reason unit : Nat) : State :=
  let s := s.modClk fun c => { c with floorForced := setBit c.floorForced reason true }
  let m := s.mgt
  let s := { s with mgt := { m with forcedAt := s.ns } }
  (s.condMfr 1 true).alertEvent 2 unit (s.sensorValue unit).1 fun _ => false

/-- The kit key changes (spec/19 R466). -/
def execKeyChange (key : Nat) (s : State) : Out :=
  if !s.controllerRuns ∨ s.mgt.key = key % 8 then notNow "KEY_CHANGE"
  else
    let m := s.mgt
    .next (({ s with mgt := { m with key := key % 8 } } : State).noteMatch s.kitMismatch)

/-- The controller reads the kit's record (spec/18 R438). -/
def execKitRecordRead (kind serial : Nat) (s : State) : Out :=
  if !s.controllerRuns then notNow "KIT_RECORD_READ"
  else
    let m := s.mgt
    .next (({ s with mgt := { m with kitKind := kind % 8, kitSerial := serial } } : State).noteMatch s.kitMismatch)

/-- FLOOR is forced, and LG_KIT_MISMATCH logged. -/
def State.kitMismatchFound (s : State) : State :=
  (s.logEntry 11 0 none 0x0036 (toLE 1 s.mgt.key ++ toLE 1 s.mgt.kitKind)).forceFloor 0 131

/-- The controller finds that the kit's record does not bear out the key (R352). -/
def execLgKitMismatch (s : State) : Out :=
  if !s.controllerRuns ∨ !s.kitMismatch ∨ bit s.clk.floorForced 0 then notNow "LG_KIT_MISMATCH"
  else .next s.kitMismatchFound

/-- The sensor whose reading bears out the kit's cooling: inlet temperature, or flow of a LIQUID kit (R352). -/
def State.coolingSensor (s : State) : Nat := if s.mgt.key = 2 then 130 else 128

/-- Has the kit reported no inlet temperature, or a LIQUID kit a flow below 1.0 L/min, for 1 s? -/
def State.coolingLost (s : State) : Bool :=
  if s.mgt.key = 2 then (match s.mgt.flowLowAt with | some t => decide (t + 1000000000 ≤ s.ns) | none => false)
  else decide (s.mgt.inletAt + 1000000000 ≤ s.ns)

/-- Since when the kit has cooled and borne out its key. -/
def State.kitGoodSince (s : State) : Nat := max s.mgt.matchAt (if s.mgt.key = 2 then s.mgt.flowBack else s.mgt.inletBack)

/-- No inlet temperature, or a low flow, for 1 s (R352). A missing inlet temperature gives no valid reading until it is sampled again. -/
def execLgCoolingLost (n : Nat) (s : State) : Out :=
  if !s.controllerRuns ∨ profileOfKey s.mgt.key = 0 ∨ n ≠ s.coolingSensor ∨ bit s.clk.floorForced 1 ∨ !s.coolingLost then
    notNow "LG_COOLING_LOST"
  else
    let m := s.mgt
    let s := if n = 128 then { s with mgt := { m with sensors := Tab.set (0, false) m.sensors 128 (0, false) } } else s
    .next ((s.logEntry 11 0 none 0x0037 (toLE 2 n)).forceFloor 1 n)

/-- What forced FLOOR has been absent for 10 s: the keyed profile returns (R352). -/
def execCoolingRestored (s : State) : Out :=
  if !s.controllerRuns ∨ s.clk.floorForced = 0 ∨ s.kitMismatch ∨ s.coolingLost ∨ s.ns < s.kitGoodSince + 10000000000 then
    notNow "COOLING_RESTORED"
  else .next ((s.modClk fun c => { c with floorForced := 0 }).condMfr 1 false)

end Sys2Proof.Machine
end

