-- ==== Sys2Proof/Machine/Startup.lean ====
section
/-!
DEFINITION. Sys2Proof/Machine/Startup.lean: the 72 V input, the boot ROM, and start-up (spec/19 R461 to R464; spec/18 R437, R441,
R442, R448 to R450).
-/
namespace Sys2Proof.Machine

/-! ## The input (spec/19 R461 to R464) -/

/-- May the input damage the module: above 100 V, or beyond −100 V (R461)? -/
def damaging (mv : Int) : Bool := decide (100000 < mv) || decide (mv < -100000)

/-- The records of the last second that the flash does not hold may be lost: how many is a free value (spec/17 R427). -/
def State.loseTail (s : State) : State :=
  let e := s.err
  let n := (e.log.takeWhile fun r => decide (e.flashed ≤ r.seq) && decide (s.ns < r.wrote + 1000000000)).length
  let k := Config.lostRecords s.fresh % (n + 1)
  { s with err := { e with log := e.log.drop k, nextSeq := e.nextSeq - k, flashed := e.nextSeq - k }, fresh := s.fresh + 1 }

/-- The module is off: what is not fused, in flash or at a pin is lost (R461, spec/18 R448). -/
def State.powerOff (s : State) : State :=
  let s := s.loseTail
  { State.reset with
    fuses := s.fuses,
    host := { nextQ := s.host.nextQ, sent := s.host.sent },
    err := { log := s.err.log, nextSeq := s.err.nextSeq, flashed := s.err.flashed, rstN := { high := s.err.rstN.high },
             throttleN := { high := s.err.throttleN.high }, presentN := { high := s.err.presentN.high } },
    mgt := { activeSlot := s.mgt.activeSlot, stagedOk := s.mgt.stagedOk, slots := s.mgt.slots, staged := s.mgt.staged,
             kitKind := s.mgt.kitKind, kitSerial := s.mgt.kitSerial, inputMv := s.mgt.inputMv, latched := s.mgt.latched },
    nextId := s.nextId, fresh := s.fresh, pending := s.pending }

/-- The conditions of the input voltage (spec/18 R437). -/
def State.inputStatus (s : State) (mv : Int) : State :=
  let m := s.mgt
  let s := { s with mgt := { m with inputMv := mv, vinUv := m.vinUv || decide (mv < 60000) } }
  let s := (s.condInput 7 (decide (80000 < mv))).condInput 6 (decide (78000 < mv))
  ((s.condInput 5 (decide (mv < 62000))).condInput 4 (decide (mv < 60000))).sample [⟨84, mv⟩]

/-- The input has held from 60 V to 80 V for 10 ms, and start-up begins (R461, R462, spec/18 R449). -/
def execInputValid (mv : Int) (s : State) : Out :=
  if mv < 60000 ∨ 80000 < mv ∨ s.mgt.moduleOn ∨ s.mgt.latched then notNow "INPUT_VALID"
  else
    let m := s.mgt
    .next { s with mgt := { m with moduleOn := true, inputMv := mv } }

/-- The bulk node has been below 56 V for 20 µs: the hot-swap opens (R461). In a module that is off, 1 s of it ends the latch of the breaker
(R464). -/
def execBulkUndervoltage (low : BulkLow) (s : State) : Out :=
  let mv := low.millivolts
  if damaging mv then .fault .mayBeDamaged
  else if 56000 ≤ mv ∨ low.held < 20000 then notNow "BULK_UNDERVOLTAGE"
  else
    let m := s.mgt
    let t := { s with mgt := { m with inputMv := mv } }
    .next (if m.moduleOn then t.powerOff
      else { s with mgt := { m with inputMv := mv, latched := m.latched && decide (low.held < 1000000000) } })

/-- The input has been above 85 V for 10 µs: the hot-swap opens. -/
def execInputOvervoltage (mv : Int) (s : State) : Out :=
  if damaging mv then .fault .mayBeDamaged
  else if mv ≤ 85000 then notNow "INPUT_OVERVOLTAGE"
  else
    let m := s.mgt
    let t := { s with mgt := { m with inputMv := mv } }
    .next (if m.moduleOn then t.powerOff else t)

/-- The input voltage crosses a threshold: the status bits latch (spec/18 R437), once the controller runs. -/
def execInputThresholdCrossing (mv : Int) (s : State) : Out :=
  if damaging mv then .fault .mayBeDamaged
  else if s.mgt.moduleOn && s.mgt.booted && decide (2 ≤ s.mgt.phase) then .next (s.inputStatus mv)
  else
    let m := s.mgt
    .next { s with mgt := { m with inputMv := mv } }

/-- The breaker (R464): the hot-swap opens and latches open. -/
def execInputBreaker (milliamps : Nat) (s : State) : Out :=
  if milliamps ≤ 120000 ∨ !s.mgt.moduleOn then notNow "INPUT_BREAKER"
  else
    let m := s.mgt
    .next ({ s with mgt := { m with latched := true } } : State).powerOff

/-! ## The boot ROM (spec/18 R441, R442) -/

/-- A firmware slot. -/
def State.slotOf (s : State) (i : Nat) : Slot := Tab.get {} s.mgt.slots i

/-- The check of the ROM that a slot fails: 1 certificate, 2 signature, 3 security version, 4 digest of the controller component (R441). -/
def Slot.fails (x : Slot) (svMin : Nat) : Option Nat :=
  if !x.certOk then some 1 else if !x.sigOk then some 2 else if x.sv < svMin then some 3 else if !x.ctlOk then some 4 else none

/-- The check that a slot fails before its components run: those of the ROM, and of the controller on the other components (R442). -/
def Slot.unfit (x : Slot) (svMin : Nat) : Option Nat := (x.fails svMin).orElse fun _ => if x.partsOk then none else some 4

/-- The controller runs the firmware of a slot. -/
def State.runSlot (s : State) (i : Nat) : State :=
  let m := s.mgt
  { s with mgt := { m with activeSlot := i, mgtVer := (s.slotOf i).mgtVer, cpVer := (s.slotOf i).cpVer } }

/-- The ROM boots the active slot, or makes the other one active, which leaves no verified image in the inactive slot (R432); where neither
passes, the boot fails. `check` says which check a slot has failed. -/
def State.romTry (s : State) (check : Slot → Option Nat) : State :=
  let m := s.mgt
  let a := m.activeSlot
  match check (s.slotOf a) with
  | none => ({ s with mgt := { m with fallback := none } } : State).runSlot a
  | some e =>
    match check (s.slotOf (1 - a)) with
    | none => ({ s with mgt := { m with fallback := some (a, e), stagedOk := false } } : State).runSlot (1 - a)
    | some _ => ({ s with mgt := { m with phase := 15 } } : State).condMfr 4 true

/-- The ROM checks the active slot, then the other (R441). -/
def State.romBoot (s : State) : State := s.romTry fun x => x.fails s.fuses.svMin

/-- LG_BOOT_FALLBACK, once the controller runs. -/
def State.logFallback (s : State) : State :=
  match s.mgt.fallback with
  | some f =>
    let m := s.mgt
    ({ s with mgt := { m with fallback := none } } : State).logEntry 8 0 none 0x0056 (toLE 1 f.1 ++ toLE 1 f.2)
  | none => s

/-- The module goes to a phase. -/
def State.toPhase (s : State) (n : Nat) : State :=
  let m := s.mgt
  { s with mgt := { m with phase := n } }

/-- In step 3 of an activation the controller flips the active-slot flag and restarts through the ROM (R446). -/
def State.switchSlots (s : State) : State :=
  let m := s.mgt
  { s with mgt := { m with activeSlot := 1 - m.activeSlot, actStep := 3 } }

/-- The controller leaves reset and the ROM runs: at power-on, with SLOT_ID sampled (spec/19 R466), or in step 3 of an activation. -/
def execBootRom (slotId : Nat) (s : State) : Out :=
  let m := s.mgt
  if m.activating ∧ m.actStep < 3 ∧ s.controllerRuns then .next s.switchSlots
  else if !m.moduleOn ∨ m.booted ∨ m.phase ≠ 0 then notNow "BOOT_ROM"
  else
    let s := ({ s with mgt := { m with booted := true, slotId := slotId % 64 } } : State).romBoot
    .next (if s.mgt.phase = 15 then s else s.toPhase 1)

/-! ## Start-up (R449, R450): PHASE shows the step in progress -/

/-- LG_BOOT_FALLBACK and the entry with the kit's serial at the controller's start (R438, whose code the spec does not give: a free value,
n4). -/
def State.logStart (s : State) : State :=
  { s.logFallback with fresh := s.fresh + 1 }.logEntry 11 0 none ((Config.freeWord s.fresh).toNat % 2 ^ 16) (toLE 16 s.mgt.kitSerial)

/-- The controller has started: sensors are sampled, key and record read, the profile chosen. -/
def State.controllerStarts (s : State) (rs : List Reading) (key kind serial : Nat) : State :=
  let m := s.mgt
  let s := { s with mgt := { m with phase := 2, key := key % 8, kitKind := kind % 8, kitSerial := serial } }
  let s := ((s.readSensors rs).inputStatus s.mgt.inputMv).logStart
  let s := if s.kitMismatch then s.kitMismatchFound else s
  let m := s.mgt
  { s with mgt := { m with profile := s.chosenProfile } }

/-- The controller is ready: at power-on it goes on to the hub, which stays in reset while RST_N is held; in an activation this is step 4, in
which it resumes its loops and has checked and loaded the command processor firmware (R446). An activation that RST_N has ended leaves the
slot that its flag names (spec/19 R466). -/
def execControllerReady (rs : List Reading) (key : KeyRead) (kind serial : Nat) (s : State) : Out :=
  let m := s.mgt
  if m.actStep = 3 ∧ m.moduleOn then
    if m.activating then
      if ((s.slotOf m.activeSlot).unfit s.fuses.svMin).isSome || !key.started then notNow "CONTROLLER_READY"
      else .next ((({ s with mgt := { m with actStep := 4 } } : State).runSlot m.activeSlot).readSensors rs)
    else
      let s := ({ s with mgt := { m with actStep := 0 } } : State).romBoot
      .next (if s.mgt.phase = 15 then s else (s.readSensors rs).logFallback)
  else if !s.controllerRuns ∨ m.phase ≠ 1 then notNow "CONTROLLER_READY"
  else if !key.started then .next { s with mgt := { m with failed := true } }
  else
    let s := s.controllerStarts rs key.code kind serial
    .next (if s.err.rstN.asserted then s.resetHeld else s)

/-- The hub comes up: the time base runs free, the dies stand at F0, the service port is enabled (R449). Without the reference at
J1 it runs on the backup oscillator (spec/19 R468). -/
def State.hubStarts (s : State) (refPresent : Bool) : State :=
  let s := (s.toPhase 3).modClk fun c => { c with refLost := !refPresent, refLostAt := s.ns, throttle := s.err.throttleN.asserted }
  if refPresent then s.condMfr 3 false else (s.logEntry 7 4 none 0x0039 []).condMfr 3 true

/-- The bring-up of the hub ends. Before it the controller has checked the other components of its slot: where one fails it restarts, and
the ROM uses the other slot (R442). A hub that fails leaves the module there, with ALERT_N asserted (R450). -/
def execHubUp (r : HubReport) (s : State) : Out :=
  if s.mgt.phase ≠ 2 ∨ !s.controllerRuns ∨ s.mgt.failed then notNow "HUB_UP"
  else if !(s.slotOf s.mgt.activeSlot).partsOk then .next ((s.toPhase 1).romTry fun x => x.unfit s.fuses.svMin)
  else if r.failed then
    let m := s.mgt
    .next { s with mgt := { m with failed := true } }
  else .next (s.hubStarts r.refPresent)

/-- A unit fails in start-up: its record goes to the error queue, and its handling makes the failure hedge (R450, spec/17 R420, R424). Fields of
the record that the spec does not give are free values (n4). -/
def State.startFailure (s : State) (domain index code : Nat) (ctx : List Byte) : State :=
  { s.queueEntry domain index (s.unitPart domain index) code ctx with fresh := s.fresh + 1 }

/-- A stack fails its training: its 32 channels are hedged (R450). The spec gives the record no code (a free value, n4). -/
def State.stackFailure (s : State) (k : Nat) : State :=
  let r : LogRec := { stamp := s.now, seq := s.err.nextSeq, domain := 9, index := k, code := (Config.freeWord s.fresh).toNat % 2 ^ 16, flags := 1 }
  let s := { s.writeLog r true with fresh := s.fresh + 1 }
  (List.range 32).foldl (fun s c => s.hedge 3 (chanNo k c) 1 r) s

/-- Free bytes. -/
def State.freeBytes (s : State) (n : Nat) : List Byte := toLE n (Config.freeWord s.fresh).toNat

/-- The built-in test ends on every core, and scratchpads are zero; cores, regions and dies have failed it (R450). The stacks train next. -/
def execBuiltInTestDone (cores regions dies : List Nat) (s : State) : Out :=
  if s.mgt.phase ≠ 3 then notNow "BUILT_IN_TEST_DONE"
  else
    let s := s.toPhase 4
    let s := (cores.filter fun c => decide (c < s.nCores)).foldl (fun s c => s.startFailure 0 c 0x0010 (s.freeBytes 5)) s
    let s := (regions.filter fun r => decide (r < 16)).foldl (fun s r =>
      s.startFailure 1 r 0x0012 (s.freeBytes 1 ++ toLE 1 (s.replica r).alarmTh)) s
    .next ((dies.filter fun d => decide (d < 4)).foldl (fun s d => s.startFailure 2 d 0x0011 (s.freeBytes 3)) s)

/-- The stacks are trained, and every channel is zero-filled and ON; the 32 channels of one that failed are hedged. The links train next. -/
def execStackTrainingDone (failed : List Nat) (s : State) : Out :=
  if s.mgt.phase ≠ 4 then notNow "STACK_TRAINING_DONE"
  else
    let s := { s.toPhase 5 with mem := [], ecc := [], chans := [] }
    let s := (failed.filter fun k => decide (k < 20)).foldl State.stackFailure s
    .next ((List.range 64).foldl State.startLink s)

/-- The cables are read: one whose identity memory names no supported kind, or that is not there, leaves CABLE_3V3 off, and is logged as
unidentified. The spec gives the entry no code: a free value (spec/19 R460; n4, n14). -/
def State.readCables (s : State) (cs : List Cable) : State :=
  let m := s.mgt
  let s := { s with mgt := { m with cables := cs.foldl (fun t c => Tab.set ⟨0, 0, false⟩ t c.connector c) m.cables } }
  cs.foldl (fun s c =>
    if c.present && c.kind != 0 then s
    else { s with fresh := s.fresh + 1 }.logEntry 4 (8 * c.connector) none ((Config.freeWord s.fresh).toNat % 2 ^ 16) []) s

/-- CABLE_3V3 of a connector (spec/19 R460). -/
def State.cable3v3 (s : State) (g : Nat) : Bool := let c := Tab.get ⟨0, 0, false⟩ s.mgt.cables g; c.present && c.kind != 0

/-- The training of the Galed links ends: none trains any more, and those that failed three attempts are down (R449; spec/16 R399). The ports
train next. -/
def execLinkTrainingDone (r : LinkReport) (s : State) : Out :=
  let fits (l : Nat) : Bool := let x := s.link l; x.step == 0 && (if r.failed.contains l then x.state == 0 || x.state == 4 else x.state != 0)
  if s.mgt.phase ≠ 5 || !(List.range 64).all fits then notNow "LINK_TRAINING_DONE"
  else .next ((s.toPhase 6).readCables r.cables)

/-- E0 to E7 are trained; one that gained no lock within 1 s is to be hedged (R450). -/
def execPortTrainingDone (failed : List Nat) (s : State) : Out :=
  if s.mgt.phase ≠ 6 ∨ s.mgt.portsDone then notNow "PORT_TRAINING_DONE"
  else
    let m := s.mgt
    let s := { s with mgt := { m with portsDone := true } }
    let s := (List.range 8).foldl (fun s e => if failed.contains e then s else s.pcsLock e) s
    .next ((failed.filter fun e => decide (e < 8)).foldl (fun s e => s.startFailure 5 e 0x0042 (toLE 1 2)) s)

/-- The module is ready: E0 to E7 accept mailboxes (R449). -/
def execModuleReady (s : State) : Out := if s.mgt.phase ≠ 6 ∨ !s.mgt.portsDone then notNow "MODULE_READY" else .next (s.toPhase 7)

end Sys2Proof.Machine
end

