-- ==== Sys2Proof/Machine/Pmbus.lean ====
section
/-!
DEFINITION. Sys2Proof/Machine/Pmbus.lean: the PMBus device of the management controller (spec/18 R435 to R437, spec/19 R467).
-/
namespace Sys2Proof.Machine

/-! ## Values (R435 to R437) -/

/-- LINEAR11 of a value in milli-units: the most negative N from −16 up that keeps the magnitude of Y within 1,023 (R435). -/
def linear11 (v : Int) : List Byte :=
  let num := v * 65536
  let i := ((List.range 32).find? fun i => decide (num.natAbs ≤ 1023 * (1000 * 2 ^ i))).getD 31
  let den : Int := 1000 * 2 ^ i
  let y := if num % den = 0 then num / den else num / den + b2n (Config.linearUp v i)
  toLE 2 (lowBits 5 ((i : Int) - 16) * 2048 + lowBits 11 y)

/-- Bytes of ASCII codes. -/
def asciiOf (l : List Nat) : List Byte := l.map (BitVec.ofNat 8)

/-- A block read: the count, then the bytes. -/
def block (bs : List Byte) : List Byte := toLE 1 bs.length ++ bs

/-- A number as `n` hexadecimal characters. -/
def hexDigits : Nat → Nat → List Byte
  | 0, _ => []
  | n + 1, x =>
    let d := x % 16
    hexDigits n (x / 16) ++ asciiOf [if d < 10 then 48 + d else if Config.hexLower then 87 + d else 55 + d]

/-- The part number: MK-TX960-B0 and the like (R436, spec/00 R1). -/
def State.partNumber (s : State) : List Byte :=
  asciiOf ([77, 75, 45, 84, 88] ++ (if s.fuses.grade = .tx960 then [57, 54, 48] else [55, 54, 56]) ++ [45]
    ++ (if s.fuses.stepping = .a1 then [65, 49] else [66, 48]))

/-- STATUS_WORD (R437). -/
def State.pmStatus (s : State) : Nat :=
  let m := s.mgt
  2 ^ 13 * b2n (m.stInput != 0) + 2 ^ 12 * b2n (m.stMfr != 0) + 64 * b2n m.off + 8 * b2n m.vinUv + 4 * b2n (m.stTemp != 0)
    + 2 * b2n (m.stCml != 0)

/-- The pin ALERT_N (R424, R437), which a start-up that stops for a failure of the controller or the hub asserts as well (R450). -/
def State.alertN (s : State) : Bool := s.pmStatus != 0 || (List.range 4).any s.dieHedged || s.mgt.failed

/-- The highest valid reading of `n` sensors from `a`, 0 if none is valid. -/
def State.hottest (s : State) (a n : Nat) : Int :=
  match ((List.range n).map fun i => s.sensorValue (a + i)).filter Prod.snd with
  | [] => 0
  | v :: vs => vs.foldl (fun m x => max m x.1) v.1

/-- The eight bytes of MFR_MODULE_STATE. R436 reserves the last two; spec/19 R465 reports K[2:0] here, which the first of them holds
(DEDUCED, n14). -/
def State.moduleState (s : State) : List Byte :=
  let m := s.mgt
  [m.slotId, m.phase, m.profile, s.clk.present, (List.range 4).foldl (fun t d => t + if s.dieHedged d then 2 ^ d else 0) 0,
    b2n m.stagedOk, m.key, 0].flatMap (toLE 1)

/-! ## Transactions -/

/-- Does the controller serve PMBus: once it is ready, but not while it restarts (R430, R446, R449, spec/19 R467)? -/
def State.pmServed (s : State) : Bool := s.controllerRuns && decide (2 ≤ s.mgt.phase)

/-- Set a bit of STATUS_CML. -/
def State.cml (s : State) (i : Nat) : State :=
  let m := s.mgt
  { s with mgt := { m with stCml := setBit m.stCml i true } }

/-- A PMBus transaction. Nothing answers while PMBus is not served; after a failed boot the ROM answers STATUS_MFR_SPECIFIC alone
(R441; DEDUCED, n14); a wrong PEC discards the command (R435). -/
def State.pmbus (s : State) (pecOk : Bool) (effect : State → State) : Out :=
  if s.mgt.moduleOn && s.mgt.booted && s.mgt.phase == 15 then .next (s.send .smbusNack)
  else if !s.pmServed then .next s
  else if !pecOk then .next (s.cml 5)
  else .next (effect s)

/-- A read. -/
def State.pmRead (s : State) (pecOk : Bool) (bytes : State → List Byte) : Out := s.pmbus pecOk fun s => s.send (.smbus (bytes s))

/-- PAGE reads, or writes page 0 (R436). -/
def execPage (write : Option Nat) (pecOk : Bool) (s : State) : Out :=
  s.pmbus pecOk fun s => match write with
    | none => s.send (.smbus (toLE 1 s.mgt.page))
    | some v =>
      let m := s.mgt
      if v = 0 then { s with mgt := { m with page := 0 } } else s.cml 6

/-- CLEAR_FAULTS clears the latched bits whose condition has ended (R437). -/
def execClearFaults (pecOk : Bool) (s : State) : Out :=
  s.pmbus pecOk fun s =>
    let m := s.mgt
    { s with mgt := { m with stInput := Nat.land m.stInput m.condInput, stTemp := Nat.land m.stTemp m.condTemp,
                             stMfr := Nat.land m.stMfr m.condMfr, stCml := 0, vinUv := m.vinUv && decide (m.inputMv < 60000),
                             off := m.off && s.err.rstN.asserted } }

/-- STATUS_MFR_SPECIFIC (R437); after a failed boot the ROM answers bit 4 only (R441). -/
def execStatusMfrSpecific (pecOk : Bool) (s : State) : Out :=
  if s.mgt.moduleOn && s.mgt.booted && s.mgt.phase == 15 then .next (s.send (.smbus (toLE 1 16)))
  else s.pmRead pecOk fun s => toLE 1 s.mgt.stMfr

/-- CAPABILITY answers 0xB0: PEC, 400 kHz, SMBALERT#. -/
def execCapability (pecOk : Bool) (s : State) : Out := s.pmRead pecOk fun _ => [0xB0]

/-- STATUS_BYTE answers the low byte of STATUS_WORD. -/
def execStatusByte (pecOk : Bool) (s : State) : Out := s.pmRead pecOk fun s => toLE 1 s.pmStatus

/-- STATUS_WORD answers R437. -/
def execStatusWord (pecOk : Bool) (s : State) : Out := s.pmRead pecOk fun s => toLE 2 s.pmStatus

/-- STATUS_INPUT answers R437. -/
def execStatusInput (pecOk : Bool) (s : State) : Out := s.pmRead pecOk fun s => toLE 1 s.mgt.stInput

/-- STATUS_TEMPERATURE answers R437. -/
def execStatusTemperature (pecOk : Bool) (s : State) : Out := s.pmRead pecOk fun s => toLE 1 s.mgt.stTemp

/-- STATUS_CML answers bits 7, 6 and 5. -/
def execStatusCml (pecOk : Bool) (s : State) : Out := s.pmRead pecOk fun s => toLE 1 s.mgt.stCml

/-- READ_VIN answers sensor 84. -/
def execReadVin (pecOk : Bool) (s : State) : Out := s.pmRead pecOk fun s => linear11 (s.sensorValue 84).1

/-- READ_IIN answers sensor 85. -/
def execReadIin (pecOk : Bool) (s : State) : Out := s.pmRead pecOk fun s => linear11 (s.sensorValue 85).1

/-- READ_TEMPERATURE_1 answers the hottest of sensors 0 to 63. -/
def execReadTemperature1 (pecOk : Bool) (s : State) : Out := s.pmRead pecOk fun s => linear11 (s.hottest 0 64)

/-- READ_TEMPERATURE_2 answers the hottest of sensors 64 to 83. -/
def execReadTemperature2 (pecOk : Bool) (s : State) : Out := s.pmRead pecOk fun s => linear11 (s.hottest 64 20)

/-- READ_TEMPERATURE_3 answers sensor 128. -/
def execReadTemperature3 (pecOk : Bool) (s : State) : Out := s.pmRead pecOk fun s => linear11 (s.sensorValue 128).1

/-- READ_PIN answers sensor 87. -/
def execReadPin (pecOk : Bool) (s : State) : Out := s.pmRead pecOk fun s => linear11 (s.sensorValue 87).1

/-- PMBUS_REVISION answers 0x33. -/
def execPmbusRevision (pecOk : Bool) (s : State) : Out := s.pmRead pecOk fun _ => [0x33]

/-- MFR_ID answers the name MELKIOW. -/
def execMfrId (pecOk : Bool) (s : State) : Out := s.pmRead pecOk fun _ => block (asciiOf [77, 69, 76, 75, 73, 79, 87])

/-- MFR_MODEL answers the part number. -/
def execMfrModel (pecOk : Bool) (s : State) : Out := s.pmRead pecOk fun s => block s.partNumber

/-- MFR_REVISION answers MGT_VER as 8 hexadecimal characters. -/
def execMfrRevision (pecOk : Bool) (s : State) : Out := s.pmRead pecOk fun s => block (hexDigits 8 s.mgt.mgtVer)

/-- MFR_SERIAL answers the module serial. -/
def execMfrSerial (pecOk : Bool) (s : State) : Out := s.pmRead pecOk fun s => block ((s.fuses.moduleSerial ++ List.replicate 12 0).take 12)

/-- MFR_MODULE_STATE answers slot, phase, profile, step, hedged dies, STAGED_OK. -/
def execMfrModuleState (pecOk : Bool) (s : State) : Out := s.pmRead pecOk fun s => block s.moduleState

/-- The command codes of R436. -/
def pmCodes : List Nat :=
  [0x00, 0x03, 0x19, 0x78, 0x79, 0x7C, 0x7D, 0x7E, 0x80, 0x88, 0x89, 0x8D, 0x8E, 0x8F, 0x97, 0x98, 0x99, 0x9A, 0x9B, 0x9E, 0xD0]

/-- Any other code is answered with a NACK, and CML bit 7 is set (R436). -/
def execPmbusUnsupportedCommand (code : Nat) (pecOk : Bool) (s : State) : Out :=
  if pmCodes.contains code ∨ 256 ≤ code then notNow "PMBUS_UNSUPPORTED_COMMAND"
  else s.pmbus pecOk fun s => (s.send .smbusNack).cml 7

/-- A read of the Alert Response Address is answered while ALERT_N is asserted (R435). -/
def execAlertResponse (s : State) : Out := .next (if s.pmServed && s.alertN then s.send .alertAddress else s)

end Sys2Proof.Machine
end

