-- ==== Sys2Proof/Machine/Management.lean ====
section
/-!
DEFINITION. Sys2Proof/Machine/Management.lean: ATTEST, the firmware update and its activation, the restart of the management
controller, and the commands that wait for either (spec/18 R430, R439 to R447; spec/15 R390 to R392).
-/
namespace Sys2Proof.Machine

/-! ## Attestation (R439, R440) -/

/-- The fuse image by what it holds: grade, stepping, core maps, serials and root key digest. Its layout is a free value (n4). -/
def Fuses.content (f : Fuses) : List Byte :=
  toLE 1 (if f.grade = .tx960 then 1 else 2) ++ toLE 1 (if f.stepping = .a1 then 1 else 2)
    ++ (f.coreMap.flatMap fun m => toLE 9 m) ++ ((List.range 29).flatMap fun k => toLE 16 (Tab.get 0 f.serials k))
    ++ f.moduleSerial ++ f.rootDigest

/-- The first `n` bytes of a list, zeros after its end. -/
def padTo (n : Nat) (b : List Byte) : List Byte := (b ++ List.replicate n 0).take n

/-- An entry of PROGRAMS. -/
def ProgSlot.attested (g : ProgSlot) (h : Nat) : List Byte :=
  toLE 1 h ++ toLE 1 (b2n (g.kind == 3)) ++ toLE 6 0 ++ toLE 8 g.len ++ padTo 32 g.digest ++ padTo 32 (g.route.drop 32)

/-- The handles of a scope's loaded programs, in order: none in module scope. -/
def State.attestedPrograms (s : State) (i : Nat) : List Nat :=
  if i < 8 then (List.range 16).filter fun h => (s.prog i h).kind == 2 || (s.prog i h).kind == 3 else []

/-- The signed message of ATTEST. -/
def State.attestation (s : State) (i : Nat) (nonce : List Byte) : List Byte :=
  let hs := s.attestedPrograms i
  let x := s.slotOf s.mgt.activeSlot
  toLE 4 0x54535441 ++ toLE 2 1 ++ toLE 2 (272 + 80 * hs.length) ++ padTo 12 s.fuses.moduleSerial ++ toLE 1 (scopeByte i)
    ++ toLE 1 s.mgt.activeSlot ++ toLE 2 hs.length ++ toLE 8 s.now ++ nonce ++ toLE 8 s.repro
    ++ toLE 4 s.fuses.svMin ++ toLE 4 x.sv ++ toBE 32 (Config.fuseDigest s.fuses.content).toNat
    ++ ((List.range 4).flatMap fun k => padTo 32 (x.digests.getD k []))
    ++ (if i < 8 then padTo 32 (s.part i).images else toLE 32 0)
    ++ hs.flatMap fun h => (s.prog i h).attested h

/-- The result of ATTEST: the message, its signature, the certificates. -/
def State.attested (s : State) (i : Nat) (nonce : List Byte) : List Byte :=
  let m := s.attestation i nonce
  let c := s.fuses.deviceCert
  let p := s.fuses.productCA
  m ++ toBE 64 (Config.sm2Sign m s.fresh).toNat ++ toLE 2 c.length ++ c ++ toLE 2 p.length ++ p

/-- ATTEST: the measurements are those of the take-up. -/
def attestSpec : CmdSpec :=
  { opcode := 0x0060, inM := true, inP := true, service := true, lenOk := fun n => n == 32, run := fun i seq b s =>
      .acceptDone { s with fresh := s.fresh + 1 } fun t => t.cmdDone i seq 0x0060 0 (s.attested i b) }

/-- ATTEST arrives. -/
def execAttest (q : Nat) (h : CmdHdr) (b : List Byte) (s : State) : Out := zcp "ATTEST" 0x0060 (some attestSpec) q h b s

/-! ## FW_STAGE (R391, R443) -/

/-- The ranges of the flash (R431), first byte and size: the identity block, slots A and B, the staging area, the event log. -/
def flashRanges : List (Nat × Nat) :=
  [(0, 2 ^ 20), (2 ^ 20, 20 * 2 ^ 20), (21 * 2 ^ 20, 20 * 2 ^ 20), (41 * 2 ^ 20, 7 * 2 ^ 20), (48 * 2 ^ 20, 16 * 2 ^ 20)]

/-- The size of the staging area. -/
def stagingBytes : Nat := (flashRanges.getD 3 (0, 0)).2

/-- The largest firmware image: the size of a slot without its 2 MiB of spare pages. -/
def imageBytesMax : Nat := (flashRanges.getD 1 (0, 0)).2 - 2 * 2 ^ 20

/-- LAST of a chunk. -/
def stageLast (b : List Byte) : Bool := bit (fld b 4 1) 0

/-- RESTART of a chunk, at offset 0. -/
def stageRestart (b : List Byte) : Bool := bit (fld b 4 1) 1 && fld b 0 4 == 0

/-- FW_STAGE: the next chunk of a delta. A delta under verification holds the staging area (R369; DEDUCED, n10). -/
def fwStageSpec : CmdSpec :=
  { opcode := 0x0068, inM := true, service := true, elsewhere := false, lenOk := fun n => decide (32 ≤ n) && decide (n ≤ 4064),
    run := fun _ seq b s =>
      let sofar := if stageRestart b || !s.mgt.staging then [] else s.mgt.staged
      let all := sofar ++ b.drop 32
      guarded [(decide (fld b 4 1 < 4) && (b.drop 5).take 27 == List.replicate 27 0 && fld b 0 4 == sofar.length
            && decide (all.length ≤ stagingBytes), zeBadField),
          (!s.mgt.activating && !s.longBusy 8 0x0068, zePartBusy)] fun _ =>
        let m := s.mgt
        let t := { s with mgt := { m with staged := all, staging := true } }
        .accept (if stageLast b then t.longStart 8 seq 0x0068 0 0 else t) (stageLast b) [] }

/-- A chunk arrives that neither ends nor restarts a delta. -/
def execFwStage (q : Nat) (h : CmdHdr) (b : List Byte) (s : State) : Out :=
  if stageLast b || stageRestart b then notNow "FW_STAGE" else zcp "FW_STAGE" 0x0068 (some fwStageSpec) q h b s

/-- A chunk arrives that restarts a delta. -/
def execFwStageRestart (q : Nat) (h : CmdHdr) (b : List Byte) (s : State) : Out :=
  if stageLast b || !stageRestart b then notNow "FW_STAGE_RESTART" else zcp "FW_STAGE_RESTART" 0x0068 (some fwStageSpec) q h b s

/-- A chunk arrives that ends a delta. -/
def execFwStageLast (q : Nat) (h : CmdHdr) (b : List Byte) (s : State) : Out :=
  if !stageLast b then notNow "FW_STAGE_LAST" else zcp "FW_STAGE_LAST" 0x0068 (some fwStageSpec) q h b s

/-! ## The delta (R443 to R445) -/

/-- Run an operation stream, at most `n` operations, on the running image: the result so far in reverse. An operation that is none of
R444, or reads past the end of stream or image, yields no result (DEDUCED, n10). -/
def runOps (base : List Byte) : Nat → List Byte → List Byte → Option (List Byte)
  | _, [], acc => some acc.reverse
  | 0, _ :: _, _ => none
  | n + 1, c :: t, acc =>
    if c.toNat = 1 then
      let off := fld t 0 4
      let len := fld t 4 4
      if t.length < 8 ∨ base.length < off + len then none
      else runOps base n (t.drop 8) (((base.drop off).take len).reverse ++ acc)
    else if c.toNat = 2 then
      let len := fld t 0 4
      if t.length < 4 + len then none else runOps base n (t.drop (4 + len)) (((t.drop 4).take len).reverse ++ acc)
    else if c.toNat = 3 then
      if t.length < 5 then none else runOps base n (t.drop 5) (List.replicate (fld t 0 4) (BitVec.ofNat 8 (fld t 4 1)) ++ acc)
    else none

/-- A delta: the length of its certificate, the certificate, and its operation stream. -/
def deltaCertLen (d : List Byte) : Nat := fld d 320 2
/-- See `deltaCertLen`. -/
def deltaCert (d : List Byte) : List Byte := (d.drop 322).take (deltaCertLen d)
/-- See `deltaCertLen`. -/
def deltaOps (d : List Byte) : List Byte := d.drop (322 + deltaCertLen d)

/-- The result a delta builds on a running image, where it has the length it states (R444). -/
def deltaResult (base d : List Byte) : Option (List Byte) :=
  let ops := deltaOps d
  match runOps base ops.length ops [] with
  | none => none
  | some r => if r.length = fld d 96 8 ∧ 512 ≤ r.length ∧ r.length ≤ imageBytesMax then some r else none

/-- What the header of an image says, and whether its checks hold under a root key (R441). -/
def slotFromImage (rootDigest image : List Byte) : Slot :=
  { bytes := image, certOk := Config.imageCertOk image rootDigest, sigOk := Config.imageSigOk image, ctlOk := Config.imageCtlOk image,
    partsOk := Config.imagePartsOk image,
    sv := (Config.imageNumber image 0).toNat % 65, commit := Config.imageCommit image,
    mgtVer := (Config.imageNumber image 1).toNat, cpVer := (Config.imageNumber image 2).toNat,
    digests := (List.range 5).map fun k => toBE 32 (Config.imageDigest image k).toNat }

/-- Steps 1 to 7 of R445: the first failing check's status, or the new slot. -/
def State.checkDelta (s : State) (d : List Byte) : Nat ⊕ Slot :=
  let base := (s.slotOf s.mgt.activeSlot).bytes
  let zeros (off n : Nat) : Bool := (d.drop off).take n == List.replicate n 0
  let f := s.fuses
  match firstFail [
      (decide (322 ≤ d.length) && fld d 0 4 == 0x544C4544 && fld d 4 2 == 1 && fld d 6 2 == 256 && zeros 10 2 && zeros 28 4 && zeros 144 112
        && d.length == 322 + deltaCertLen d + fld d 104 8, zeBadField),
      (fld d 8 1 == (if f.grade = .tx960 then 1 else 2) && (fld d 9 1 == 0 || fld d 9 1 == (if f.stepping = .a1 then 1 else 2))
        && (zeros 12 12 || (d.drop 12).take 12 == padTo 12 f.moduleSerial), zeImageBinding),
      (Config.certChains (deltaCert d) f.rootDigest && Config.sm2Verify (d.take 256) ((d.drop 256).take 64) (deltaCert d), zeSignature),
      (sm3 (deltaOps d) == (d.drop 112).take 32, zeImageDigest),
      ((d.drop 32).take 32 == sm3 base, zeImageBinding),
      (decide (f.svMin ≤ fld d 24 4), zeImageBinding)] with
  | some e => .inl e
  | none =>
    match deltaResult base d with
    | none => .inl zeImageDigest
    | some r =>
      let x := slotFromImage f.rootDigest r
      match firstFail [(sm3 r == (d.drop 64).take 32 && x.certOk, zeImageDigest), (x.sigOk, zeSignature),
          (decide (f.svMin ≤ x.sv) && x.ctlOk, zeImageDigest)] with
      | some e => .inl e
      | none => .inr x

/-- The verification of a delta ends, with the write of the inactive slot where it passes (R445). A page that fails to read back goes into one of
the slot's spare pages (R431): how many do is a free value (n4). -/
def execFwDeltaVerified (s : State) : Out :=
  match s.longFind 8 0x0068 fun _ => true with
  | none => notNow "FW_DELTA_VERIFIED"
  | some l =>
    if !s.controllerRuns then notNow "FW_DELTA_VERIFIED"
    else
      let m := s.mgt
      let t := { s with mgt := { m with staged := [], staging := false } }
      match s.checkDelta m.staged with
      | .inl e => .next (t.longEnd l e [])
      | .inr x =>
        let x := { x with spares := (Config.freeWord s.fresh).toNat }
        let t := { t with mgt := { t.mgt with slots := Tab.set {} m.slots (1 - m.activeSlot) x, stagedOk := true }, fresh := s.fresh + 1 }
        .next (t.longEnd l 0 [])

/-! ## Commands that wait (spec/15 R368, R392) -/

/-- FW_ACTIVATE: command service pauses (R446). -/
def fwActivateSpec : CmdSpec :=
  { opcode := 0x0069, inM := true, service := true, lenOk := fun n => n == 0, run := fun _ seq _ s =>
      guarded [(!s.mgt.staging, zePartBusy), (s.mgt.stagedOk, zeImageBinding)] fun _ =>
        let m := s.mgt
        .accept (({ s with mgt := { m with activating := true, paused := true, actStep := 0 } } : State).longStart 8 seq 0x0069 0 0) true [] }

/-- FW_ACTIVATE arrives. -/
def execFwActivate (q : Nat) (h : CmdHdr) (b : List Byte) (s : State) : Out :=
  zcp "FW_ACTIVATE" 0x0069 (some fwActivateSpec) q h b s

/-- The commands of spec/15 R372. -/
def allSpecs : List CmdSpec :=
  [identifySpec, partCreateSpec, partDestroySpec, partSetQuotaSpec, memAllocSpec, memFreeSpec, chanPowerSpec, windowOpenSpec,
   windowCloseSpec, progLoadSpec, progUnloadSpec, runSpec, runStatusSpec, runAbortSpec, logReadSpec, traceReadSpec, sensorReadSpec,
   fenceQuerySpec, unfenceSpec, powerLimitSetSpec, stepCapSetSpec, cascadeJoinSpec, cascadeLeaveSpec, attestSpec, fwStageSpec,
   fwActivateSpec]

/-- The command that an opcode names. -/
def specOf (opcode : Nat) : Option CmdSpec := allSpecs.find? fun c => c.opcode == opcode

/-- The commands that waited are taken up in order of arrival. -/
def State.drain (s : State) : State :=
  let ws := s.host.waiting
  ws.foldl (fun s w => match s.mailbox w.q with
      | some qp => s.arrive qp w.opcode w.h w.body (specOf w.opcode)
      | none => s) { s with host := { s.host with waiting := [] } }

/-- May the first command that waits be taken up? -/
def State.mayDrain (s : State) : Bool :=
  match s.host.waiting with
  | [] => false
  | w :: _ => !({ s with host := { s.host with waiting := [] } } : State).mustWait w.opcode

/-- A WINDOW_OPEN that waited for the master is taken up again. Where it is refused, or its mailbox is gone, though the master has entered it
in the owner map, this member gives the window back (spec/16 R404). -/
def State.unpark (s : State) (x : Parked) : State :=
  let s := match s.mailbox x.q with
    | some qp => s.takeUp qp 0x0028 x.h x.body (some windowOpenSpec)
    | none => s
  let s := { s with host := { s.host with parked := s.host.parked.filter fun y => y != x } }
  let k := s.cas x.part
  if k.joined && (k.owners.find? fun o => o.1 == x.win) == some (x.win, k.rank) && !(s.window x.part x.win).isOpen then
    s.ownerChanged x.part x.win false
  else s

/-- What waited for the master of a cascade goes on once it has answered, or is not needed any more; then the commands behind it
(DESIGN CHOICE, n2: at a tick). -/
def State.serve (s : State) : State :=
  if s.mgt.paused then s
  else
    let ready (x : Parked) : Bool := x.answered || !(s.cas x.part).joined || (s.cas x.part).master
    let s := (s.host.parked.filter ready).foldl State.unpark s
    if s.mayDrain then s.drain else s

/-- A frame with an undefined opcode arrives. -/
def execZeUnknownCmd (q opcode : Nat) (h : CmdHdr) (b : List Byte) (s : State) : Out :=
  if (specOf opcode).isSome then notNow "ZE_UNKNOWN_CMD" else zcp "ZE_UNKNOWN_CMD" opcode none q h b s

/-! ## Activation (R446, R447) -/

/-- The events that a scope holds go to its mailboxes (spec/15 R370). -/
def State.flush (s : State) (i : Nat) : State := if (s.mailboxes i).isEmpty then s else s.deliver i (s.mailboxes i)

/-- The pause ends: CMD_DONE is the first frame, the pending events follow, and then the commands that waited. -/
def State.resume (s : State) (l : LongCmd) (status : Nat) : State :=
  let m := s.mgt
  let s := ({ s with mgt := { m with activating := false, paused := false, actStep := 0 } } : State).longEnd l status []
  ((List.range 9).foldl State.flush s).drain

/-- The new firmware has taken step 4, goes on with the error queue, and reaches step 6. -/
def execFwActivateDone (s : State) : Out :=
  match s.longFind 8 0x0069 fun _ => true with
  | none => notNow "FW_ACTIVATE_DONE"
  | some l =>
    let m := s.mgt
    let x := s.slotOf m.activeSlot
    if !m.activating || m.actStep != 4 || !s.controllerRuns then notNow "FW_ACTIVATE_DONE"
    else
      let svMin := if x.commit then max x.sv s.fuses.svMin else s.fuses.svMin
      let old := (s.slotOf (1 - m.activeSlot)).sv
      let s := { s with fuses := { s.fuses with svMin := svMin }, mgt := { m with stagedOk := !(x.commit && decide (old < svMin)) } }
      .next (s.resume l 0)

/-- The new slot failed in step 3 or step 4, or step 5 was not reached within 2.0 s: the controller flips the flag back if it had flipped it,
and the old firmware resumes. -/
def execFwActivateFailback (s : State) : Out :=
  match s.longFind 8 0x0069 fun _ => true with
  | none => notNow "FW_ACTIVATE_FAILBACK"
  | some l =>
    let m := s.mgt
    let n := if m.actStep = 0 then 1 - m.activeSlot else m.activeSlot
    let failed := if m.actStep = 0 then none else (s.slotOf n).unfit s.fuses.svMin
    if !m.activating || (failed.isNone && decide (s.ns < l.stamp + 2000000000)) then notNow "FW_ACTIVATE_FAILBACK"
    else
      let s := { s with mgt := { m with stagedOk := false, fallback := failed.map fun e => (n, e) } }
      .next ((s.runSlot (1 - n)).logFallback.resume l zeActivateFailed)

/-! ## A restart of the controller (R430) -/

/-- The two cores disagree: the controller restarts through its ROM. -/
def execLockstepMismatch (s : State) : Out :=
  if !s.controllerRuns then notNow "LOCKSTEP_MISMATCH"
  else
    let m := s.mgt
    .next ({ s with mgt := { m with restarting := true, restartAt := s.ns } } : State).romBoot

/-- The controller runs again, within 0.5 s, and what waited for it is served. -/
def execLgMgtRestart (microseconds : Nat) (s : State) : Out :=
  let m := s.mgt
  if !m.restarting || m.phase == 15 || microseconds != (s.ns - m.restartAt) / 1000 || decide (500000 < microseconds) then
    notNow "LG_MGT_RESTART"
  else
    let s := ({ s with mgt := { m with restarting := false } } : State).logEntry 8 0 none 0x0055 (toLE 1 1 ++ toLE 4 microseconds)
    .next s.logFallback.drain

end Sys2Proof.Machine
end

