-- ==== Sys2Proof/Machine/Tick.lean ====
section
/-!
DEFINITION. Sys2Proof/Machine/Tick.lean: what happens when no command waits: one compute cycle or one nanosecond of the time base (spec/14 R339, R346,
R349; spec/03 R96; spec/17 R427; spec/19 R469). DESIGN CHOICE (n2).
-/
namespace Sys2Proof.Machine

/-! ## Seconds -/

/-- A second of the time base ends: the entries dropped in it are known (spec/17 R427), and the PPS edges rejected in it are logged
(spec/19 R469). -/
def State.endSecond (s : State) : State :=
  let s := if s.err.lost = 0 then s else s.logLost
  let e := s.err
  let s := { s with err := { e with lost := e.dropped, lostAt := s.now - s.now % 1000000000, dropped := 0, inSecond := 0 } }
  let c := s.clk
  if c.ppsRejects = 0 then s
  else (s.modClk fun c => { c with ppsRejects := 0, ppsFirst := 0 }).logEntry 7 4 none 0x003B (toLE 8 c.ppsFirst ++ toLE 4 c.ppsRejects)

/-! ## The tick -/

/-- The next value of the counter, and what is still to be added (positive) or withheld (negative) of a correction (R349). -/
def Clocks.advance (c : Clocks) : Nat × Int :=
  if c.slew < 0 then (c.now, c.slew + 1)
  else if 0 < c.slew then ((c.now + 2) % 2 ^ 64, c.slew - 1)
  else ((c.now + 1) % 2 ^ 64, 0)

/-- 64,000ths of a compute cycle in a nanosecond (R339). Within a step of a glide the frequency changes linearly, from that of PRESENT to that of
the next step in 800 ns (R341: continuously; linearly is a DESIGN CHOICE, n14). -/
def Clocks.rate (c : Clocks) : Int :=
  let f : Int := 64 * (600 + 25 * c.present)
  let gone : Int := (c.ns : Int) + 800 - c.glideAt
  if !c.gliding then f else if c.present < c.heading then f + (2 * gone + 1) else f - (2 * gone + 1)

/-- Does a compute cycle begin before the counter's next value, or with its present one? `phase` counts the 64,000ths of a cycle from
the last edge to the present value of the counter, less than nothing where the edge lies behind that value. -/
def Clocks.edgeNext (c : Clocks) : Bool := decide (64000 < c.phase + c.rate)

/-- An edge of the compute clock: the next cycle begins, and its events bear the present value of the counter (R348). -/
def State.computeTick (s : State) : State :=
  s.modClk fun c => { c with phase := c.phase - 64000, cycles := c.cycles + 1, edgeAt := c.now }

/-- A nanosecond of the time base passes. -/
def State.timeTick (s : State) : State :=
  let was := s.clk.now
  let a := s.clk.advance
  let s := s.modClk fun c => { c with now := a.1, slew := a.2, ns := c.ns + 1, phase := c.phase + c.rate }
  if was / 1000000000 < a.1 / 1000000000 then s.endSecond else s

/-- What the hardware does of its own accord at a fixed time: a glide passes the end of its step (R341), an alarm hold ends (R345),
an error record reaches the queue (spec/17 R421), a micro run reaches its limit (spec/09 R232), the buckets are filled at each multiple of
100 ns (spec/11 R284), and commands that need wait no longer are taken up. -/
def State.timers (s : State) : State :=
  let s := if s.atBoundary then s.passBoundary else s
  let s := if s.holdOver then s.endHold else s
  let s := (s.coresWith fun k => k.micro.running && k.micro.overtime s.now).foldl State.microTimeout s.arriveDue
  let s := if s.refillDue then s.refillAll else s
  s.serve

/-- What comes next when no command waits. First, everything that takes place in the present cycle, and at the present time, of its own
accord. Then follows an edge of the compute clock, or the next value of the time base. At F24 six edges fall in five nanoseconds, so that
no cycle is passed over. While the input is absent no part of the module runs (spec/18 R448). -/
def State.tick (s : State) : State :=
  if !s.mgt.moduleOn then s
  else
    let s := s.settle.timers
    if s.clk.edgeNext then s.computeTick else s.timeTick

end Sys2Proof.Machine
end

