-- ==== Sys2Proof/Machine/Dispatch.lean ====
section
/-!
DEFINITION. Sys2Proof/Machine/Dispatch.lean: the meaning of each command, one arm per constructor of Instr.
-/
namespace Sys2Proof.Machine

/-- The effect of a command on everything but the queue. -/
def exec (i : Instr) (s : State) : Host.Outcome State Fault Refusal :=
  match i with
  | .matmul c => Sys2Proof.Machine.execMatmul c s
  | .matvec c => Sys2Proof.Machine.execMatvec c s
  | .attendMaxPhase c => Sys2Proof.Machine.execAttendMaxPhase c s
  | .attendSumPhase c => Sys2Proof.Machine.execAttendSumPhase c s
  | .rowsum c => Sys2Proof.Machine.execRowsum c s
  | .rowsq c => Sys2Proof.Machine.execRowsq c s
  | .stockSend c => Sys2Proof.Machine.execStockSend c s
  | .stockStore c => Sys2Proof.Machine.execStockStore c s
  | .stockAdd c => Sys2Proof.Machine.execStockAdd c s
  | .drain c => Sys2Proof.Machine.execDrain c s
  | .whisk c => Sys2Proof.Machine.execWhisk c s
  | .layout c => Sys2Proof.Machine.execLayout c s
  | .convert c => Sys2Proof.Machine.execConvert c s
  | .random c => Sys2Proof.Machine.execRandom c s
  | .tagfill c => Sys2Proof.Machine.execTagfill c s
  | .load c => Sys2Proof.Machine.execLoad c s
  | .store c => Sys2Proof.Machine.execStore c s
  | .gather c => Sys2Proof.Machine.execGather c s
  | .scatter c => Sys2Proof.Machine.execScatter c s
  | .send c => Sys2Proof.Machine.execSend c s
  | .ticketClaim c => Sys2Proof.Machine.execTicketClaim c s
  | .ticketRead c => Sys2Proof.Machine.execTicketRead c s
  | .loadprog c => Sys2Proof.Machine.execLoadprog c s
  | .wait c => Sys2Proof.Machine.execWait c s
  | .signalPlain c => Sys2Proof.Machine.execSignalPlain c s
  | .signalOpen c => Sys2Proof.Machine.execSignalOpen c s
  | .signalClose c => Sys2Proof.Machine.execSignalClose c s
  | .loop c => Sys2Proof.Machine.execLoop c s
  | .halt c => Sys2Proof.Machine.execHalt c s
  | .illegalOp c => Sys2Proof.Machine.execIllegalOp c s
  | .waitTimeout c => Sys2Proof.Machine.execWaitTimeout c s
  | .opCompletionPoint c => Sys2Proof.Machine.execOpCompletionPoint c s
  | .haltDrainComplete c => Sys2Proof.Machine.execHaltDrainComplete c s
  | .cfHaltDrain c => Sys2Proof.Machine.execCfHaltDrain c s
  | .lgLateCompletion c tag => Sys2Proof.Machine.execLgLateCompletion c tag s
  | .transferLaunch c => Sys2Proof.Machine.execTransferLaunch c s
  | .transferAcknowledgement x => Sys2Proof.Machine.execTransferAcknowledgement x s
  | .negativeAcknowledgement x => Sys2Proof.Machine.execNegativeAcknowledgement x s
  | .inboundCommit x => Sys2Proof.Machine.execInboundCommit x s
  | .remoteWriteHeader x => Sys2Proof.Machine.execRemoteWriteHeader x s
  | .memoryWindowWrite x => Sys2Proof.Machine.execMemoryWindowWrite x s
  | .attachedIncrementForward x => Sys2Proof.Machine.execAttachedIncrementForward x s
  | .stockWordRowArrival x => Sys2Proof.Machine.execStockWordRowArrival x s
  | .signalMessage g => Sys2Proof.Machine.execSignalMessage g s
  | .portFifoMessage x => Sys2Proof.Machine.execPortFifoMessage x s
  | .ringMessage x => Sys2Proof.Machine.execRingMessage x s
  | .staticSlotMismatch x router output input slot => Sys2Proof.Machine.execStaticSlotMismatch x router output input slot s
  | .remoteRead x => Sys2Proof.Machine.execRemoteRead x s
  | .ticketRequest x => Sys2Proof.Machine.execTicketRequest x s
  | .stackAccess x errs => Sys2Proof.Machine.execStackAccess x errs s
  | .refresh stack channel => Sys2Proof.Machine.execRefresh stack channel s
  | .disturbRefresh stack channel row => Sys2Proof.Machine.execDisturbRefresh stack channel row s
  | .patrolScrub unit errs => Sys2Proof.Machine.execPatrolScrub unit errs s
  | .reqOffSet stack channel => Sys2Proof.Machine.execReqOffSet stack channel s
  | .reqOffClear stack channel => Sys2Proof.Machine.execReqOffClear stack channel s
  | .channelClosed stack channel => Sys2Proof.Machine.execChannelClosed stack channel s
  | .channelOpened stack channel => Sys2Proof.Machine.execChannelOpened stack channel s
  | .tokenRefill => Sys2Proof.Machine.execTokenRefill s
  | .runStart p => Sys2Proof.Machine.execRunStart p s
  | .runEnd p => Sys2Proof.Machine.execRunEnd p s
  | .runClose p => Sys2Proof.Machine.execRunClose p s
  | .identify q h body => Sys2Proof.Machine.execIdentify q h body s
  | .partCreate q h body => Sys2Proof.Machine.execPartCreate q h body s
  | .partDestroy q h body => Sys2Proof.Machine.execPartDestroy q h body s
  | .partDestroyDone p => Sys2Proof.Machine.execPartDestroyDone p s
  | .partSetQuota q h body => Sys2Proof.Machine.execPartSetQuota q h body s
  | .memAlloc q h body => Sys2Proof.Machine.execMemAlloc q h body s
  | .memFree q h body => Sys2Proof.Machine.execMemFree q h body s
  | .memFreeDone p k => Sys2Proof.Machine.execMemFreeDone p k s
  | .chanPower q h body => Sys2Proof.Machine.execChanPower q h body s
  | .chanPowerDone stack channel => Sys2Proof.Machine.execChanPowerDone stack channel s
  | .windowOpen q h body => Sys2Proof.Machine.execWindowOpen q h body s
  | .windowOpenHandle q h body => Sys2Proof.Machine.execWindowOpenHandle q h body s
  | .windowClose q h body => Sys2Proof.Machine.execWindowClose q h body s
  | .windowCloseComplete p w => Sys2Proof.Machine.execWindowCloseComplete p w s
  | .progLoad q h body => Sys2Proof.Machine.execProgLoad q h body s
  | .progLoadDone p handle => Sys2Proof.Machine.execProgLoadDone p handle s
  | .progUnload q h body => Sys2Proof.Machine.execProgUnload q h body s
  | .run q h body => Sys2Proof.Machine.execRun q h body s
  | .runStatus q h body => Sys2Proof.Machine.execRunStatus q h body s
  | .runAbort q h body => Sys2Proof.Machine.execRunAbort q h body s
  | .logRead q h body => Sys2Proof.Machine.execLogRead q h body s
  | .traceRead q h body => Sys2Proof.Machine.execTraceRead q h body s
  | .sensorRead q h body => Sys2Proof.Machine.execSensorRead q h body s
  | .fenceQuery q h body => Sys2Proof.Machine.execFenceQuery q h body s
  | .unfence q h body => Sys2Proof.Machine.execUnfence q h body s
  | .returnProcedureDone domain index pass => Sys2Proof.Machine.execReturnProcedureDone domain index pass s
  | .powerLimitSet q h body => Sys2Proof.Machine.execPowerLimitSet q h body s
  | .stepCapSet q h body => Sys2Proof.Machine.execStepCapSet q h body s
  | .cascadeJoin q h body => Sys2Proof.Machine.execCascadeJoin q h body s
  | .cascadeComplete => Sys2Proof.Machine.execCascadeComplete s
  | .cascadeJoinTimeout => Sys2Proof.Machine.execCascadeJoinTimeout s
  | .cascadeLeave q h body => Sys2Proof.Machine.execCascadeLeave q h body s
  | .attest q h body => Sys2Proof.Machine.execAttest q h body s
  | .fwStage q h body => Sys2Proof.Machine.execFwStage q h body s
  | .fwStageRestart q h body => Sys2Proof.Machine.execFwStageRestart q h body s
  | .fwStageLast q h body => Sys2Proof.Machine.execFwStageLast q h body s
  | .fwDeltaVerified => Sys2Proof.Machine.execFwDeltaVerified s
  | .fwActivate q h body => Sys2Proof.Machine.execFwActivate q h body s
  | .fwActivateFailback => Sys2Proof.Machine.execFwActivateFailback s
  | .zeUnknownCmd q opcode h body => Sys2Proof.Machine.execZeUnknownCmd q opcode h body s
  | .qpConnectRequest port scope kind => Sys2Proof.Machine.execQpConnectRequest port scope kind s
  | .rdmaWrite q va rkey data errs => Sys2Proof.Machine.execRdmaWrite q va rkey data errs s
  | .rdmaWriteAck r => Sys2Proof.Machine.execRdmaWriteAck r s
  | .rdmaRead q va rkey len errs => Sys2Proof.Machine.execRdmaRead q va rkey len errs s
  | .unsupportedFrame port => Sys2Proof.Machine.execUnsupportedFrame port s
  | .pcsLockLost port => Sys2Proof.Machine.execPcsLockLost port s
  | .lgPortDown port => Sys2Proof.Machine.execLgPortDown port s
  | .pcsRelock port => Sys2Proof.Machine.execPcsRelock port s
  | .errorRecordArrival n => Sys2Proof.Machine.execErrorRecordArrival n s
  | .errorRecordHandling => Sys2Proof.Machine.execErrorRecordHandling s
  | .persistenceCheckEnd stack channel => Sys2Proof.Machine.execPersistenceCheckEnd stack channel s
  | .lgLogLost => Sys2Proof.Machine.execLgLogLost s
  | .coreError c struct addr => Sys2Proof.Machine.execCoreError c struct addr s
  | .bridgeSlip die boundary plane column => Sys2Proof.Machine.execBridgeSlip die boundary plane column s
  | .firmwareStepEvaluation readings margins fit => Sys2Proof.Machine.execFirmwareStepEvaluation readings margins fit s
  | .glideStep => Sys2Proof.Machine.execGlideStep s
  | .marginWarn region margin => Sys2Proof.Machine.execMarginWarn region margin s
  | .marginAlarm region margin => Sys2Proof.Machine.execMarginAlarm region margin s
  | .alarmHoldExpiry => Sys2Proof.Machine.execAlarmHoldExpiry s
  | .lgRegionFail region margin => Sys2Proof.Machine.execLgRegionFail region margin s
  | .powerGuard milliwatts => Sys2Proof.Machine.execPowerGuard milliwatts s
  | .thermalTrip sensor milliC => Sys2Proof.Machine.execThermalTrip sensor milliC s
  | .lgOvertemp sensor milliC => Sys2Proof.Machine.execLgOvertemp sensor milliC s
  | .replicaThresholdWrite region warn alarm => Sys2Proof.Machine.execReplicaThresholdWrite region warn alarm s
  | .timeStep delta => Sys2Proof.Machine.execTimeStep delta s
  | .timeSlew offset => Sys2Proof.Machine.execTimeSlew offset s
  | .ppsEdge width => Sys2Proof.Machine.execPpsEdge width s
  | .lgRefLost => Sys2Proof.Machine.execLgRefLost s
  | .referenceRestored => Sys2Proof.Machine.execReferenceRestored s
  | .rstNAssert => Sys2Proof.Machine.execRstNAssert s
  | .rstNRelease => Sys2Proof.Machine.execRstNRelease s
  | .lgResetHeld => Sys2Proof.Machine.execLgResetHeld s
  | .throttleNAssert => Sys2Proof.Machine.execThrottleNAssert s
  | .throttleNRelease => Sys2Proof.Machine.execThrottleNRelease s
  | .lgThrottle => Sys2Proof.Machine.execLgThrottle s
  | .presentNChange level => Sys2Proof.Machine.execPresentNChange level s
  | .sidebandChatterEntry input => Sys2Proof.Machine.execSidebandChatterEntry input s
  | .sidebandChatterExit input level => Sys2Proof.Machine.execSidebandChatterExit input level s
  | .lgSidebandChatter input => Sys2Proof.Machine.execLgSidebandChatter input s
  | .keyChange key => Sys2Proof.Machine.execKeyChange key s
  | .kitRecordRead kind serial => Sys2Proof.Machine.execKitRecordRead kind serial s
  | .lgCoolingLost sensor => Sys2Proof.Machine.execLgCoolingLost sensor s
  | .lgKitMismatch => Sys2Proof.Machine.execLgKitMismatch s
  | .coolingRestored => Sys2Proof.Machine.execCoolingRestored s
  | .inputValid millivolts => Sys2Proof.Machine.execInputValid millivolts s
  | .bulkUndervoltage millivolts => Sys2Proof.Machine.execBulkUndervoltage millivolts s
  | .inputOvervoltage millivolts => Sys2Proof.Machine.execInputOvervoltage millivolts s
  | .inputThresholdCrossing millivolts => Sys2Proof.Machine.execInputThresholdCrossing millivolts s
  | .inputBreaker milliamps => Sys2Proof.Machine.execInputBreaker milliamps s
  | .bootRom slotId => Sys2Proof.Machine.execBootRom slotId s
  | .controllerReady readings key kind serial => Sys2Proof.Machine.execControllerReady readings key kind serial s
  | .hubUp refPresent => Sys2Proof.Machine.execHubUp refPresent s
  | .builtInTestDone cores regions dies => Sys2Proof.Machine.execBuiltInTestDone cores regions dies s
  | .stackTrainingDone failed => Sys2Proof.Machine.execStackTrainingDone failed s
  | .linkTrainingDone failed => Sys2Proof.Machine.execLinkTrainingDone failed s
  | .portTrainingDone failed => Sys2Proof.Machine.execPortTrainingDone failed s
  | .moduleReady => Sys2Proof.Machine.execModuleReady s
  | .lockstepMismatch => Sys2Proof.Machine.execLockstepMismatch s
  | .lgMgtRestart microseconds => Sys2Proof.Machine.execLgMgtRestart microseconds s
  | .page write pecOk => Sys2Proof.Machine.execPage write pecOk s
  | .clearFaults pecOk => Sys2Proof.Machine.execClearFaults pecOk s
  | .capability pecOk => Sys2Proof.Machine.execCapability pecOk s
  | .statusByte pecOk => Sys2Proof.Machine.execStatusByte pecOk s
  | .statusWord pecOk => Sys2Proof.Machine.execStatusWord pecOk s
  | .statusInput pecOk => Sys2Proof.Machine.execStatusInput pecOk s
  | .statusTemperature pecOk => Sys2Proof.Machine.execStatusTemperature pecOk s
  | .statusCml pecOk => Sys2Proof.Machine.execStatusCml pecOk s
  | .statusMfrSpecific pecOk => Sys2Proof.Machine.execStatusMfrSpecific pecOk s
  | .readVin pecOk => Sys2Proof.Machine.execReadVin pecOk s
  | .readIin pecOk => Sys2Proof.Machine.execReadIin pecOk s
  | .readTemperature1 pecOk => Sys2Proof.Machine.execReadTemperature1 pecOk s
  | .readTemperature2 pecOk => Sys2Proof.Machine.execReadTemperature2 pecOk s
  | .readTemperature3 pecOk => Sys2Proof.Machine.execReadTemperature3 pecOk s
  | .readPin pecOk => Sys2Proof.Machine.execReadPin pecOk s
  | .pmbusRevision pecOk => Sys2Proof.Machine.execPmbusRevision pecOk s
  | .mfrId pecOk => Sys2Proof.Machine.execMfrId pecOk s
  | .mfrModel pecOk => Sys2Proof.Machine.execMfrModel pecOk s
  | .mfrRevision pecOk => Sys2Proof.Machine.execMfrRevision pecOk s
  | .mfrSerial pecOk => Sys2Proof.Machine.execMfrSerial pecOk s
  | .mfrModuleState pecOk => Sys2Proof.Machine.execMfrModuleState pecOk s
  | .pmbusUnsupportedCommand code pecOk => Sys2Proof.Machine.execPmbusUnsupportedCommand code pecOk s
  | .alertResponse => Sys2Proof.Machine.execAlertResponse s
  | .microModeEnter c priv entry => Sys2Proof.Machine.execMicroModeEnter c priv entry s
  | .microModeExit c => Sys2Proof.Machine.execMicroModeExit c s
  | .go c priv entry => Sys2Proof.Machine.execGo c priv entry s
  | .abort c => Sys2Proof.Machine.execAbort c s
  | .microTimeLimit c => Sys2Proof.Machine.execMicroTimeLimit c s
  | .add c => Sys2Proof.Machine.execAdd c s
  | .sub c => Sys2Proof.Machine.execSub c s
  | .and c => Sys2Proof.Machine.execAnd c s
  | .or c => Sys2Proof.Machine.execOr c s
  | .xor c => Sys2Proof.Machine.execXor c s
  | .shl c => Sys2Proof.Machine.execShl c s
  | .shr c => Sys2Proof.Machine.execShr c s
  | .sar c => Sys2Proof.Machine.execSar c s
  | .mul c => Sys2Proof.Machine.execMul c s
  | .mulhu c => Sys2Proof.Machine.execMulhu c s
  | .slt c => Sys2Proof.Machine.execSlt c s
  | .sltu c => Sys2Proof.Machine.execSltu c s
  | .addi c => Sys2Proof.Machine.execAddi c s
  | .andi c => Sys2Proof.Machine.execAndi c s
  | .ori c => Sys2Proof.Machine.execOri c s
  | .xori c => Sys2Proof.Machine.execXori c s
  | .shli c => Sys2Proof.Machine.execShli c s
  | .shri c => Sys2Proof.Machine.execShri c s
  | .lui c => Sys2Proof.Machine.execLui c s
  | .ld c => Sys2Proof.Machine.execLd c s
  | .lw c => Sys2Proof.Machine.execLw c s
  | .sd c => Sys2Proof.Machine.execSd c s
  | .sw c => Sys2Proof.Machine.execSw c s
  | .beq c => Sys2Proof.Machine.execBeq c s
  | .bne c => Sys2Proof.Machine.execBne c s
  | .blt c => Sys2Proof.Machine.execBlt c s
  | .bltu c => Sys2Proof.Machine.execBltu c s
  | .jal c => Sys2Proof.Machine.execJal c s
  | .jr c => Sys2Proof.Machine.execJr c s
  | .msys c => Sys2Proof.Machine.execMsys c s
  | .mhalt c => Sys2Proof.Machine.execMhalt c s
  | .vld c => Sys2Proof.Machine.execVld c s
  | .vst c => Sys2Proof.Machine.execVst c s
  | .vop c => Sys2Proof.Machine.execVop c s
  | .vext c => Sys2Proof.Machine.execVext c s
  | .vins c => Sys2Proof.Machine.execVins c s
  | .mopen c => Sys2Proof.Machine.execMopen c s
  | .mwld c => Sys2Proof.Machine.execMwld c s
  | .mswap c => Sys2Proof.Machine.execMswap c s
  | .mrow c => Sys2Proof.Machine.execMrow c s
  | .mrd c => Sys2Proof.Machine.execMrd c s
  | .mrdx c => Sys2Proof.Machine.execMrdx c s
  | .illegalInstruction c => Sys2Proof.Machine.execIllegalInstruction c s
  | .dataFlit l f => Sys2Proof.Machine.execDataFlit l f s
  | .idleFlit l f => Sys2Proof.Machine.execIdleFlit l f s
  | .replayRequest l f => Sys2Proof.Machine.execReplayRequest l f s
  | .fecLockLost l => Sys2Proof.Machine.execFecLockLost l s
  | .flitTimeout l => Sys2Proof.Machine.execFlitTimeout l s
  | .linkTrainStep l peer => Sys2Proof.Machine.execLinkTrainStep l peer s
  | .linkTrainOverrun l => Sys2Proof.Machine.execLinkTrainOverrun l s
  | .cascadePacket l k => Sys2Proof.Machine.execCascadePacket l k s
  | .masterBeat => Sys2Proof.Machine.execMasterBeat s
  | .beatArrival rank stamp succession offset => Sys2Proof.Machine.execBeatArrival rank stamp succession offset s
  | .beatTimeout => Sys2Proof.Machine.execBeatTimeout s
  | .neighbourLost direction => Sys2Proof.Machine.execNeighbourLost direction s
  | .memberLossReport rank => Sys2Proof.Machine.execMemberLossReport rank s
  | .twinDigestSend p => Sys2Proof.Machine.execTwinDigestSend p s
  | .twinDigestArrival ordinal outcome digests => Sys2Proof.Machine.execTwinDigestArrival ordinal outcome digests s
  | .twinPartnerTimeout => Sys2Proof.Machine.execTwinPartnerTimeout s
  | .registerWrite addr value => Sys2Proof.Machine.execRegisterWrite addr value s
  | .thermalTripClear readings => Sys2Proof.Machine.execThermalTripClear readings s
  | .fwActivateDone => Sys2Proof.Machine.execFwActivateDone s
  | .dreq q => Sys2Proof.Machine.execDreq q s
  | .congestionNotificationPacket port => Sys2Proof.Machine.execCongestionNotificationPacket port s
  | .networkLayerFrame port f => Sys2Proof.Machine.execNetworkLayerFrame port f s

end Sys2Proof.Machine
end

