-- ==== Sys2Proof/Safety.lean ====
section
/-!
DEFINITION. Sys2Proof/Safety.lean: the terms in which the claims speak: a command that goes through, what it may change, when an op, a
micro instruction or a ZCP command is taken up, and the invariants of the module's state.
-/
namespace Sys2Proof.Machine

/-! ## Outcomes and effects -/

/-- The outcome is a next state, of which something holds. -/
def Leads (o : Out) (P : State → Prop) : Prop := ∃ t, o = .next t ∧ P t

/-- `t` is `s` with one core changed to `k`: every other core and every other component is as it was. -/
def State.CoreEffect (s t : State) (c : Nat) (k : Core) : Prop :=
  t.core c = k ∧ (∀ d, d ≠ c → t.core d = s.core d) ∧ { t with cores := s.cores } = s

/-! ## Issue (spec/03 R92, R93; spec/06 R157) -/

/-- Is a core's next op looked at now with nothing in its way: it is due, its program block is valid, it has not been found illegal
before, and its waits have passed? -/
def State.clear (s : State) (c : Nat) : Bool :=
  let t := s.look c
  let k := t.core c
  s.offered c && k.blockValid k.next && !k.illDue && k.waits k.nextOp t.cyc t.coreNow == .pass

/-- What a core's station issues now: nothing is in the way of its next op, the op is legal, there are tags enough, and the checks of the
issue cycle pass; none where one of these does not hold. -/
def State.dueIssue (s : State) (c : Nat) : Option Issue :=
  let t := s.look c
  let k := t.core c
  let o := k.nextOp
  if s.clear c then
    match legality (planFor o) t c o with
    | .ok l =>
      if l.tags ≤ (t.freeTags c).length then
        match l.go with
        | .ok i => (match k.checkIssue i t.cyc o.addr with | .ok _ => some i | .error _ => none)
        | .error _ => none
      else none
    | .error _ => none
  else none

/-- A core's next op, whose opcode is `opc`, issues now. -/
def State.issues (s : State) (c opc : Nat) : Bool := (s.core c).nextOp.opc == opc && (s.dueIssue c).isSome

/-- Nothing is in the way of a core's next op, which is illegal for a reason. -/
def State.dueIllegal (s : State) (c reason : Nat) : Bool :=
  let t := s.look c
  let o := (t.core c).nextOp
  s.clear c && (match legality (planFor o) t c o with | .error (.illegal r) => r == reason | _ => false)

/-! ## Ops of the row (spec/04, spec/07, spec/08) -/

/-- What every op of the row leaves as it is: the other cores, the counters and loop levels of its own, transfers and messages, and memory
unless the op is traced. -/
def State.RowOp (s t : State) (c : Nat) : Prop :=
  (∀ d, d ≠ c → t.core d = s.core d) ∧ (t.core c).cnts = (s.core c).cnts ∧ (t.core c).shape = (s.core c).shape ∧ t.xfers = s.xfers ∧
    t.sigs = s.sigs ∧ ((s.core c).nextOp.trace = false → t.mem = s.mem)

/-- An op of the row that leaves the stockpot as it is. -/
def State.ScratchOp (s t : State) (c : Nat) : Prop :=
  s.RowOp t c ∧ (t.core c).stock = (s.core c).stock ∧ (t.core c).rows = (s.core c).rows

/-- An element as a row opens: V zero and finite, with its L (spec/04 R111). -/
def openElem (l : Int) : Elem := { v := 0, l := l, s := .finite }

/-- The whole numbers from `lo` up to `hi`, without `hi`. -/
def span (lo hi : Nat) : List Nat := (List.range (hi - lo)).map (lo + ·)

/-- An element with the products of two operands at some K indices added (spec/02 R60, R66; spec/04 R108). -/
def sumOf (x : Elem) (ks : List Nat) (a b : Nat → Dec × Arith) : Elem :=
  ks.foldl (fun y k => addProduct y (product (a k).1 (b k).1 0).1) x

/-- None of these products breaches the anchor of an element (spec/02 R63). -/
def keepsAnchor (mode : AccMode) (x : Elem) (ks : List Nat) (a b : Nat → Dec × Arith) : Prop :=
  ∀ k ∈ ks, breaches mode x.l (product (a k).1 (b k).1 0).1 = false

/-- The elements of a core's rows outside `r0` to `r0 + n − 1` stand as they did, and the state of those rows. -/
def Core.sameRows (k t : Core) (r0 n : Nat) : Prop :=
  ∀ r, r < r0 ∨ r0 + n ≤ r → t.row r = k.row r ∧ ∀ j, j < 128 → t.elem r j = k.elem r j

/-- Do two planes of a tensor share no byte? -/
def Desc.planesApart (d : Desc) : Prop := d.hulls.Pairwise fun x y => overlap x y = false

/-- The bytes outside a tensor and its planes stand as they did. -/
def Desc.keepsRest (d : Desc) (m n : Memory) : Prop :=
  ∀ a, (∀ h ∈ d.hulls, a < h.1 ∨ h.1 + h.2 ≤ a) → Memory.get n a = Memory.get m a

/-- A row of a tensor holds values: their codes as rounded into its format, and the tag and scale bytes of these (spec/02 R54, R56; spec/05
R133). -/
def Desc.rowHolds (d : Desc) (m : Memory) (o : List Nat) (xs : List Dec) (mode : Rnd) : Prop :=
  let r := encodeRow d.fmt d.scaleV xs mode
  loadRow m d.fmt (d.rowAddr o) xs.length = r.1 ∧
  (d.tagV = true →
    Memory.read m (d.tagPtr + d.rowNo o * ceilDiv (dim d.ext 0) 64) (ceilDiv xs.length 64) = rowTags d.fmt r.1) ∧
  (d.scaleV = true →
    Memory.read m (d.scalePtr + d.rowNo o * ceilDiv (dim d.ext 0) 32) (ceilDiv xs.length 32) = r.2.1)

/-- The live rows of a tensor hold, in their first `n` elements, the values that a function gives for the row and the element. -/
def Desc.holds (d : Desc) (m : Memory) (rt : List Nat) (n : Nat) (f : Nat × List Nat → Nat → Dec × Arith) (mode : Rnd) : Prop :=
  ∀ r ∈ d.liveRows rt, d.rowHolds m r.2 ((List.range n).map fun i => (f r i).1) mode

/-- What a WHISK leaves in its output, from the bytes `m` of the scratchpad and those of the whisk port FIFO (spec/08 R204). -/
def WhiskArgs.Done (a : WhiskArgs) (fifo : List Byte) (m n : Memory) : Prop :=
  a.out.holds n a.live (dim a.live 0) (fun r i => a.result fifo m r.1 r.2 i) a.mode ∧ a.out.keepsRest m n

/-- What a CONVERT leaves in its destination, from the bytes `m` of the scratchpad and those of the layout port FIFO (spec/08 R207). -/
def ConvertArgs.Done (a : ConvertArgs) (fifo : List Byte) (m n : Memory) : Prop :=
  let codes := a.codes fifo m (elementGroups a.dst (4096 / max a.src.fmt.width a.dst.fmt.width))
  a.dst.holds n a.live (dim a.live 0) (fun r i => a.src.value m r.2 i (codes.getD (r.1 * dim a.dst.ext 0 + i) 0)) a.mode ∧
  a.dst.keepsRest m n ∧
  (a.ctl.mode = 0 → a.ctl.fifo = false → a.dst.holds n a.live (dim a.live 0) (fun r i => a.src.elem m r.2 i) a.mode)

/-! ## Micro mode (spec/09 R229, R241) -/

/-- The instruction word at the PC of a core. -/
def State.microWord (s : State) (c : Nat) : Nat := Memory.nat (s.core c).pstore (s.core c).micro.pc 4

/-- A core takes up an instruction: it executes, within its time, from a valid block. -/
def State.microTakes (s : State) (c : Nat) : Bool :=
  s.microRuns c && !(s.core c).micro.overtime s.now && (s.core c).blockValid (opAddrOf (s.core c).micro.pc)

/-- A core is about to execute a legal instruction with an OPC. -/
def State.microReady (s : State) (c opc : Nat) : Bool :=
  s.microTakes c && mOpc (s.microWord c) == opc && s.microLegal c (s.microWord c)

/-- An instruction changes the micro state of its core, and nothing else. -/
def State.MicroEffect (s t : State) (c : Nat) (m : Micro) : Prop := s.CoreEffect t c { s.core c with micro := m }

/-! ## ZCP commands (spec/15 R366 to R368) -/

/-- A command frame is taken up at once: it stands on a connected mailbox, nothing makes it wait, it passes the frame checks, and its
SEQ is above S_max. -/
def State.takes (s : State) (q opcode : Nat) (h : CmdHdr) : Option QPair :=
  match s.mailbox q with
  | some qp =>
    if !s.mustWait opcode && (frameCheck qp h).isNone && decide ((s.scope (scopeIndex h.scope)).smax < h.seq) then some qp else none
  | none => none

/-- Is a reply an acceptance? -/
def Reply.accepts : Reply → Bool
  | .accept .. => true
  | .acceptDone .. => true
  | _ => false

/-- A command frame is taken up at once and accepted. -/
def State.accepts (s : State) (q : Nat) (h : CmdHdr) (b : List Byte) (spec : CmdSpec) : Bool :=
  match s.takes q spec.opcode h with
  | some qp => (s.judge qp spec.opcode h b (some spec)).accepts
  | none => false

/-- The module tells a scope of an event: its frame has gone out, or is held for a mailbox to come (spec/15 R365, R370). -/
def State.Tells (t : State) (scope code : Nat) (fields : List Byte) : Prop :=
  ∃ f : Frame, f.kind = 2 ∧ f.scope = scopeByte scope ∧ f.opcode = code ∧ f.fields = fields ∧
    ((∃ q, Sent.frame q f ∈ t.host.sent) ∨ f ∈ (t.scope scope).held)

/-! ## Links (spec/16 R395, R397) -/

/-- A packet stands among those a link is to send, or has sent and keeps for replay. -/
def State.Carries (t : State) (pk : Packet) : Prop := ∃ l, ∃ e ∈ (t.link l).packets, e.2.2.1 = pk

/-! ## Invariants -/

/-- What is fused is as it was, but that the minimum security version may have risen (spec/18 R438, R447). -/
def Fuses.Kept (f g : Fuses) : Prop := { g with svMin := f.svMin } = f ∧ f.svMin ≤ g.svMin

/-- Every byte store of the module is in its canonical form: strictly rising addresses, no byte equal to what an unlisted one reads as. -/
def State.MemWf (s : State) : Prop := Memory.wf s.mem = true ∧ Memory.wf s.slotTables = true

/-- No resource has two owners: a memory unit's owner is a partition that exists, and no two partitions that exist share a clock region, a
port or a link (spec/01 R36). -/
def State.OneOwner (s : State) : Prop :=
  (∀ u p, s.ownerOfUnit u = some p → u < 960 ∧ (s.part p).exist = true) ∧
  (∀ p, (s.part p).exist = true → p < 8) ∧
  ∀ p q, p ≠ q → (s.part p).exist = true → (s.part q).exist = true →
    (s.part p).regions &&& (s.part q).regions = 0 ∧ (s.part p).ports &&& (s.part q).ports = 0 ∧
    (s.part p).links &&& (s.part q).links = 0

end Sys2Proof.Machine
end

