-- ==== Sys2Proof/Certificates/Slice0/Obligations.lean ====
section
/-!
DEFINITION. Sys2Proof/Certificates/Slice0/Obligations.lean: the statements for the provers. Each names the rules of spec/ it rests on. Where
a statement says `Leads o P`, the command answers a next state of which `P` holds.
-/
open Sys2Proof Sys2Proof.Machine

/-! ## The block -/

/-- A step with a command at the front of the queue is that command's effect on the state with the rest of the queue. -/
def Obligations.StepRunsFrontCommand : Prop :=
  ∀ (c : Instr) (rest : List Instr) (s : State), step { s with pending := c :: rest } = exec c { s with pending := rest }

/-- With no command waiting, a step is a tick once the input is up. First what the present cycle and time hold of their own accord takes
place (`settle`, `timers`). Then follows an edge of the compute clock, at which the time base stands and one cycle is counted, or the next
value of the time base: one more where no correction is due, none where a tick is withheld, two where one is added (spec/14 R346, R349).
Outside a glide the compute clock gains 64 (600 + 25n) 64,000ths of a cycle in a nanosecond at step Fn (R339). Neither changes a core, a
transfer, a segment, a link or a fuse. That an idle step is a tick is the model's choice (n2). -/
def Obligations.IdleStepIsTick : Prop :=
  ∀ s : State, s.pending = [] →
    Leads (step s) fun t =>
      (s.mgt.moduleOn = false → t = s) ∧
      (s.mgt.moduleOn = true →
        let u := s.settle.timers
        let gain : Int := 64 * (600 + 25 * u.clk.present)
        (u.clk.gliding = false → 64000 < u.clk.phase + gain →
          t.now = u.now ∧ t.ns = u.ns ∧ t.cyc = u.cyc + 1 ∧ t.clk.edgeAt = u.now ∧ t.clk.phase = u.clk.phase - 64000 ∧ t.mem = u.mem) ∧
        (u.clk.gliding = false → u.clk.phase + gain ≤ 64000 →
          t.cyc = u.cyc ∧ t.ns = u.ns + 1 ∧ t.clk.phase = u.clk.phase + gain ∧
          (u.now + 2 < 2 ^ 64 →
            (u.clk.slew = 0 → t.now = u.now + 1 ∧ t.clk.slew = 0) ∧
            (u.clk.slew < 0 → t.now = u.now ∧ t.clk.slew = u.clk.slew + 1) ∧
            (0 < u.clk.slew → t.now = u.now + 2 ∧ t.clk.slew = u.clk.slew - 1))) ∧
        t.cores = u.cores ∧ t.xfers = u.xfers ∧ t.segs = u.segs ∧ t.links = u.links ∧ t.fuses = u.fuses)

/-- At power-on the time base stands at 0, the compute domain at F0 with no glide, CAP at 24, every replica at MARGIN 0xFF with the
thresholds 0x10 and 0x08, PHASE at 0, every channel ON, no window open, no partition and no segment valid, every counter and ticket at 0,
every tag free, and memory zero (spec/14 R343, R344, R346, R349; spec/18 R432, R448; spec/11 R276, R277, R289), in canonical form, and no
resource owned (spec/01 R36, R40). That the scratchpads read zero is the model's choice (n6), and so is the part that is fused, TX-960 stepping
A1 (n3). -/
def Obligations.PowerOnState : Prop :=
  let s := State.reset
  s.pending = [] ∧ s.now = 0 ∧ s.clk.source = 0 ∧ s.clk.locked = false ∧ s.clk.present = 0 ∧ s.clk.target = 0 ∧ s.clk.cap = 24 ∧
  s.clk.gliding = false ∧ s.clk.throttle = false ∧ s.clk.alarmHold = none ∧ s.clk.glides = 0 ∧ s.mgt.phase = 0 ∧ s.mgt.staging = false ∧
  (∀ r, (s.replica r).margin = 0xFF ∧ (s.replica r).warnTh = 0x10 ∧ (s.replica r).alarmTh = 0x08) ∧
  (∀ n, (s.chan n).state = 0 ∧ (s.chan n).ce = 0 ∧ (s.chan n).ue = 0) ∧
  (∀ p w, (s.window p w).isOpen = false ∧ (s.window p w).epoch = 0) ∧ (∀ p, (s.part p).exist = false) ∧
  (∀ p k, (s.seg p k).v = false) ∧ (∀ i, s.ticket i = 0) ∧ (∀ a, Memory.get s.mem a = 0) ∧ s.MemWf ∧ s.OneOwner ∧
  ∀ c, (s.core c).running = false ∧ (s.core c).pvalid = 0 ∧ (∀ a, Memory.get (s.core c).scratch a = 0) ∧
    (∀ n, ((s.core c).cnt n).value = 0 ∧ ((s.core c).cnt n).isOpen = false) ∧ (∀ i, ((s.core c).ent i).v = false) ∧ s.heldTags c = []

/-- SV_MIN never falls, and nothing else that is fused ever changes, whatever command a step takes (spec/18 R438, R447). -/
def Obligations.StepKeepsFuses : Prop :=
  ∀ (f : Fuses) (s t : State), f.Kept s.fuses → step s = .next t → f.Kept t.fuses

/-- Every step keeps the module's memory and its slot tables in canonical form. -/
def Obligations.StepKeepsMemoryForm : Prop := ∀ s t : State, s.MemWf → step s = .next t → t.MemWf

/-- No step gives a memory unit, a clock region, a port or a link a second owner, nor one that does not exist (spec/01 R36, R40). -/
def Obligations.OwnershipKept : Prop := ∀ s t : State, s.OneOwner → step s = .next t → t.OneOwner

/-- No command but the queue's own step touches the queue: exec leaves the commands that wait as they are. -/
def Obligations.ExecLeavesQueue : Prop := ∀ (c : Instr) (s t : State), exec c s = .next t → t.pending = s.pending

/-! ## Issue (spec/03 R92, R93; spec/06 R157, R158) -/

/-- A due and legal op whose waits have passed issues, with tags enough where it holds some: its windows are granted, the next op in program
order is due max(DUR, 1) cycles later, and upon that its own effect follows. That is so for every op of the table, whichever command takes it up. HALT
stops the core's station, and CYCLE stays at the cycles since the run's first issue; a WAIT without signals changes its core's station alone
(spec/03 R92, R96; spec/06 R157; spec/08 R223 to R226). -/
def Obligations.OpsIssue : Prop :=
  ∀ (s : State) (c : Nat) (i : Issue), s.dueIssue c = some i →
    let o := (s.core c).nextOp
    let u := (s.look c).issue c o i
    let goes (x : Instr) : Prop := exec x s = .next u
    (∃ id v, u = i.effect id v ∧ (v.core c).due = s.cyc + max o.dur 1 ∧ (v.core c).next = (afterIssue o.addr (s.core c).loops 5).1 ∧
      (v.core c).loops = (afterIssue o.addr (s.core c).loops 5).2 ∧
      (v.core c).windows = ((s.core c).grant i.windows s.cyc o.addr).windows ∧ (v.core c).scratch = (s.core c).scratch ∧
      (v.core c).cnts = (s.core c).cnts ∧ (v.core c).stock = (s.core c).stock ∧ (∀ d, d ≠ c → v.core d = s.core d) ∧ v.xfers = s.xfers) ∧
    (o.opc = 0x01 → goes (.matmul c)) ∧ (o.opc = 0x02 → goes (.matvec c)) ∧
    (o.opc = 0x03 → bit o.var 0 = false → goes (.attendMaxPhase c)) ∧ (o.opc = 0x03 → bit o.var 0 = true → goes (.attendSumPhase c)) ∧
    (o.opc = 0x04 → o.var % 8 = 0 → goes (.rowsum c)) ∧ (o.opc = 0x04 → o.var % 8 = 1 → goes (.rowsq c)) ∧
    (o.opc = 0x04 → o.var % 8 = 3 → goes (.stockStore c)) ∧ (o.opc = 0x04 → o.var % 8 = 4 → goes (.stockAdd c)) ∧
    (o.opc = 0x05 → goes (.drain c)) ∧ (o.opc = 0x10 → goes (.whisk c)) ∧ (o.opc = 0x11 → goes (.layout c)) ∧
    (o.opc = 0x12 → goes (.convert c)) ∧ (o.opc = 0x13 → goes (.random c)) ∧ (o.opc = 0x14 → goes (.tagfill c)) ∧
    (o.opc = 0x04 → o.var % 8 = 2 → goes (.stockSend c)) ∧ (o.opc = 0x20 → goes (.load c)) ∧ (o.opc = 0x21 → goes (.store c)) ∧
    (o.opc = 0x22 → goes (.gather c)) ∧ (o.opc = 0x23 → goes (.scatter c)) ∧ (o.opc = 0x24 → goes (.send c)) ∧
    (o.opc = 0x25 → bit o.var 0 = false → goes (.ticketClaim c)) ∧ (o.opc = 0x25 → bit o.var 0 = true → goes (.ticketRead c)) ∧
    (o.opc = 0x26 → goes (.loadprog c)) ∧
    (o.opc = 0x30 → goes (.wait c)) ∧
    (o.opc = 0x31 → o.var = 0 → goes (.signalPlain c)) ∧ (o.opc = 0x31 → o.var = 1 → goes (.signalOpen c)) ∧
    (o.opc = 0x31 → o.var = 2 → goes (.signalClose c)) ∧ (o.opc = 0x32 → goes (.loop c)) ∧
    (o.opc = 0x3F → goes (.halt c) ∧
      Leads (exec (.halt c) s) fun t => (t.core c).running = false ∧ (t.core c).cycle = s.cyc - (s.core c).startCyc + 1 ∧
        (t.core c).halting = some (s.coreNow, o.addr)) ∧
    (o.opc = 0x30 → o.sigs = [] → o.trace = false → Leads (exec (.wait c) s) fun t =>
      (t.core c).due = s.cyc + max o.dur 1 ∧ (t.core c).next = (afterIssue o.addr (s.core c).loops 5).1 ∧
      (t.core c).loops = (afterIssue o.addr (s.core c).loops 5).2 ∧ (t.core c).scratch = (s.core c).scratch ∧
      (t.core c).cnts = (s.core c).cnts ∧ (t.core c).stock = (s.core c).stock ∧ (t.core c).pend = (s.core c).pend ∧
      (∀ d, d ≠ c → t.core d = s.core d) ∧ t.mem = s.mem ∧ t.xfers = s.xfers ∧ t.sigs = s.sigs ∧ t.host = s.host ∧ t.err = s.err)

/-- A core that is hedged or in micro mode, or whose die has had a slip of its bridge and has not been trained since, issues no op (spec/01
R41; spec/09 R231; spec/03 R99), and an op issues in no cycle before that in which it is due (spec/03 R92). How the model answers an issue
command then is its own choice: one for an op not yet due, or that the station has looked at in this cycle already, changes nothing (n1), and
one for a core that issues nothing is refused (n5). -/
def Obligations.NoIssue : Prop :=
  ∀ (s : State) (c : Nat),
    ∀ x ∈ [Instr.matmul c, .matvec c, .attendMaxPhase c, .attendSumPhase c, .rowsum c, .rowsq c, .stockSend c, .stockStore c, .stockAdd c,
      .drain c, .whisk c, .layout c, .convert c, .random c, .tagfill c, .load c, .store c, .gather c, .scatter c, .send c, .ticketClaim c,
      .ticketRead c, .loadprog c, .wait c, .signalPlain c, .signalOpen c, .signalClose c, .loop c, .halt c, .illegalOp c],
      (s.issuing c = true → s.cyc < (s.core c).due ∨ (s.core c).tried = s.cyc + 1 → exec x s = .next s) ∧
      (s.coreHedged c = true ∨ (s.core c).micro.on = true ∨ s.slipped (s.dieOf c) = true → ∃ m, exec x s = .refused (.notEnabled m))

/-- An illegal op is counted in CORE_ILLEGAL with its op address and reason, and skipped once its waits pass: the next op is due max(DUR, 1)
cycles later, and no counter, scratchpad byte or stockpot element changes (spec/06 R158, R161). While a wait holds it, it stays where it
is, counted once (R158). -/
def Obligations.IllegalOpIsSkipped : Prop :=
  ∀ (s : State) (c r : Nat),
    let o := (s.core c).nextOp
    let kept (t : State) : Prop := (t.core c).running = true ∧ (t.core c).scratch = (s.core c).scratch ∧ (t.core c).cnts = (s.core c).cnts ∧
      (t.core c).stock = (s.core c).stock ∧ (t.core c).pend = (s.core c).pend ∧ (∀ d, d ≠ c → t.core d = s.core d) ∧ t.xfers = s.xfers ∧
      t.sigs = s.sigs
    (s.dueIllegal c r = true → (s.core c).illCount + 1 < 2 ^ 32 →
      Leads (exec (.illegalOp c) s) fun t => kept t ∧
        (t.core c).illCount = (s.core c).illCount + 1 ∧ (t.core c).illOp = o.addr ∧ (t.core c).illReason = r ∧
        (t.core c).due = s.cyc + max o.dur 1) ∧
    (s.offered c = true → (s.core c).blockValid (s.core c).next = true → (s.core c).illDue = true →
      ((s.look c).core c).waits o s.cyc s.coreNow = .held →
      Leads (exec (.illegalOp c) s) fun t => kept t ∧ (t.core c).illCount = (s.core c).illCount ∧ (t.core c).next = (s.core c).next ∧
        (t.core c).due = (s.core c).due ∧ (t.core c).illDue = true)

/-- What an increment does at a counter of a core whose partition has a run (spec/12 R297, R299): within CEIL of an open epoch VALUE grows
by it and the core runs on; beyond CEIL, or outside an epoch, VALUE stays and a running core faults, and no later increment of the cycle
changes the counter (R302). -/
def Obligations.IncrementAtCounter : Prop :=
  ∀ (s : State) (c n inc : Nat) (src : IncSrc) (p : Nat), s.runOf c = some p → (s.core c).ringOf n = none →
    let x := (s.core c).cnt n
    let t := s.increment c n inc none src
    (x.barred ≠ s.cyc + 1 → x.isOpen = true → x.value + inc ≤ x.ceil →
      ((t.core c).cnt n).value = x.value + inc ∧ ((t.core c).cnt n).isOpen = true ∧ (t.core c).faulted = (s.core c).faulted ∧
      (∀ m, m ≠ n → (t.core c).cnt m = (s.core c).cnt m) ∧ ∀ d, d ≠ c → t.core d = s.core d) ∧
    (x.barred ≠ s.cyc + 1 → x.isOpen = false ∨ x.ceil < x.value + inc → (s.core c).running = true →
      ((t.core c).cnt n).value = x.value ∧ ((t.core c).cnt n).ceil = x.ceil ∧ ((t.core c).cnt n).isOpen = x.isOpen ∧
      ((t.core c).cnt n).barred = s.cyc + 1 ∧ (t.core c).faulted = true ∧ (t.core c).running = false) ∧
    (x.barred = s.cyc + 1 → t = s)

/-- What is to come at a core: an increment attached to a remote write comes due in the cycle after its bytes have committed (spec/03 R88,
spec/12 R297), so that its counter stands until then; within an epoch it is then added, once (R299). A static-plane beat that meets a row
write in one bank in one cycle faults the core (spec/03 R81). -/
def Obligations.DueAtCore : Prop :=
  ∀ s : State,
    (∀ (i off : Nat) (x : Xfer) (g : Sig), (s.xfer i).any (fun x => x.stage == .accepted && !x.static) = true →
      let u := s.settle
      u.xfer i = some x → x.kind = .store → x.static = false → x.nib = none → u.locate x.dst = .scratch x.dstCore off →
      (u.core x.dstCore).micro.on = false → u.coreHedged x.dstCore = false → x.att = [g] → x.foreign = false →
      Leads (exec (.inboundCommit i) s) fun t =>
        (t.core x.dstCore).scratch = Memory.write (u.core x.dstCore).scratch off x.data ∧
        (t.core x.dstCore).cnts = (u.core x.dstCore).cnts ∧
        (t.core x.dstCore).later = (u.core x.dstCore).later ++
          [(u.cyc + 1, .inc false g.cnt g.inc (if x.err.isSome then x.err else x.attMark) ⟨x.core, u.rankOf x.part, x.opAddr⟩)]) ∧
    (∀ (c p n cnt inc : Nat) (st : Bool) (m : Option Mark) (src : IncSrc), s.coresWith Core.awaits = [c] →
      (s.core c).later = [(n, .inc st cnt inc m src)] → (s.core c).wp0 = [] → (s.core c).wp1 = [] → (s.core c).pend = [] →
      (s.core c).halting = none → s.runOf c = some p → (s.core c).ringOf cnt = none →
      let x := (s.core c).cnt cnt
      let t := s.fallDue
      (s.cyc < n → (t.core c).cnts = (s.core c).cnts ∧ (t.core c).later = (s.core c).later) ∧
      (n ≤ s.cyc → x.barred ≠ s.cyc + 1 → x.isOpen = true → x.value + inc ≤ x.ceil →
        ((t.core c).cnt cnt).value = x.value + inc ∧ (t.core c).later = [])) ∧
    (∀ (c : Nat) (w : Nat × Nat × Nat), (s.core c).clash s.cyc = some w → (s.core c).running = true →
      ((s.watchPorts c).core c).faulted = true ∧ ((s.watchPorts c).core c).running = false)

/-- The events of an issue station: a wait that has outlasted its timeout faults the core (spec/06 R151); an op at its completion point is
done and sends its signals (R153); a drained HALT ends the core's run with its blocks invalid, and one that does not drain within 2 s
faults (spec/08 R226, R227); what arrives for a reclaimed tag is dropped, without a change of the core (R227). Completion points, HALT's end and
its limit take place in their cycle of their own accord, whichever command comes first, once in a cycle (the model's choice, n2). -/
def Obligations.StationEvents : Prop :=
  ∀ (s : State) (c : Nat),
    (∀ (w : Wait) (i : Nat), s.offered c = true → (s.core c).blockValid (s.core c).next = true →
      (s.core c).expired (s.core c).nextOp s.coreNow = some (w, i) →
      Leads (exec (.waitTimeout c) s) fun t => (t.core c).faulted = true ∧ (t.core c).running = false ∧
        ((s.core c).nextOp.waits.findSome? ((s.core c).waitFault (s.core c).nextOp.addr) = none →
          (s.core c).illDue = true ∨ (∃ l, legality (planFor (s.core c).nextOp) (s.look c) c (s.core c).nextOp = .ok l) →
          t = (s.look c).coreFault c (waitTimeout (s.core c) (s.core c).nextOp.addr i w))) ∧
    (∀ o : PendOp, (s.core c).complete s.cyc = some o →
      exec (.opCompletionPoint c) s = .next s.settle ∧
      (s.clk.settled ≠ s.cyc + 1 → (s.core c).micro.on = false → o ∉ (s.settle.core c).pend ∧ (s.settle.core c).complete s.cyc = none) ∧
      (o.sigs = [] → let t := s.completeOp c o
        (t.core c).pend = (s.core c).pend.filter (fun q => q.id != o.id) ∧ (t.core c).cnts = (s.core c).cnts ∧
        ∀ d, d ≠ c → t.core d = s.core d) ∧
      (∀ g : Sig, o.sigs = [g] → g.remote = false →
        s.completeOp c o = ((s.modCore c fun k => { k with pend := k.pend.filter fun q => q.id != o.id }).increment c
          g.cnt g.inc o.mark ⟨c, s.rankOf (s.partNo c), o.opAddr⟩))) ∧
    (∀ h : Nat × Nat, (s.core c).halting = some h →
      (s.drained c = true → exec (.haltDrainComplete c) s = .next (s.settle.tryHalt c)) ∧
      (s.drained c = false → s.haltOver h = true → exec (.cfHaltDrain c) s = .next (s.settle.tryHalt c)) ∧
      (s.drained c = true → (s.core c).haltFault h.2 = none → (s.core c).haltSigs = [] →
        let t := s.tryHalt c
        (t.core c).halted = true ∧ (t.core c).halting = none ∧ (t.core c).pvalid = 0 ∧ (t.core c).dvalid = 0 ∧
        (∀ d, d ≠ c → t.core d = s.core d)) ∧
      (s.drained c = false → h.1 + 2000000000 ≤ s.coreNow →
        let t := s.tryHalt c
        (t.core c).faulted = true ∧ (t.core c).halting = none ∧ ∀ y ∈ t.xfers, y.core = c → y.foreign = false → y.tag = none)) ∧
    (∀ (tag : Nat) (x : Xfer), s.xfers.find? (fun x => x.core == c && !x.foreign && x.late == some tag) = some x →
      Leads (exec (.lgLateCompletion c tag) s) fun t => t.xfers = s.xfers.filter (fun y => y.id != x.id) ∧ t.cores = s.cores)

/-! ## Ops of the row (spec/04, spec/07, spec/08) -/

/-- MATMUL adds to each element of its rows the products of a row of A and a column of the panel, over the K indices it names, within the
run-time extents (spec/07 R177, R178, R180; spec/04 R108); with OPEN its rows are opened first, with the L of each element (spec/02 R61;
spec/04 R111, R116); so it does where no product breaches an anchor. Other rows and the scratchpad stay. Where every row, every column or
every K index is masked it adds and opens nothing (spec/10 R257). The L of a row opened beyond the rows of A is free (n4). -/
def Obligations.MatmulSums : Prop :=
  ∀ (s : State) (c : Nat) (i : Issue) (a w : Desc), s.dueIssue c = some i →
    let k := s.core c
    let o := k.nextOp
    o.opc = 0x01 → k.refs o 2 [] = .ok [a, w] →
    let srow := o.fld 9 0
    let mc := o.fld 20 10
    let k0 := o.fld 52 29
    let mode := accModeOf a.fmt a.scaleV
    let nb := ceilDiv (o.fld 108 77) mode.block
    let n := min (o.fld 28 21) (dim (k.rt w) 0)
    let kEnd := min (k0 + o.fld 76 53) (dim (k.rt a) 0)
    let live (r : Nat) : Bool := decide (r < a.rows) && rowLive a (k.rt a) (a.rowIdx r)
    let ks (r j : Nat) : List Nat := if live r && decide (j < n) then span k0 kEnd else []
    let x (r kk : Nat) := a.elem k.scratch (a.rowIdx r) kk
    let y (j kk : Nat) := w.panel k.scratch kk j
    let start (r j : Nat) : Elem :=
      if bit o.var 0 then
        openElem (if mode ≠ .exact ∧ a.rows ≤ r then (Config.unusedL (128 * (srow + r) + j)).toInt
          else openL a.fmt mode nb (a.planeByte k mode r) (w.panelByte k mode nb j))
      else k.elem (srow + r) j
    let masked : Prop := (∀ r, r < mc → live r = false) ∨ n = 0 ∨ kEnd ≤ k0
    (masked → Leads (exec (.matmul c) s) fun t =>
      s.RowOp t c ∧ (t.core c).scratch = k.scratch ∧ (t.core c).stock = k.stock ∧ (t.core c).rows = k.rows) ∧
    (¬ masked → (∀ r j, r < mc → j < 128 → keepsAnchor mode (start r j) (ks r j) (x r) (y j)) →
      Leads (exec (.matmul c) s) fun t => s.RowOp t c ∧ (t.core c).scratch = k.scratch ∧ k.sameRows (t.core c) srow mc ∧
        (∀ r j, r < mc → j < 128 → (t.core c).elem (srow + r) j = sumOf (start r j) (ks r j) (x r) (y j)) ∧
        (∀ r, r < mc → (t.core c).row (srow + r) =
          if bit o.var 0 then ⟨true, mode.code, a.fmt.code, o.addr, 0⟩ else k.row (srow + r)))

/-- MATVEC waits for its vectors, which the MVU port FIFO brings (spec/04 R118), as a job of its core; until then only its rows open (n15).
With the vectors in the hold it adds to each element of its rows the products of a vector and a column of the panel, over the K indices it
names, within the run-time extents (spec/07 R178, R183; spec/04 R117, R119); with OPEN its rows are opened first, with the L of each element
(spec/04 R111, R120); so it does where no product breaches an anchor. Other rows stay. A masked one does nothing (spec/10 R257). -/
def Obligations.MatvecSums : Prop :=
  (∀ (s : State) (c : Nat) (i : Issue) (w : Desc) (ds : List Desc), s.dueIssue c = some i →
    let k := s.core c
    let o := k.nextOp
    o.opc = 0x02 → k.refs o o.nd [] = .ok (w :: ds) →
    ∃ f, let a := k.matvecArgs o w (ds.getD 0 planMatmul.default_desc) f s.cyc
      let rows := a.vc * ceilDiv a.nc 128
      Leads (exec (.matvec c) s) fun t => s.RowOp t c ∧ (t.core c).scratch = k.scratch ∧
        (a.n = 0 ∨ a.kEnd ≤ a.k0 → (t.core c).jobs = k.jobs ∧ (t.core c).stock = k.stock ∧ (t.core c).rows = k.rows) ∧
        (0 < a.n → a.k0 < a.kEnd → (∃ due, (t.core c).jobs = k.jobs ++ [⟨0, o.addr, due, [], .matvec a⟩]) ∧
          k.sameRows (t.core c) a.srow rows ∧ (a.isOpen = false → (t.core c).stock = k.stock ∧ (t.core c).rows = k.rows) ∧
          (a.isOpen = true → ∀ r, r < rows → ((t.core c).row (a.srow + r)).isOpen = true))) ∧
  (∀ (k x : Core) (o : Op) (w pl : Desc) (f cyc : Nat) (tp : Bool),
    let a := k.matvecArgs o w pl f cyc
    let mode := accModeOf w.fmt w.scaleV
    let tiles := ceilDiv a.nc 128
    let row (v i : Nat) : Nat := a.srow + (a.vc * i + v)
    let ks (i j : Nat) : List Nat := if 128 * i + j < a.n then span a.k0 a.kEnd else []
    let u (v kk : Nat) := x.vecElem w.fmt w.scaleV a.ko v (kk - a.k0)
    let y (i j kk : Nat) := w.panel x.scratch kk (128 * i + j)
    let start (v i j : Nat) : Elem := if a.isOpen then openElem (a.openL x (a.vc * i + v) j) else x.elem (row v i) j
    (a.isOpen = false → ∀ r, r < a.vc * tiles → (x.row (a.srow + r)).mode = mode.code) →
    (∀ v i j, v < a.vc → i < tiles → j < 128 → keepsAnchor mode (start v i j) (ks i j) (u v) (y i j)) →
    let t := a.run tp x
    t.scratch = x.scratch ∧ x.sameRows t a.srow (a.vc * tiles) ∧
    (∀ v i j, v < a.vc → i < tiles → j < 128 → t.elem (row v i) j = sumOf (start v i j) (ks i j) (u v) (y i j)) ∧
    (a.isOpen = true → ∀ r, r < a.vc * tiles → t.row (a.srow + r) = ⟨true, mode.code, w.fmt.code, o.addr, 1⟩))

/-- The row variants of REDUCE. ROWSUM adds the elements of each row of its tensor, times 1, and ROWSQ their squares, into one element of the
stockpot (spec/07 R194, R195), opened first where OPEN is set (spec/04 R111); so they do where no product breaches an anchor. STOCK_STORE writes
its rows as stock words, 2,560 bytes a row, and STOCK_ADD adds such words, where no anchor differs (R196; spec/02 R66, R68). Other rows and
bytes stay. The L of an element opened for no row of the tensor is free (n4). -/
def Obligations.RowReductions : Prop :=
  ∀ (s : State) (c : Nat) (i : Issue) (d : Desc), s.dueIssue c = some i →
    let k := s.core c
    let o := k.nextOp
    o.opc = 0x04 →
    (∀ sq : Bool, o.var % 8 = (if sq then 1 else 0) → k.refs o 1 [] = .ok [d] →
      let x : Instr := if sq then .rowsq c else .rowsum c
      let srow := o.fld 9 0
      let mrc := o.fld 27 10
      let nr := ceilDiv mrc 128
      let rt := k.rt d
      let mode := accModeOf d.fmt false
      let isOpen := bit o.var 3
      let live (r : Nat) : Bool := decide (r < min mrc d.rows) && rowLive d rt (d.rowIdx r)
      let ks (r : Nat) : List Nat := if live r then List.range (min (o.fld 51 28) (dim rt 0)) else []
      let e (r j : Nat) := d.elem k.scratch (d.rowIdx r) j
      let y (r j : Nat) : Dec × Arith := if sq then e r j else (oneDec, {})
      let start (r : Nat) : Elem :=
        if isOpen then
          openElem (if mode = .anchored ∧ min mrc d.rows ≤ r then (Config.unusedL (128 * srow + r)).toInt
            else openL d.fmt mode (ceilDiv (o.fld 51 28) 64) (d.planeByte k mode r)
              (if sq then d.planeByte k mode r else fun _ => tagOne d.fmt))
        else k.elem (srow + r / 128) (r % 128)
      (((rt.take d.rank).drop 1).any (· == 0) = true →
        Leads (exec x s) fun t => s.ScratchOp t c ∧ (t.core c).scratch = k.scratch) ∧
      (((rt.take d.rank).drop 1).any (· == 0) = false →
        (∀ r, r < 128 * nr → keepsAnchor mode (start r) (ks r) (e r) (y r)) →
        Leads (exec x s) fun t => s.RowOp t c ∧ (t.core c).scratch = k.scratch ∧ k.sameRows (t.core c) srow nr ∧
          (∀ r, r < 128 * nr → (t.core c).elem (srow + r / 128) (r % 128) = sumOf (start r) (ks r) (e r) (y r)) ∧
          (∀ q, q < nr → (t.core c).row (srow + q) =
            if isOpen then ⟨true, mode.code, d.fmt.code, o.addr, 1⟩ else k.row (srow + q)))) ∧
    (k.ref o 0 false = .ok d →
      let srow := o.fld 9 0
      let rows := o.fld 20 10
      let at_ (r : Nat) : Nat := d.base + 2560 * r
      (o.var % 8 = 3 →
        Leads (exec (.stockStore c) s) fun t => s.ScratchOp t c ∧
          (∀ r, r < rows → Memory.read (t.core c).scratch (at_ r) 2560 = k.stockRow (srow + r)) ∧
          ∀ b, b < d.base ∨ at_ rows ≤ b → Memory.get (t.core c).scratch b = Memory.get k.scratch b) ∧
      (o.var % 8 = 4 →
        let w (r j : Nat) : StockWord := (wordsOf (Memory.read k.scratch (at_ r) 2560)).getD j ⟨0, 0⟩
        let start (r j : Nat) : Elem :=
          if bit o.var 3 then openElem (if (w r j).special.isSome then 0 else (w r j).anchor.toInt) else k.elem (srow + r) j
        (∀ r j, r < rows → j < 128 → (w r j).clashes (start r j) = false) →
        Leads (exec (.stockAdd c) s) fun t => s.RowOp t c ∧ (t.core c).scratch = k.scratch ∧ k.sameRows (t.core c) srow rows ∧
          (∀ r j, r < rows → j < 128 → (t.core c).elem (srow + r) j = addStockWord (start r j) (w r j)) ∧
          (∀ r, r < rows → ((t.core c).row (srow + r)).isOpen = true)))

/-- ATTEND. The max phase leaves in STATS the maximum of each query row over its visible keys, and for each column of the values the largest
tag that its keys' blocks bear, and closes its score buffers (spec/07 R187, R189). The sum phase adds to each output element the products of
the row's exponentials and the values of its visible keys, and to the row's sum the exponentials themselves (R190), in rows that it opens where
OPEN is set (R186, R190). Both where no product breaches an anchor, and the sum phase where its P rows lie apart from what it reads. Other rows and
bytes stay (R187). -/
def Obligations.AttentionPhases : Prop :=
  ∀ (s : State) (c : Nat) (i : Issue) (q kp vp st : Desc), s.dueIssue c = some i →
    let k := s.core c
    let o := k.nextOp
    o.opc = 0x03 → k.refs o 4 [] = .ok [q, kp, vp, st] →
    let a := k.attendArgs o q kp vp st
    let f := q.fmt
    let anchored := a.mode == .anchored
    let seen (r : Nat) : List Nat := (List.range a.nkc).filter (a.visible r)
    (∀ r ∈ a.rows, ∀ j ∈ seen r, (a.sacc k r j).breach = none) →
    (bit o.var 0 = false → a.rows ≠ [] → st.planesApart →
      Leads (exec (.attendMaxPhase c) s) fun t => s.RowOp t c ∧ k.sameRows (t.core c) a.srow (2 * a.mc) ∧
        (∀ r, r < 2 * a.mc → ((t.core c).row (a.srow + r)).isOpen = false) ∧
        (∀ r ∈ a.rows, a.stat (t.core c) r = (a.rowMax k r).1) ∧
        (∀ n, n < a.dv →
          let v0 := if a.isOpen then 0 else (tagOfStat (a.stat k (128 + n))).1
          let vt := (List.range (ceilDiv a.nk 64)).foldl (fun m b => max m (vp.panelByte k .anchored 0 n b)) v0
          a.stat (t.core c) (128 + n) = (encode .fp32 ⟨.finite, false, vt, 0⟩ .rne).1) ∧
        st.keepsRest k.scratch (t.core c).scratch) ∧
    (bit o.var 0 = true → a.rows ≠ [] →
      (∀ h ∈ q.hulls ++ kp.panelHulls (if anchored then a.nb else ceilDiv (dim kp.ext 1) 64) ++
        vp.panelHulls (ceilDiv (dim vp.ext 1) 64) ++ st.hulls, overlap (512 * a.pline, 1024 * a.mc) h = false) →
      let p (r j : Nat) : Dec × Arith := decodeA f (a.expo k r j).1
      let v (n j : Nat) := vp.panel k.scratch j n
      let ks (r n : Nat) : List Nat := if a.rows.contains r && decide (n < a.dv) then seen r else []
      let one (_ : Nat) : Dec × Arith := (oneDec, {})
      let start (r n : Nat) : Elem :=
        if a.isOpen then openElem (if anchored then anchoredL f (1 + tagOne f + (tagOfStat (a.stat k (128 + n))).1) else exactL f)
        else k.elem (a.srow + r) n
      let start1 (r : Nat) : Elem :=
        if a.isOpen then openElem (if anchored then anchoredL f (1 + 2 * tagOne f) else exactL f) else k.elem (a.srow + a.mc) r
      let ks1 (r : Nat) : List Nat := if a.rows.contains r then seen r else []
      (∀ r n, r < a.mc → n < 128 → keepsAnchor a.mode (start r n) (ks r n) (p r) (v n)) →
      (∀ r, r < 128 → keepsAnchor a.mode (start1 r) (ks1 r) (p r) one) →
      Leads (exec (.attendSumPhase c) s) fun t => s.RowOp t c ∧ k.sameRows (t.core c) a.srow (3 * a.mc + 1) ∧
        (∀ r n, r < a.mc → n < 128 → (t.core c).elem (a.srow + r) n = sumOf (start r n) (ks r n) (p r) (v n)) ∧
        (∀ r, r < 128 → (t.core c).elem (a.srow + a.mc) r = sumOf (start1 r) (ks1 r) (p r) one) ∧
        (∀ r, r < 2 * a.mc → ((t.core c).row (a.srow + a.mc + 1 + r)).isOpen = false) ∧
        ∀ b, b < 512 * a.pline ∨ 512 * a.pline + 1024 * a.mc ≤ b → Memory.get (t.core c).scratch b = Memory.get k.scratch b)

/-- The ops that write a tensor element by element. DRAIN writes the elements of open rows, rounded once, normalized by the row's sum, or after a
whisk program (spec/07 R199, R200); an element that it only rounds is the drained value of spec/02 R67. WHISK writes the results of its
program (spec/08 R204; spec/05 R137), CONVERT its source in another format (spec/08 R207), RANDOM its random values or the elements it keeps
(R208), each with the tags and scales of what it writes (spec/05 R133), in the elements within the run-time extents (spec/10 R254); TAGFILL
the tags of a tensor alone (spec/08 R209). A WHISK or CONVERT that a port FIFO feeds waits for its beats as a job, which does the same with
these. Other bytes and the stockpot stay. They are so where the planes of the tensor written lie apart. -/
def Obligations.ElementOps : Prop :=
  ∀ (s : State) (c : Nat) (i : Issue), s.dueIssue c = some i →
    let k := s.core c
    let o := k.nextOp
    let does (x : Instr) (P : Core → Prop) : Prop := Leads (exec x s) fun t => s.ScratchOp t c ∧ P (t.core c)
    let dd := planMatmul.default_desc
    (∀ d prog, o.opc = 0x05 → k.ref o 0 = .ok d → d.planesApart →
      (if o.var % 4 = 1 then (k.whiskBlock o (o.fld 74 51) (dim d.ext 0) d.rows).map some else .ok none) = .ok prog →
      let srow := o.fld 9 0
      let rows := o.fld 20 10
      let vecs := o.fld 48 45
      let rt := k.rt d
      let n := min (o.fld 44 21) (dim rt 0)
      let mode := o.rounding 50 49
      let x (r : Nat × List Nat) (j : Nat) : Elem := k.elem (srow + vecs * (j / 128) + r.1) (j % 128)
      let val (r : Nat × List Nat) (j : Nat) :=
        drainValue (o.var % 4) d.fmt mode prog k.scratch (x r j) (k.elem (srow + rows) (r.1 % 128)) j r.1 (d.logical rt j r.2) o.addr
      does (.drain c) fun t => d.keepsRest k.scratch t.scratch ∧
        ∀ r ∈ d.liveRows rt, r.1 < (if vecs = 0 then rows else vecs) →
          d.rowHolds t.scratch r.2 ((List.range n).map fun j => (val r j).1) mode ∧
          (o.var % 4 = 0 → d.scaleV = false → ∀ j, j < n →
            loadElem t.scratch d.fmt (d.rowAddr r.2) j = (drainElem d.fmt (x r j) mode).1)) ∧
    (∀ ds w seed, o.opc = 0x10 → k.refs o o.nd [0] = .ok ds →
      k.whiskBlock o (o.fld 23 0) (dim (ds.getD 0 dd).ext 0) (ds.getD 0 dd).rows = .ok w →
      (if w.random then k.seed (o.fld 66 56) else .ok 0) = .ok seed →
      let a := k.whiskArgs o ds w seed
      a.out.planesApart →
      (w.fifo = false → does (.whisk c) fun t => a.Done [] k.scratch t.scratch) ∧
      (w.fifo = true → a.out.masked a.rt = false → does (.whisk c) fun t => t.scratch = k.scratch ∧
        ∃ due, t.jobs = k.jobs ++ [⟨1, o.addr, due, [], .whisk a⟩]) ∧
      ∀ fifo x, a.Done fifo x.scratch (a.run fifo x).scratch) ∧
    (∀ src dst ctl, o.opc = 0x12 → k.refs o 2 [1] = .ok [src, dst] → LCtl.parse (o.fld 31 0) = .ok ctl →
      let a := k.convertArgs o src dst ctl
      tableOk a.tab = true → dst.planesApart →
      (ctl.fifo = false → does (.convert c) fun t => a.Done [] k.scratch t.scratch) ∧
      (ctl.fifo = true → dst.masked (k.rt dst) = false → does (.convert c) fun t => t.scratch = k.scratch ∧
        ∃ due, t.jobs = k.jobs ++ [⟨2, o.addr, due, [], .convert a⟩]) ∧
      ∀ fifo x, a.Done fifo x.scratch (a.run fifo x).scratch) ∧
    (∀ ds seed, o.opc = 0x13 → k.refs o o.nd [0] = .ok ds → k.seed (o.fld 10 0) = .ok seed →
      let d := ds.getD 0 dd
      let live := k.least ds
      let mode := (Rnd.ofCode (o.var / 8 % 4)).getD .rne
      d.planesApart →
      does (.random c) fun t => d.keepsRest k.scratch t.scratch ∧
        d.holds t.scratch live (dim live 0) (fun r i =>
          randomValue (o.var % 8) d.fmt mode (keyedRandom seed (o.fld 42 11) (d.logical (k.rt d) i r.2)).toNat (o.fld 74 43) (o.fld 106 75)
            (if o.nd = 2 then widen ((ds.getD 1 dd).elem k.scratch r.2 i) else (0, {}))) mode) ∧
    (∀ d, o.opc = 0x14 → k.refs o 1 [] = .ok [d] →
      does (.tagfill c) fun t =>
        (∀ r ∈ d.liveRows (k.rt d), Memory.read t.scratch (d.tagPtr + r.1 * ceilDiv (dim d.ext 0) 64) (ceilDiv (dim (k.rt d) 0) 64) =
          rowTags d.fmt (loadRow k.scratch d.fmt (d.rowAddr r.2) (dim (k.rt d) 0))) ∧
        ∀ b, b < d.tagPtr ∨ d.tagPtr + d.tagLen ≤ b → Memory.get t.scratch b = Memory.get k.scratch b)

/-- LAYOUT moves elements as bits. PASS leaves the source's elements in the destination, and zeros for those that are masked in the source alone
(spec/05 R122, R123; spec/08 R205; spec/10 R254); TRANSPOSE leaves element j of row i as element i of row j, within the run-time extents
of its plan and its tensors (spec/05 R126; spec/10 R261, R262). Of a destination that is fully masked nothing is written, and other bytes stay.
One that the layout port FIFO feeds waits for its beats as a job. The clauses for PASS and TRANSPOSE are about tensors of the op's width. -/
def Obligations.LayoutOps : Prop :=
  ∀ (s : State) (c : Nat) (i : Issue) (src dst : Desc) (ctl : LCtl) (plan : Option Plan), s.dueIssue c = some i →
    let k := s.core c
    let o := k.nextOp
    o.opc = 0x11 → k.refs o 2 (if o.fld 2 0 = 3 then [] else [1]) = .ok [src, dst] → LCtl.parse (o.fld 31 0) = .ok ctl →
    (if o.nd = 3 then (Plan.parse (Memory.read k.dtable (64 * o.drefs.getD 2 0) 64)).map some else .ok none) = .ok plan →
    let a := k.layoutArgs o src dst plan ctl
    let rest (t : Core) : Prop :=
      ∀ b, b < dst.base ∨ dst.base + dst.span ≤ b → Memory.get t.scratch b = Memory.get k.scratch b
    tableOk a.tab = true →
    Leads (exec (.layout c) s) fun t => s.ScratchOp t c ∧
      (dst.masked a.drt = true → (t.core c).scratch = k.scratch ∧ (t.core c).jobs = k.jobs) ∧
      (dst.masked a.drt = false → ctl.fifo = true → (t.core c).scratch = k.scratch ∧
        ∃ due, (t.core c).jobs = k.jobs ++ [⟨2, o.addr, due, [], .layout a⟩]) ∧
      (dst.masked a.drt = false → ctl.fifo = false → (t.core c).scratch = (a.run [] k).scratch ∧
        (ctl.mode = 0 → src.fmt = dst.fmt → src.ext = dst.ext → rest (t.core c) ∧
          ∀ r ∈ dst.liveRows a.drt, ∀ j, j < dim a.drt 0 → loadElem (t.core c).scratch dst.fmt (dst.rowAddr r.2) j =
            if rowLive src a.srt r.2 && decide (j < dim a.srt 0) then loadElem k.scratch src.fmt (src.rowAddr r.2) j else 0) ∧
        (∀ p, ctl.mode = 2 → plan = some p → src.fmt.width = widthBits ctl.width → dst.fmt.width = widthBits ctl.width →
          let ts := p.tiles ctl k.shape src
          rest (t.core c) ∧
          ∀ x y, ts.ek ≠ 0 → y < dst.rows → rowLive dst a.drt (dst.rowIdx y) = true → y < min ts.en (dim a.srt 0) →
            x < min src.rows (min ts.em (dim a.drt 0)) → rowLive src a.srt (src.rowIdx x) = true →
            loadElem (t.core c).scratch dst.fmt (dst.rowAddr (dst.rowIdx y)) x =
              loadElem k.scratch src.fmt (src.rowAddr (src.rowIdx x)) y))

/-! ## Transfers (spec/08 R210 to R222, spec/11 R284 to R293) -/

/-- A partition address is translated exactly where its segment is valid, the whole range lies within it and the right is granted, and then to
BASE plus the offset. A LOAD whose source, or a STORE whose destination, fails that check raises CF_SEGMENT_RANGE as it issues: its core stops,
nothing is queued and no byte moves (spec/01 R35; spec/08 R213). -/
def Obligations.SegmentAccess : Prop :=
  ∀ (s : State),
    (∀ p a len right m, s.translate p a len right = some m ↔
      let g := s.seg p (a / 2 ^ 38 % 64)
      g.v = true ∧ a % 2 ^ 38 + len ≤ (g.limit + 1) * 4096 ∧ m = g.base + a % 2 ^ 38 ∧
        (right = .rd → g.rd = true) ∧ (right = .wr → g.wr = true) ∧ (right = .pl → g.pl = true) ∧ (right = .rm → g.rm = true)) ∧
    ∀ (c : Nat) (src dst : Desc) (l : Legal), s.clear c = true →
      let u := s.look c
      let o := (s.core c).nextOp
      let faults (i : Instr) (r : LogRec → Prop) : Prop := Leads (exec i s) fun t =>
        (t.core c).faulted = true ∧ (t.core c).running = false ∧ (t.core c).scratch = (s.core c).scratch ∧
        (∀ d, d ≠ c → t.core d = s.core d) ∧ t.mem = s.mem ∧ (∀ y ∈ t.xfers, ∃ x ∈ s.xfers, x.id = y.id) ∧ t.sigs = s.sigs ∧
        ∃ e : LogRec, t.err.transit = s.err.transit ++ [e] ∧ e.domain = 0 ∧ e.index = c ∧ e.code = 0x0E ∧ r e
      (u.core c).refs o 2 [1] = .ok [src, dst] → l.tags ≤ (u.freeTags c).length →
        (o.opc = 0x20 → legality planLoad u c o = .ok l → s.translate (s.partNo c) src.base src.span .rd = none →
          faults (.load c) fun e => e.ctx.drop 12 = (segFault o.addr src.base src.span .rd).fields) ∧
        (o.opc = 0x21 → legality planStore u c o = .ok l → s.translate (s.partNo c) dst.base dst.span .wr = none →
          faults (.store c) fun _ => True)

/-- A core's oldest waiting transfer launches where its tag, its tokens and its order allow: it holds a tag from then on, takes its tokens
from the core's and the partition's buckets, and its queue launches no other in the cycle. Where they do not allow it, it stays where it is
(spec/11 R284, R285; spec/08 R210). -/
def Obligations.TransferLaunches : Prop :=
  ∀ (s : State) (c : Nat) (x : Xfer), s.oldest c = some x →
    (s.mayLaunch x = false → exec (.transferLaunch c) s = .next s) ∧
    (s.mayLaunch x = true → exec (.transferLaunch c) s = .next (s.launch x)) ∧
    (s.mayLaunch x = true → x.xrank = none →
      let t := s.launch x
      (∀ y ∈ t.xfers, y.id = x.id → y.stage = .launched ∧ y.launch = s.coreStamp ∧ (x.tagless = false → y.tag.isSome = true)) ∧
      t.xfers.filter (fun y => y.id != x.id) = s.xfers.filter (fun y => y.id != x.id) ∧
      ((s.core c).rateNow ≠ 0 → (t.core c).tokens = (s.core c).tokens - x.counted) ∧
      ((s.core c).rateNow = 0 → (t.core c).tokens = (s.core c).tokens) ∧
      ((t.part x.part).bucket (s.dieOf c)).2 = ((s.part x.part).bucket (s.dieOf c)).2 - x.counted ∧
      (∀ y, y.core = c → y.queue = x.queue → t.mayLaunch y = false) ∧ t.mem = s.mem)

/-- A remote write into memory is accepted exactly where its window stands open at its copy, is of its epoch, is not past the write's age
limit, and covers every byte of data and tags (spec/11 R289, R292). A window that is open stands open at every copy, as WINDOW_OPEN changes
them all in the step that accepts it (the model's choice, n10). Where it is not, the write is refused with the reason, the refusal counted, and no
core and no byte of memory but a trace buffer's changes (R293). -/
def Obligations.WindowWriteChecked : Prop :=
  ∀ (s : State) (i : Nat) (x : Xfer), s.xfer i = some x → x.arriving = true → x.remote = true →
    (x.kind = .store ∨ x.kind = .scatter) → s.inMemory x.dst = true →
    let w := s.window x.part x.win
    (s.windowCheck x = 0 ↔ w.shows (s.dieAt x.dst) s.ns = true ∧ w.epoch = x.epoch ∧
      (s.now % 2 ^ 32 + 2 ^ 32 - x.launch % 2 ^ 32) % 2 ^ 32 ≤ 1000000 ∧ w.covers x.dst x.data.length = true ∧
      ∀ t ∈ x.tags, w.covers t.dst 1 = true) ∧
    (w.isOpen = true → w.shows (s.dieAt x.dst) s.ns = true) ∧
    (s.windowCheck x = 0 → exec (.memoryWindowWrite i) s = .next (s.modXfer i fun y => { y with stage := .accepted })) ∧
    (s.windowCheck x ≠ 0 →
      Leads (exec (.memoryWindowWrite i) s) fun t =>
        (∀ y ∈ t.xfers, y.id = i → y.stage = .refused ∧ y.reason = s.windowCheck x) ∧
        (t.window x.part x.win).refusals = satAdd 32 w.refusals 1 ∧
        (t.window x.part x.win).isOpen = w.isOpen ∧ (t.window x.part x.win).epoch = w.epoch ∧
        ((s.part x.part).run.trace = none → t.mem = s.mem) ∧ t.cores = s.cores)

/-- A remote write's header at the owning core comes after what its cycle holds already (spec/03 R89); one of the static plane takes place
in its cycle (spec/01 R22), so that its command brings what the cycle holds and no more (the model's choice, n1, n2). A window that refuses a write sends it back with the reason, and counts it (spec/11 R288, R293); one that takes
it registers an inbound entry of the range tracker (spec/03 R87), and the cycles of its beats where it comes over the static plane. A row of
stock words adds its words to the row it names (spec/07 R198). -/
def Obligations.RemoteWriteAtCore : Prop :=
  ∀ (s : State) (x : Xfer),
    (∀ i, s.inFlight s.writesCore i = some x →
      (x.static = true → exec (.remoteWriteHeader i) s = .next s.settle) ∧
      (x.static = false → exec (.remoteWriteHeader i) s = .next (s.settle.writeHeader x))) ∧
    (x.lost = false → (x.static = false ∨ (s.core x.dstCore).micro.on = false) → x.kind ≠ .stockRow →
      (s.scratchWindow x.dstCore x = 0 → x.data ≠ [] →
        ∀ (off : Nat) (u : State), s.locate x.dst = .scratch x.dstCore off →
          s.header x.dstCore x.id (s.window x.part x.win).slot (s.inboundRange x) = .ok u →
          s.writeHeader x = (u.noteBeats x.dstCore off 32 x).modXfer x.id fun y => { y with stage := .accepted }) ∧
      (s.scratchWindow x.dstCore x ≠ 0 →
        let t := s.writeHeader x
        (∀ y ∈ t.xfers, y.id = x.id → y.stage = .refused ∧ y.reason = s.scratchWindow x.dstCore x) ∧
        (t.window x.part x.win).refusals = satAdd 32 (s.window x.part x.win).refusals 1 ∧ t.cores = s.cores)) ∧
    (∀ i, s.xfer i = some x → x.stage = .accepted → x.kind = .stockRow → (s.core x.dstCore).micro.on = false →
      s.coreHedged x.dstCore = false →
      ∀ k : Core, (s.core x.dstCore).addRow (inboundOp s) x.place (wordsOf x.data) = .ok k → x.att = [] →
        Leads (exec (.stockWordRowArrival i) s) fun t => (t.core x.dstCore).stock = k.stock ∧ t.mem = s.mem ∧
          (∀ d, d ≠ x.dstCore → t.core d = s.core d) ∧ ∀ y ∈ t.xfers, y.id = i → y.stage = .committed)

/-- Data reaches its place: an access of a stack takes or gives its bytes (spec/11 R273, R278); a remote read gives the scratchpad's bytes
(R287); a ticket claim returns the counter and adds to it, modulo 2^64 (spec/08 R221, spec/12 R322); inbound data commits in the scratchpad,
but for the bytes that failed (spec/03 R88; spec/08 R213). -/
def Obligations.TransferData : Prop :=
  ∀ (s : State) (i : Nat) (x : Xfer),
    (∀ errs, s.xfer i = some x → s.atStack x = some true →
      Leads (exec (.stackAccess i errs) s) fun t => ∀ y ∈ t.xfers, y.id = i → y.stage = .accepted ∧
        y.data = pickNibble x.nib (clearOdd x.odd (s.readMem x.src x.len errs).data) ∧ y.err = x.mark (s.readMem x.src x.len errs).err) ∧
    (∀ errs, s.xfer i = some x → s.atStack x = some false → x.tagFmt = none → x.nib = none →
      Leads (exec (.stackAccess i errs) s) fun t => t.mem = (s.writeMem x.dst x.data errs).state.mem ∧
        ∀ y ∈ t.xfers, y.id = i → y.stage = .committed ∧ y.err = x.mark (s.writeMem x.dst x.data errs).err) ∧
    (∀ c f, s.xfer i = some x → x.stage = .launched → (x.kind = .load ∨ x.kind = .gather) → s.locate x.src = .scratch c f →
      s.coreShut c = false →
      exec (.remoteRead i) s = .next (s.modXfer i fun y =>
        { y with stage := .accepted, data := pickNibble x.nib (clearOdd x.odd (Memory.read (s.core c).scratch f x.len)) })) ∧
    (s.xfer i = some x → x.stage = .launched → x.kind = .ticketClaim →
      Leads (exec (.ticketRequest i) s) fun t => t.ticket x.aux = (s.ticket x.aux + x.place) % 2 ^ 64 ∧
        (∀ j, j ≠ x.aux → t.ticket j = s.ticket j) ∧ ∀ y ∈ t.xfers, y.id = i → y.data = toLE 8 (s.ticket x.aux)) ∧
    (s.xfer i = some x → x.stage = .launched → x.kind = .ticketRead →
      exec (.ticketRequest i) s = .next (s.modXfer i fun y => { y with stage := .accepted, data := toLE 8 (s.ticket x.aux) })) ∧
    ((s.xfer i).any (fun x => x.stage == .accepted && !x.static) = true →
      let u := s.settle
      u.xfer i = some x → (x.kind = .load ∨ x.kind = .gather ∨ x.kind = .ticketClaim ∨ x.kind = .ticketRead) → x.late = none →
      x.tagFmt = none → x.nib = none → u.coreHedged x.core = false →
      Leads (exec (.inboundCommit i) s) fun t => (t.core x.core).scratch = writeExcept (u.core x.core).scratch x.dst x.fail x.data ∧
        (∀ y ∈ t.xfers, y.id = i → y.stage = .committed) ∧ t.mem = u.mem ∧ ∀ d, d ≠ x.core → t.core d = u.core d)

/-- A transfer ends: with its acknowledgement it is gone, and its tag with it (spec/08 R210); a refusal by a window faults its sender, as one
of a message does (R213, spec/12 R318); each increment attached to a write into memory goes on as a signal message to the core of its route
(spec/06 R152, R154); a static transfer that no slot table carries to its core is refused with reason 6 as its time comes (spec/01 R23;
spec/03 R478): the command of that event brings what its cycle holds, once in a cycle (the model's choice, n1, n2). -/
def Obligations.TransferEnds : Prop :=
  ∀ (s : State) (i : Nat) (x : Xfer), s.xfer i = some x →
    (x.stage = .committed → x.late = none → x.foreign = false → x.kind ≠ .program → x.kind ≠ .descriptors → x.att = [] →
      Leads (exec (.transferAcknowledgement i) s) fun t => (∀ y ∈ t.xfers, y.id ≠ i) ∧ t.mem = s.mem) ∧
    (x.stage = .refused → x.late = none → x.foreign = false → (s.core x.core).running = true →
      Leads (exec (.negativeAcknowledgement i) s) fun t => (t.core x.core).faulted = true ∧ (t.core x.core).running = false ∧
        (∀ y ∈ t.xfers, y.id ≠ i) ∧ t.mem = s.mem ∧
        ∃ r : LogRec, r ∈ t.err.transit ∧ r.domain = 0 ∧ r.index = x.core ∧ r.code = (if x.asSend then 0x05 else 0x06)) ∧
    (∀ g h d e, x.stage = .committed → x.att = [g, h] → x.attCores = [d, e] → x.remote = true → s.inMemory x.dst = true →
      Leads (exec (.attachedIncrementForward i) s) fun t => ∃ m n : SigMsg, t.sigs = s.sigs ++ [m, n] ∧ m.dstCore = d ∧ n.dstCore = e ∧
        m.cnt = g.cnt ∧ m.inc = g.inc ∧ n.cnt = h.cnt ∧ n.inc = h.inc ∧ t.cores = s.cores ∧ t.mem = s.mem) ∧
    (∀ g d, x.stage = .committed → x.att = [g] → x.attCores = [d] → x.remote = true → s.inMemory x.dst = true →
      Leads (exec (.attachedIncrementForward i) s) fun t => ∃ m : SigMsg, t.sigs = s.sigs ++ [m] ∧ m.dstCore = d ∧ m.cnt = g.cnt ∧
        m.inc = g.inc ∧ t.cores = s.cores ∧ t.mem = s.mem) ∧
    (x.static = true → x.lost = true → x.stage = .launched →
      (∀ router output input slot, s.slot (placeOfRouter router).1 (placeOfRouter router).2 output (slot % 64) ≠ input →
        exec (.staticSlotMismatch i router output input slot) s = .next s.settle ∧
        (s.clk.settled ≠ s.cyc + 1 → x.ready ≤ s.cyc → i < s.nextId → (∀ y ∈ s.xfers, y.id = i → y = x) →
          ∃ y ∈ s.settle.xfers, y.id = i ∧ y.stage = .refused ∧ y.reason = 6)) ∧
      ∀ y ∈ (s.staticHeader x).xfers, y.id = x.id → y.stage = .refused ∧ y.reason = 6 ∧ y.asSend = true)

/-- Messages arrive in the order of their route, after what their cycle holds already (spec/12 R319): a signal message's increment comes due
at its counter in the next cycle (R297); a data message enters its port's queue or its ring where there is room and a run to receive it
(R313, R315), and is refused with the reason where there is not (R318). One of the static plane takes place in its cycle (spec/01 R22), so
that its command brings what the cycle holds and no more (the model's choice, n1, n2). -/
def Obligations.MessagesArrive : Prop :=
  ∀ (s : State),
    (∀ (i : Nat) (g : SigMsg), s.sigs.find? (fun g => g.id == i) = some g →
      (g.static = true → exec (.signalMessage i) s = .next s.settle) ∧
      (g.static = false → (g.attached = true ∨ s.inOrder g.srcCore g.tag g.order g.foreign g.srcRank = true) →
        exec (.signalMessage i) s = .next ((s.settle.dropSig i).signalHeader g))) ∧
    (∀ g : SigMsg, g.lost = false → s.coreShut g.dstCore = false → (s.runOf g.dstCore).isSome = true →
      ((s.signalHeader g).core g.dstCore).later =
        (s.core g.dstCore).later ++ [(s.cyc + 1, .inc g.static g.cnt g.inc g.mark ⟨g.srcCore, g.srcRank, g.tag⟩)]) ∧
    (∀ (i k : Nat) (x : Xfer), s.inFlight (fun x => x.kind == .message && x.route.kind == k) i = some x →
      (∀ m ∈ [(1, Instr.portFifoMessage i), (2, .ringMessage i)], k = m.1 →
        (x.static = true → exec m.2 s = .next s.settle) ∧
        (x.static = false → s.inOrder x.core x.route.tag x.id x.foreign (x.xrank.getD 0) = true →
          exec m.2 s = .next (s.settle.messageHeader x)))) ∧
    (∀ x : Xfer, x.lost = false → s.deaf x.dstCore = false → x.route.kind = 1 →
      let q := (s.core x.dstCore).port x.route.index
      let t := s.messageHeader x
      ((padded x.data).length ≤ q.free →
        ((t.core x.dstCore).port x.route.index).queue = q.queue ++ [(x.id, padded x.data, false)] ∧
        (∀ y ∈ t.xfers, y.id = x.id → y.stage = .accepted) ∧ t.mem = s.mem) ∧
      (q.free < (padded x.data).length →
        (∀ y ∈ t.xfers, y.id = x.id → y.stage = .refused ∧ y.reason = 2 ∧ y.asSend = true) ∧ t.cores = s.cores)) ∧
    (∀ x : Xfer, x.lost = false → s.deaf x.dstCore = false → x.route.kind = 2 →
      let r := (s.core x.dstCore).ring x.route.index
      let n := 32 + 32 * ceilDiv x.data.length 32
      let t := s.messageHeader x
      (∀ (p : Nat × Nat) (u : State), r.place n = .ok p →
        s.header x.dstCore x.id 0 ⟨r.base + p.1, n, 0, if x.static then 4 else 3, none⟩ = .ok u →
        ((t.core x.dstCore).ring x.route.index).tail = (p.1 + n) % r.z ∧
        ((t.core x.dstCore).ring x.route.index).used = r.used + p.2 + n ∧
        ∀ y ∈ t.xfers, y.id = x.id → y.stage = .accepted ∧ y.place = p.1) ∧
      (∀ e, r.place n = .error e →
        (∀ y ∈ t.xfers, y.id = x.id → y.stage = .refused ∧ y.reason = e ∧ y.asSend = true) ∧
        ((t.core x.dstCore).ring x.route.index).refused = r.refused + 1)) ∧
    (∀ x : Xfer, x.lost = false → s.deaf x.dstCore = true →
      ∀ y ∈ (s.messageHeader x).xfers, y.id = x.id → y.stage = .refused ∧ y.reason = 5 ∧ y.asSend = true)

/-! ## Stacks (spec/11 R268, R272 to R277) -/

/-- A read of one ECC unit: an error confined to one symbol is corrected and the bytes are right; two or three symbols are detected, and the read
fails; an error in four or more is reported as nothing, and the wrong bits reach the reader (spec/11 R272). -/
def Obligations.EccUnitRead : Prop :=
  ∀ (errs : List EccErr) (a lo hi u : Nat) (x : Access),
    let n := x.state.symbols errs u
    let l := max lo (64 * u)
    let h := min hi (64 * u + 64)
    let right := Memory.read x.state.mem l (h - l)
    let y := Access.readUnit errs a lo hi x u
    (n ≤ 1 → y.data = x.data ++ right ∧ y.fail = x.fail ∧ y.err = x.err) ∧
    (2 ≤ n → n ≤ 3 → y.fail = x.fail ++ [(l - a, h - l)] ∧ y.err.isSome = true ∧ (x.err = none → y.err = some (1, 0, 64 * u))) ∧
    (4 ≤ n → y.data = x.data ++ ((wrongBytes errs u).drop (l - 64 * u)).take (h - l) ∧ y.fail = x.fail ∧ y.err = x.err ∧ y.state = x.state)

/-- Refresh changes nothing (spec/11 R268). Patrol scrub reads a unit of any channel that is on, hedged or not: it corrects an error in one
symbol, leaves one in two or three, and changes no byte of memory but of a trace buffer (R275). A channel passes from ON through CLOSING to OFF
as REQ_OFF is set, and through OPENING back to ON as it is cleared; as it comes ON every byte of it reads zero, and no byte of another channel
changes (R277). -/
def Obligations.StackUpkeep : Prop :=
  (∀ (s : State) (k c row u : Nat) (errs : List EccErr), s.mgt.moduleOn = true →
    exec (.refresh k c) s = .next s ∧ exec (.disturbRefresh k c row) s = .next s ∧
    (s.chanOn (64 * u) = true →
      Leads (exec (.patrolScrub u errs) s) fun t =>
        ((∀ p, (s.part p).run.trace = none) → t.mem = s.mem) ∧ t.cores = s.cores ∧
        (s.symbols errs u = 1 → Tab.get 0 t.ecc u = 0) ∧
        (2 ≤ s.symbols errs u → s.symbols errs u ≤ 3 → Tab.get 0 t.ecc u = s.symbols errs u) ∧
        ((s.symbols errs u = 0 ∨ 3 < s.symbols errs u) → t = s))) ∧
  (∀ (s : State) (k c : Nat), k < 20 → c < 32 → s.chanAbsent k = false → s.mgt.moduleOn = true →
    let n := chanNo k c
    Leads (exec (.reqOffSet k c) s) (fun t => (t.chan n).reqOff = true ∧
      ((s.chan n).reqOff = false → (s.chan n).state = 0 → (t.chan n).state = 1) ∧ t.mem = s.mem ∧ ∀ m, m ≠ n → t.chan m = s.chan m) ∧
    Leads (exec (.reqOffClear k c) s) (fun t => (t.chan n).reqOff = false ∧
      ((s.chan n).reqOff = true → (s.chan n).state = 2 → (t.chan n).state = 3) ∧ t.mem = s.mem ∧ ∀ m, m ≠ n → t.chan m = s.chan m) ∧
    ((s.chan n).state = 1 → (s.chan n).reqOff = true →
      Leads (exec (.channelClosed k c) s) fun t => (t.chan n).state = 2 ∧ t.mem = s.mem) ∧
    ((s.chan n).state = 3 → (s.chan n).reqOff = false →
      Leads (exec (.channelOpened k c) s) fun t => (t.chan n).state = 0 ∧
        (∀ a, inChannel k c a = true → Memory.get t.mem a = 0) ∧ ∀ a, inChannel k c a = false → Memory.get t.mem a = Memory.get s.mem a))

/-- At a stamp that is a multiple of 100 every bucket refills, once: a core's by 100 tokens for each unit of RATE, up to BURST KiB, and its
RATE is in force from then on; a partition's on each die by 100 for each unit of its rate, up to its depth (spec/11 R284 to R286). No memory and no
transfer changes. -/
def Obligations.BucketsRefill : Prop :=
  ∀ s : State, s.mgt.moduleOn = true → s.now % 100 = 0 → s.clk.lastRefill ≠ some s.now →
    exec .tokenRefill s = .next s.refillAll ∧
    Leads (exec .tokenRefill s) fun t =>
      (∀ c, (t.core c).tokens = min ((s.core c).tokens + 100 * (s.core c).rate) (1024 * (s.core c).burst) ∧
        (t.core c).rateNow = (s.core c).rate) ∧
      (∀ p d, p < 8 → (s.part p).exist = true → d < 4 →
        let b := (s.part p).bucket d
        ((t.part p).bucket d).1 = b.1 ∧ (b ≠ (0, 0) → ((t.part p).bucket d).2 = min (b.2 + 100 * b.1) (max 65536 (400 * b.1)))) ∧
      t.mem = s.mem ∧ t.xfers = s.xfers ∧ exec .tokenRefill t = .refused (.notEnabled "TOKEN_REFILL")

/-! ## Runs (spec/15 R384, R385; spec/03 R97; spec/12 R305) -/

/-- A run whose stamp has come starts: every core of it that is not hedged makes its first issue in that cycle, with its bucket full (spec/03
R97; spec/11 R284). A run that was aborted, or in which a core has faulted, closes once its cores have ended: its tags are reclaimed. A run that
has ended answers with RUN_END: outcome 2 where it was aborted, 1 where a core has faulted, 0 else (spec/15 R384, R385; spec/12 R305). That the
command of a start brings what the cycle holds, once in a cycle, is the model's choice (n1, n2); which runs close first, and that RUN_END waits
for the records of the run's faults, is read from the spec by inference (n10). -/
def Obligations.RunsStartAndEnd : Prop :=
  ∀ (s : State) (p : Nat),
    let r := (s.part p).run
    let t := s.startRun p
    (r.present = true → r.started = false → r.aborted = none → r.ts ≤ s.clk.edgeAt →
      Leads (exec (.runStart p) s) fun u => u = s.settle ∧
        (s.clk.settled ≠ s.cyc + 1 → p < 8 → (u.part p).run.started = true ∧ ∀ c ∈ r.cores, s.coreHedged c = false →
          (r.diag = false → (u.core c).startCyc = s.cyc) ∧
          (r.diag = true → (u.core c).micro.running = true ∧ (u.core c).micro.goStamp = s.now ∧ (u.core c).micro.goCycle = s.cyc))) ∧
    ((t.part p).run.started = true ∧ t.mem = s.mem ∧ t.xfers = s.xfers ∧
      (∀ c, c ∉ r.cores ∨ s.coreHedged c = true → t.core c = s.core c) ∧
      ∀ c, r.cores.filter (fun d => d == c) = [c] → s.coreHedged c = false →
        (t.core c).tokens = 1024 * (s.core c).burst ∧
        (r.diag = false → (t.core c).running = true ∧ (t.core c).startCyc = s.cyc ∧ (t.core c).due = s.cyc) ∧
        (r.diag = true → (t.core c).micro.running = true ∧ (t.core c).micro.pc = (s.core c).micro.entry)) ∧
    (r.present = true → r.closed = false → s.runForced r = true → s.runQuiet r = true →
      ((∀ c ∈ r.cores, s.heldTags c = []) ∨ r.lastStop + 2000000000 ≤ s.ns) →
      Leads (exec (.runClose p) s) fun t => (t.part p).run.closed = true ∧ (t.part p).run.present = true ∧
        ∀ c ∈ r.cores, ∀ x ∈ t.xfers, x.core = c → x.foreign = false → x.tag = none) ∧
    (r.present = true → s.runQuiet r = true → (s.runForced r = true → r.closed = true) → s.faultWaits p = false →
      let out := if r.aborted.isSome then 2 else if s.runFaulty r then 1 else 0
      Leads (exec (.runEnd p) s) fun t => (t.part p).run.present = false ∧ (t.part p).run.state = out + 2 ∧ (t.part p).run.outcome = out ∧
        ((s.mgt.paused = false ∧ s.mailboxes p ≠ []) ∨ (s.longAll p 0x003A = [] ∧ (s.cas p).joined = false) →
          t.Tells p 0x8002 (toLE 8 r.seq ++ toLE 1 r.handle ++ toLE 1 out ++ toLE 6 0 ++ toLE 8 (maxOf (r.cores.map s.coreCycle)) ++
          toLE 8 ((r.cores.map fun c => (s.core c).stalls).foldl (· + ·) 0) ++ r.errorBytes)))

/-! ## ZCP commands (spec/15 R366 to R372) -/

/-- A command that is taken up and accepted: its own part runs, and its response is recorded and sent (spec/15 R366 to R368): it is the newest of
its scope's recorded ones, with status 0 and the command's SEQ, which is the scope's new S_max, and goes to the mailbox the command came on
(R367). To a command with an undefined opcode the response is ZE_UNKNOWN_CMD. A command that is rejected leaves the module as it was, but for the
response that its scope records (R366). A frame whose SEQ is not above S_max executes nothing: the stored response goes out again with DUP set, or
ZE_STALE_SEQ where none is held; the sequence state stays (R367). -/
def Obligations.CommandAnswers : Prop :=
  (∀ (s : State) (q : Nat) (h : CmdHdr) (b : List Byte),
    let u := s.answerEcn q h.ecn
    let ok (i : Instr) (spec : CmdSpec) : Prop := u.accepts q h b spec = true →
      ∃ (qp : QPair) (r : Reply), u.takes q spec.opcode h = some qp ∧ spec.run (scopeIndex h.scope) h.seq b u = r ∧ r.accepts = true ∧
        exec i s = .next (u.conclude qp spec.opcode h r)
    ok (.identify q h b) identifySpec ∧ ok (.partCreate q h b) partCreateSpec ∧ ok (.partDestroy q h b) partDestroySpec ∧
    ok (.partSetQuota q h b) partSetQuotaSpec ∧ ok (.memAlloc q h b) memAllocSpec ∧ ok (.memFree q h b) memFreeSpec ∧
    ok (.chanPower q h b) chanPowerSpec ∧ (fld b 0 1 ≠ 1 → ok (.windowOpen q h b) windowOpenSpec) ∧
    (fld b 0 1 = 1 → ok (.windowOpenHandle q h b) windowOpenSpec) ∧ ok (.windowClose q h b) windowCloseSpec ∧
    ok (.progLoad q h b) progLoadSpec ∧ ok (.progUnload q h b) progUnloadSpec ∧ ok (.run q h b) runSpec ∧
    ok (.runStatus q h b) runStatusSpec ∧ ok (.runAbort q h b) runAbortSpec ∧ ok (.logRead q h b) logReadSpec ∧
    ok (.traceRead q h b) traceReadSpec ∧ ok (.sensorRead q h b) sensorReadSpec ∧ ok (.fenceQuery q h b) fenceQuerySpec ∧
    ok (.unfence q h b) unfenceSpec ∧ ok (.powerLimitSet q h b) powerLimitSetSpec ∧ ok (.stepCapSet q h b) stepCapSetSpec ∧
    ok (.cascadeJoin q h b) cascadeJoinSpec ∧ ok (.cascadeLeave q h b) cascadeLeaveSpec ∧ ok (.attest q h b) attestSpec ∧
    (stageLast b = false → stageRestart b = false → ok (.fwStage q h b) fwStageSpec) ∧
    (stageLast b = false → stageRestart b = true → ok (.fwStageRestart q h b) fwStageSpec) ∧
    (stageLast b = true → ok (.fwStageLast q h b) fwStageSpec) ∧ ok (.fwActivate q h b) fwActivateSpec ∧
    ∀ (op : Nat) (qp : QPair), specOf op = none → u.takes q op h = some qp → (qp.port ≠ 8 ∨ 7 ≤ s.mgt.phase) →
      exec (.zeUnknownCmd q op h b) s = .next (u.recordAnswer qp (responseTo op h 0x0103 0 s.now []))) ∧
  (∀ (s t : State) (qp : QPair) (op : Nat) (h : CmdHdr) (long : Bool) (res : List Byte),
    let u := s.conclude qp op h (.accept t long res)
    let x := u.scope (scopeIndex h.scope)
    x.smax = h.seq ∧ (∃ f : Frame, x.recorded.head? = some f ∧ f.status = 0 ∧ f.seq = h.seq ∧ f.opcode = op ∧ f.fields = res ∧
      u.host.sent.head? = some (.frame qp.q f)) ∧ { u with host := t.host } = t) ∧
  (∀ (s : State) (q op e : Nat) (h : CmdHdr) (b : List Byte) (qp : QPair) (spec : Option CmdSpec) (m : String),
    let u := s.answerEcn q h.ecn
    u.takes q op h = some qp → u.judge qp op h b spec = .reject e →
    Leads (zcp m op spec q h b s) fun t => { t with host := s.host } = s ∧ t.host.qps = s.host.qps ∧ t.host.long = s.host.long ∧
      t.host.rdma = s.host.rdma ∧ ∃ f : Frame, t.host.sent = .frame qp.q f :: u.host.sent ∧ f.status = e ∧ f.seq = h.seq ∧ f.fields = []) ∧
  ∀ (s : State) (q op : Nat) (h : CmdHdr) (b : List Byte) (qp : QPair) (spec : Option CmdSpec) (m : String),
    let u := s.answerEcn q h.ecn
    s.mailbox q = some qp → s.mustWait op = false → frameCheck qp h = none → h.seq ≤ (s.scope (scopeIndex h.scope)).smax →
    (∀ f : Frame, (s.scope (scopeIndex h.scope)).recorded.find? (fun f => f.seq == h.seq) = some f →
      zcp m op spec q h b s = .next (u.send (.frame qp.q { f with flags := f.flags ||| 1 }))) ∧
    ((s.scope (scopeIndex h.scope)).recorded.find? (fun f => f.seq == h.seq) = none →
      zcp m op spec q h b s = .next (u.send (.frame qp.q (responseTo op h 0x0105 0 s.now []))))

/-- Before PHASE 7 the service port takes up only IDENTIFY, LOG_READ, SENSOR_READ and FENCE_QUERY, and rejects any other command with ZE_NOT_READY, the
state unchanged (spec/18 R451). That this check comes ahead of those of the command itself, of its scope and its length among them, is read from
the spec by inference (n10). -/
def Obligations.ServicePortBeforeReady : Prop :=
  ∀ (s : State) (qp : QPair) (op : Nat) (h : CmdHdr) (b : List Byte) (spec : Option CmdSpec), qp.port = 8 → s.mgt.phase < 7 →
    (op ≠ 0x0001 → op ≠ 0x0040 → op ≠ 0x0042 → op ≠ 0x0048 →
      s.judge qp op h b spec = .reject 0x0106 ∧ { s.conclude qp op h (.reject 0x0106) with host := s.host } = s) ∧
    (∀ c ∈ [identifySpec, logReadSpec, sensorReadSpec, fenceQuerySpec], c.inM = true ∧ c.service = true ∧
      (h.scope = 255 → c.lenOk h.length = true → s.judge qp c.opcode h b (some c) = c.run 8 h.seq b s))

/-- What commands do when they are accepted. PART_CREATE gives a partition that does not exist the regions, ports and links it names, which no other
holds, and the lowest run of free ticket counters, with every segment invalid and every window closed (spec/15 R375; spec/11 R289). MEM_ALLOC of
memory gives its units, all free before, to the partition, and maps the segment (R378). WINDOW_OPEN opens a window under the next epoch and writes
its handles; WINDOW_CLOSE closes it, as a long command (R381, R382). RUN prepares a run that starts 10 µs later (R384; spec/03 R97), RUN_ABORT stops
every core of the run (R385). POWER_LIMIT_SET stores a limit of 1,100 W or more, and rejects one below (spec/14 R355). -/
def Obligations.CommandEffects : Prop :=
  ∀ (s : State) (p seq : Nat) (b : List Byte),
    (let n := fld b 0 1
     ((s.part n).exist = true → partCreateSpec.run p seq b s = .reject 0x0101) ∧
     ∀ t long res, partCreateSpec.run p seq b s = .accept t long res →
      let x := t.part n
      long = false ∧ n < 8 ∧ (s.part n).exist = false ∧ x.exist = true ∧ x.regions = fld b 2 2 ∧ x.ports = fld b 4 1 ∧
      x.links = fld b 8 8 ∧ x.memQuota = fld b 16 4 ∧ s.ticketRun (fld b 6 2) = some x.wtBase ∧ x.wtCount = fld b 6 2 ∧
      (∀ q, q < 8 → (s.part q).exist = true →
        (s.part q).regions &&& x.regions = 0 ∧ (s.part q).ports &&& x.ports = 0 ∧ (s.part q).links &&& x.links = 0) ∧
      (∀ k, k < 64 → (t.seg n k).v = false) ∧ (∀ w, (t.window n w).isOpen = false ∧ (t.window n w).epoch = (s.window n w).epoch) ∧
      (∀ q, q ≠ n → t.part q = s.part q) ∧ t.unitOwner = s.unitOwner ∧ t.mem = s.mem) ∧
    (∀ t long res, fld b 1 1 = 0 → memAllocSpec.run p seq b s = .accept t long res →
      let k := fld b 0 1
      let n := fld b 4 2
      long = false ∧ (s.unitsOfPart p).length + n ≤ (s.part p).memQuota ∧ (s.seg p k).v = false ∧
      ∃ u, u + n ≤ 960 ∧ (∀ i, i < n → s.ownerOfUnit (u + i) = none ∧ t.ownerOfUnit (u + i) = some p) ∧
        (∀ v, v < u ∨ u + n ≤ v → t.ownerOfUnit v = s.ownerOfUnit v) ∧
        t.seg p k = { base := 2 ^ 30 * u, limit := n * 2 ^ 18 - 1, v := true, rd := bit (fld b 2 1) 0, wr := bit (fld b 2 1) 1,
                      pl := bit (fld b 2 1) 2, rm := bit (fld b 2 1) 3, units := true } ∧
        (∀ q j, j < 64 → (q ≠ p ∨ j ≠ k) → t.seg q j = s.seg q j) ∧
        Tab.get 0 t.gens (64 * p + k) = (Tab.get 0 s.gens (64 * p + k) + 1) % 2 ^ 23 ∧ t.parts = s.parts ∧ t.mem = s.mem) ∧
    (∀ t long res, fld b 0 1 = 0 → (s.cas p).joined = false → windowOpenSpec.run p seq b s = .accept t long res →
      let w := fld b 1 1
      long = false ∧ (s.window p w).isOpen = false ∧ (t.window p w).isOpen = true ∧
      (t.window p w).epoch = ((s.window p w).epoch + 1) % 2 ^ 16 ∧ (t.window p w).len = fld b 12 4 ∧
      s.windowRange p b = some ((t.window p w).base, (t.window p w).core) ∧ s.windowOverlap p w (t.window p w).base ((fld b 12 4 + 1) * 512) = false ∧
      (∀ v, v ≠ w → t.window p v = s.window p v) ∧
      (∀ es, s.handleEntries p b = some es → ∀ e ∈ es, Tab.get {} (t.core e.1).handles e.2 = ⟨w, (t.window p w).epoch, true⟩) ∧ t.mem = s.mem) ∧
    (let w := fld b 0 1
     ((s.window p w).isOpen = false → windowCloseSpec.run p seq b s = .reject 0x0101) ∧
     ((s.window p w).isOpen = true → ∃ t, windowCloseSpec.run p seq b s = .accept t true [] ∧ (t.window p w).isOpen = false ∧
      (t.window p w).epoch = (s.window p w).epoch ∧ (∀ v, v ≠ w → t.window p v = s.window p v) ∧
      (t.longFind p 0x0029 fun l => l.a == w).isSome = true ∧ t.mem = s.mem)) ∧
    (∀ t long res, runSpec.run p seq b s = .accept t long res →
      let r := (t.part p).run
      long = true ∧ (s.part p).run.present = false ∧ (s.prog p (fld b 0 1)).kind ≠ 0 ∧ r.present = true ∧ r.started = false ∧ r.aborted = none ∧
      r.closed = false ∧ r.seq = seq ∧ r.handle = fld b 0 1 ∧ r.ts = s.now + 10000 ∧ res = toLE 8 r.ts ++ toLE 1 r.bucket ∧
      (∀ c ∈ r.cores, (t.core c).running = false ∧ (t.core c).arith = {} ∧ (t.core c).pend = [] ∧ (t.core c).loops = [] ∧
        (t.core c).next = (t.core c).entry ∧ s.coreHedged c = false) ∧ t.xfers = s.xfers) ∧
    ((s.part p).run.present = false → runAbortSpec.run p seq b s = .reject 0x0205) ∧
    ((s.part p).run.present = true → ∃ t, runAbortSpec.run p seq b s = .accept t true [] ∧ (t.part p).run.present = true ∧
      (∀ c ∈ (s.part p).run.cores, (s.part p).run.aborted = none →
        (t.core c).running = false ∧ ((s.core c).running = false → (t.core c).micro.running = false)) ∧
      ((s.part p).run.aborted = none → (∃ c ∈ (s.part p).run.cores, (s.core c).working = true) →
        (t.part p).run.aborted = some s.now) ∧ t.mem = s.mem ∧ ∀ q, q ≠ p → (t.part q).run.aborted = (s.part q).run.aborted) ∧
    (fld b 0 4 < 1100 → powerLimitSetSpec.run p seq b s = .reject 0x0501) ∧
    (1100 ≤ fld b 0 4 → powerLimitSetSpec.run p seq b s =
      .accept { s with clk := { s.clk with powerLimit := some (fld b 0 4) } } false [])

/-- STEP_CAP_SET writes CAP. A cap below the present step starts a glide down: the target comes to the cap or below. A cap above 24 is rejected
with ZE_BAD_FIELD, and the old cap stays (spec/14 R356). -/
def Obligations.StepCapSet : Prop :=
  ∀ (s : State) (p seq : Nat) (b : List Byte),
    let cap := fld b 0 1
    (24 < cap → stepCapSetSpec.run p seq b s = .reject 0x0101) ∧
    (cap ≤ 24 → ∃ t, stepCapSetSpec.run p seq b s = .accept t false [] ∧ t.clk.cap = cap ∧ t.clk.present = s.clk.present ∧
      (cap < s.clk.present → t.clk.gliding = true ∧
        (if s.clk.gliding then (t.clk.pendTarget.map Prod.fst).getD t.clk.target else t.clk.target) ≤ cap))

/-- A long command ends with CMD_DONE once what it waits for has happened (spec/15 R369, R370): PART_DESTROY with the partition gone, its
memory zero and free (R376); MEM_FREE, after the requests it found in progress, with its units zero and free (R379); CHAN_POWER with the channel's
state (R380); WINDOW_CLOSE once no copy of the window shows it open and no write into it has still to commit (R382; spec/11 R294); PROG_LOAD with the
outcome of its checks (R383); UNFENCE with the unit in service where it passes, and ZE_FENCED where it does not (spec/17 R426). Where CMD_DONE of
PROG_LOAD reports the bit REDUCE is the model's choice (n10). -/
def Obligations.LongCommandsEnd : Prop :=
  ∀ (s : State) (l : LongCmd),
    let ends (t : State) (status : Nat) (result : List Byte) : Prop :=
      l ∉ t.host.long ∧ t.Tells l.scope 0x8001 (toLE 8 l.seq ++ toLE 2 l.opcode ++ toLE 2 status ++ result)
    let free (t : State) (u : Nat) : Prop := t.ownerOfUnit u = none ∧ ∀ a, unitOf a = u → Memory.get t.mem a = 0
    (∀ p, s.longFind 8 0x0011 (fun l => l.a == p) = some l → (s.part p).run.present = false →
      s.host.long.any (fun m => m.scope == p) = false → s.windowBusy p none = false →
      Leads (exec (.partDestroyDone p) s) fun t => ends t 0 [] ∧ (t.part p).exist = false ∧ (∀ k, k < 64 → (t.seg p k).v = false) ∧
        (∀ u ∈ s.unitsOfPart p, free t u) ∧ t.cores = s.cores) ∧
    (∀ p k, s.longFind p 0x0021 (fun l => l.a == k) = some l →
      s.host.rdma.any (fun r => r.part == p && r.seg == k && decide (r.id < l.mark)) = false →
      Leads (exec (.memFreeDone p k) s) fun t => ends t 0 [] ∧
        (∀ u ∈ (List.range (l.b / 1024)).map (l.b % 1024 + ·), free t u) ∧ t.cores = s.cores) ∧
    (∀ st ch, s.host.long.find? (fun l => l.opcode == 0x0022 && l.a == chanNo st ch) = some l →
      (s.chan (chanNo st ch)).state = (if l.b = 1 then 0 else 2) →
      Leads (exec (.chanPowerDone st ch) s) fun t => ends t 0 (toLE 1 (s.chan (chanNo st ch)).state) ∧ t.chans = s.chans ∧ t.mem = s.mem) ∧
    (∀ p w, s.longFind p 0x0029 (fun l => l.a == w) = some l → s.windowBusy p (some w) = false →
      let x := s.window p w
      Leads (exec (.windowCloseComplete p w) s) fun t => ends t 0 [] ∧ (t.window p w).isOpen = x.isOpen ∧ t.mem = s.mem ∧
        (x.kept = [] → (t.window p w).held = x.isOpen ∧ (t.window p w).copies = []) ∧
        (x.kept ≠ [] → (t.window p w).held = x.held ∧ (t.window p w).kept = x.kept.dropLast)) ∧
    (∀ p h, s.longFind p 0x0030 (fun l => l.a == h) = some l → s.segmentBusy p (s.prog p h).seg = false →
      let g := s.prog p h
      let x := s.readImage p g.addr g.len
      let y := x.1.readImage p g.routeAddr g.routeLen
      let b := x.2.getD []
      Leads (exec (.progLoadDone p h) s) fun t =>
        (∀ e, y.1.checkLoad p g x.2 y.2 = some e → ends t e [] ∧ (t.prog p h).kind = 0) ∧
        (y.1.checkLoad p g x.2 y.2 = none →
          ends t 0 (if isDiag b then [] else toLE 1 (fld b 19 1 % 2)) ∧ (t.prog p h).kind = (if isDiag b then 3 else 2) ∧
          (t.prog p h).digest = (b.drop 32).take 32)) ∧
    (∀ d i g, s.err.hedges.find? (fun h => h.domain == d && h.index == i && h.returning.isSome) = some g →
      Leads (exec (.returnProcedureDone d i true) s) (fun t => t.hedgedUnit d i = false ∧
        (s.longFind 8 0x0049 (fun l => l.a == d && l.b == i) = some l → ends t 0 [])) ∧
      Leads (exec (.returnProcedureDone d i false) s) (fun t => t.hedgedUnit d i = true ∧
        (s.longFind 8 0x0049 (fun l => l.a == d && l.b == i) = some l → ends t 0x0601 [])))

/-! ## Firmware and the controller (spec/18 R430, R441, R445 to R447) -/

/-- A delta's verification ends: one that fails leaves both slots as they are; one that passes is written to the inactive slot, and an
image is staged (spec/18 R445). In an activation the controller flips the active slot and restarts through its ROM, is ready again where the slot
passes its checks, and then the activation ends with the new slot active, its SV_MIN in force where it commits; where that slot fails, or 2 s have
passed, the old one is active again. None of these touches a core or memory (R446, R447). A mismatch of the controller's cores restarts it
through its ROM, which takes the active slot, or the other where that fails; it runs again within 0.5 s, and neither event touches a core or
memory (R430, R441). -/
def Obligations.FirmwareUpdate : Prop :=
  ∀ (s : State) (l : LongCmd),
    let m := s.mgt
    let a := m.activeSlot
    let bad (i : Nat) : Bool := ((s.slotOf i).fails s.fuses.svMin).isSome
    let fit (i : Nat) : Bool := ((s.slotOf i).unfit s.fuses.svMin).isNone
    let same (t : State) : Prop := t.cores = s.cores ∧ t.mem = s.mem
    (s.longFind 8 0x0068 (fun _ => true) = some l → s.controllerRuns = true →
      Leads (exec .fwDeltaVerified s) fun t => t.mgt.staging = false ∧ l ∉ t.host.long ∧ t.slotOf a = s.slotOf a ∧
        t.mgt.activeSlot = a ∧ t.fuses = s.fuses ∧
        match s.checkDelta m.staged with
        | .inl _ => t.mgt.slots = m.slots ∧ t.mgt.stagedOk = m.stagedOk
        | .inr x => (∃ n, t.slotOf (1 - a) = { x with spares := n }) ∧ t.mgt.stagedOk = true) ∧
    (∀ id, m.activating = true → m.actStep < 3 → s.controllerRuns = true →
      Leads (exec (.bootRom id) s) fun t => t.mgt.activeSlot = 1 - a ∧ t.mgt.actStep = 3 ∧ t.controllerRuns = false ∧ same t ∧ t.host = s.host) ∧
    (∀ rs key kind serial, m.activating = true → m.actStep = 3 → m.moduleOn = true → fit a = true → key.started = true →
      Leads (exec (.controllerReady rs key kind serial) s) fun t => t.mgt.actStep = 4 ∧ t.mgt.activeSlot = a ∧
        t.mgt.mgtVer = (s.slotOf a).mgtVer ∧ t.mgt.cpVer = (s.slotOf a).cpVer ∧ t.mgt.phase = m.phase ∧ same t ∧ t.host = s.host) ∧
    (s.longFind 8 0x0069 (fun _ => true) = some l → m.activating = true → s.host.waiting = [] →
      (s.controllerRuns = true → m.actStep = 4 →
        Leads (exec .fwActivateDone s) fun t => t.mgt.activeSlot = a ∧ t.mgt.activating = false ∧ t.mgt.paused = false ∧ t.mgt.actStep = 0 ∧
          t.fuses.svMin = (if (s.slotOf a).commit then max (s.slotOf a).sv s.fuses.svMin else s.fuses.svMin) ∧
          l ∉ t.host.long ∧ t.Tells 8 0x8001 (toLE 8 l.seq ++ toLE 2 0x0069 ++ toLE 2 0) ∧ same t) ∧
      ((m.actStep ≠ 0 ∧ fit a = false) ∨ l.stamp + 2000000000 ≤ s.ns →
        Leads (exec .fwActivateFailback s) fun t => t.mgt.activeSlot = 1 - (if m.actStep = 0 then 1 - a else a) ∧ t.mgt.activating = false ∧
          t.mgt.paused = false ∧ t.mgt.stagedOk = false ∧ t.fuses = s.fuses ∧ l ∉ t.host.long ∧ same t)) ∧
    (s.controllerRuns = true →
      Leads (exec .lockstepMismatch s) fun t => t.mgt.restarting = true ∧ t.mgt.restartAt = s.ns ∧ same t ∧ t.host = s.host ∧ t.clk = s.clk ∧
        (bad a = false → t.mgt.activeSlot = a ∧ t.mgt.phase = m.phase) ∧
        (bad a = true → bad (1 - a) = false → t.mgt.activeSlot = 1 - a ∧ t.mgt.phase = m.phase) ∧
        (bad a = true → bad (1 - a) = true → t.mgt.phase = 15)) ∧
    (m.restarting = true → m.phase ≠ 15 → s.ns ≤ m.restartAt + 500000000 → s.host.waiting = [] →
      Leads (exec (.lgMgtRestart ((s.ns - m.restartAt) / 1000)) s) fun t => t.mgt.restarting = false ∧ t.mgt.phase = m.phase ∧ same t)

/-! ## Ethernet ports (spec/15 R359 to R364, R370; spec/17 R424, R425) -/

/-- A port that is up accepts a queue pair that no limit refuses with REP, under its path MTU, 1,024 on the service port, and refuses any other
with REJ (spec/15 R359, R361, R362); a DREQ ends one with what waits on it (R370). Frames of unsupported kinds are dropped and counted, a
congestion notification packet marks the port as slowed, and address requests for an own address and echo requests are answered (R359, R360).
A port that has lost PCS lock and does not regain it within 1 s is reported (spec/17 R424); as it regains lock it is up again, its recovery at
an end (R425). That the path MTU comes with the connection request, and that any value is taken, is the model's choice (n10). -/
def Obligations.PortsAndQps : Prop :=
  ∀ (s : State) (port : Nat),
    (∀ scope kind mtu, s.portUp port = true → s.refusesQp port scope kind = true →
      Leads (exec (.qpConnectRequest port scope ⟨kind, mtu⟩) s) fun t => t.host.qps = s.host.qps ∧ t.host.sent.head? = some (.cmRej port)) ∧
    (∀ scope kind mtu, s.portUp port = true → s.refusesQp port scope kind = false →
      Leads (exec (.qpConnectRequest port scope ⟨kind, mtu⟩) s) fun t =>
        t.host.qps = s.host.qps ++ [⟨s.host.nextQ, port, scope, kind, if port = 8 then 1024 else mtu⟩] ∧ t.host.nextQ = s.host.nextQ + 1 ∧ Sent.cmRep port s.host.nextQ ∈ t.host.sent ∧ t.mem = s.mem ∧ t.cores = s.cores) ∧
    (∀ q, s.host.qps.any (fun p => p.q == q) = true →
      Leads (exec (.dreq q) s) fun t => (∀ p ∈ t.host.qps, p.q ≠ q) ∧ (∀ w ∈ t.host.waiting, w.q ≠ q) ∧ (∀ r ∈ t.host.rdma, r.q ≠ q) ∧
        ∀ p ∈ s.host.qps, p.q ≠ q → p ∈ t.host.qps) ∧
    (s.portUp port = true →
      Leads (exec (.unsupportedFrame port) s) (fun t => Tab.get 0 t.host.drops port = Tab.get 0 s.host.drops port + 1 ∧
        t.host.sent = s.host.sent ∧ t.host.qps = s.host.qps) ∧
      Leads (exec (.congestionNotificationPacket port) s) (fun t => Tab.get 0 t.host.cnps port = Tab.get 0 s.host.cnps port + 1 ∧
        bit t.host.slowed port = true ∧ t.host.qps = s.host.qps)) ∧
    (∀ sender target data, s.portUp port = true →
      ((s.portAddresses port).contains target = true →
        Leads (exec (.networkLayerFrame port (.arpRequest sender target)) s) (fun t => t.host.sent.head? = some (.net port (.arpReply target))) ∧
        Leads (exec (.networkLayerFrame port (.neighbourSolicit sender target)) s)
          fun t => t.host.sent.head? = some (.net port (.neighbourAdvert target))) ∧
      ((s.portAddresses port).contains target = false → exec (.networkLayerFrame port (.arpRequest sender target)) s = .next s) ∧
      Leads (exec (.networkLayerFrame port (.echoRequest sender data)) s)
        fun t => t.host.sent.head? = some (.net port (.echoReply ((s.portAddresses port).headD 0) data))) ∧
    (port < 8 → bit s.host.locked port = true →
      Leads (exec (.pcsLockLost port) s) fun t => bit t.host.locked port = false ∧ Tab.get 0 t.host.lostAt port = s.ns + 1) ∧
    (Tab.get 0 s.host.lostAt port ≠ 0 → Tab.get 0 s.host.lostAt port + 1000000000 ≤ s.ns + 1 →
      Leads (exec (.lgPortDown port) s) fun t => Tab.get 0 t.host.lostAt port = 0 ∧ ∃ r : LogRec, t.err.transit = s.err.transit ++ [r] ∧
        r.domain = 5 ∧ r.index = port ∧ r.code = 0x42 ∧ r.stamp = s.now) ∧
    (port < 8 → bit s.host.locked port = false → s.mgt.phase = 7 →
      Leads (exec (.pcsRelock port) s) fun t => bit t.host.locked port = true ∧ Tab.get 0 t.host.lostAt port = 0 ∧
        ∀ x ∈ t.err.recoveries, x.domain = 5 → x.index = port → x.stop.isSome = true)

/-- RDMA on a data queue pair (spec/15 R359, R364): a request that fails a check gets an access NAK and writes nothing; one that passes writes
its bytes at the translated address, packet by packet of the path MTU, and is acknowledged once they have committed; a read returns the bytes
that memory holds. What bears the ECN mark is answered with a congestion notification packet first. The model's choices (n10) are one such packet
for a request, packets of the path MTU but for a shorter last one, and that a READ is answered in the step in which it arrives. -/
def Obligations.Rdma : Prop :=
  ∀ (s : State) (q va rkey : Nat) (errs : List EccErr) (qp : QPair) (ecn : Bool), s.dataQp q = some qp →
    let u := s.answerEcn q ecn
    u.host.sent = (if ecn then [Sent.cnp q] else []) ++ s.host.sent ∧ { u with host := s.host } = s ∧
    (∀ data, s.rdmaAddress qp.scope va rkey data.length .wr = none →
      exec (.rdmaWrite q va rkey data ⟨errs, ecn⟩) s = .next (u.send (.rdmaAccessNak q))) ∧
    (∀ data a, s.rdmaAddress qp.scope va rkey data.length .wr = some a → (s.seg qp.scope (va / 2 ^ 38 % 64)).rm = true →
      s.openFor qp.scope a data.length = false → (s.part qp.scope).run.trace = none →
      Leads (exec (.rdmaWrite q va rkey data ⟨errs, ecn⟩) s) fun t => t.mem = s.mem ∧ t.cores = s.cores ∧
        t.host.sent.head? = some (.rdmaAccessNak q) ∧ t.host.rdma = s.host.rdma) ∧
    (∀ data a, s.rdmaAddress qp.scope va rkey data.length .wr = some a →
      ((s.seg qp.scope (va / 2 ^ 38 % 64)).rm = false ∨ s.openFor qp.scope a data.length = true) →
      (u.writePackets a data errs (rdmaPackets data.length qp.mtu)).2 = false →
      Leads (exec (.rdmaWrite q va rkey data ⟨errs, ecn⟩) s) fun t =>
        t.mem = (u.writePackets a data errs (rdmaPackets data.length qp.mtu)).1.mem ∧ ∃ r : RdmaReq, r ∈ t.host.rdma ∧ r.q = q) ∧
    (∀ r x, s.host.rdma.find? (fun x => x.id == r) = some x →
      Leads (exec (.rdmaWriteAck r) s) fun t => t.host.sent.head? = some (.rdmaAck x.q) ∧ (∀ y ∈ t.host.rdma, y.id ≠ r) ∧ t.mem = s.mem) ∧
    (∀ len, s.rdmaAddress qp.scope va rkey len .rd = none →
      exec (.rdmaRead q va rkey len ⟨errs, ecn⟩) s = .next (u.send (.rdmaAccessNak q))) ∧
    (∀ len a, s.rdmaAddress qp.scope va rkey len .rd = some a →
      (u.readPackets a errs (rdmaPackets len qp.mtu)).2.2 = false →
      Leads (exec (.rdmaRead q va rkey len ⟨errs, ecn⟩) s) fun t =>
        t.host.sent.head? = some (.rdmaData q (u.readPackets a errs (rdmaPackets len qp.mtu)).2.1))

/-! ## The error queue and the log (spec/17 R420 to R427) -/

/-- A record reaches the queue of 256, or is counted as an overflow, and the die it comes from is hedged (spec/17 R422); what is 1 µs old has reached
it by the time a record is handled (R421). Of the records that are eligible, 1,000 ns after their stamps, the one with the least key is handled
first (R421); a channel's persistence check ends 40 µs after its record (R425); lost log entries are reported with the stamp of their second's end
(R427). An error of a core raises its record and stops the core (R424); a slip of a bridge raises its record and stops every core of the die, none
of which issues until the die has been retrained (spec/03 R99). -/
def Obligations.ErrorQueue : Prop :=
  ∀ (s : State),
    (∀ n r rest, s.err.transit.drop n = r :: rest → s.err.queue.length < 256 →
      exec (.errorRecordArrival n) s =
        .next { s with err := { s.err with transit := s.err.transit.take n ++ rest, queue := s.err.queue ++ [r] } }) ∧
    (∀ n r rest, s.err.transit.drop n = r :: rest → 256 ≤ s.err.queue.length →
      Leads (exec (.errorRecordArrival n) s) fun t => t.err.overflows = satAdd 32 s.err.overflows 1 ∧ t.err.queue = s.err.queue ∧
        (s.sourceDie r = none → t.err.transit = s.err.transit.take n ++ rest) ∧ ∀ d, s.sourceDie r = some d → t.hedgedUnit 2 d = true) ∧
    (∀ r rest, takeLeast s.now s.err.queue = some (r, rest) →
      r ∈ s.err.queue ∧ r.stamp + 1000 ≤ s.now ∧ (∀ q ∈ s.err.queue, q.stamp + 1000 ≤ s.now → q.before r = false)) ∧
    ((∀ r ∈ s.err.transit, s.now < r.stamp + 1000) → s.arriveDue = s) ∧
    (let u := s.arriveDue
     ∀ r rest, takeLeast u.now u.err.queue = some (r, rest) → (u.mgt.paused = false ∨ 4 ≤ u.mgt.actStep) →
      Leads (exec .errorRecordHandling s) fun t => t.err.queue = rest ∧ rest.length + 1 = u.err.queue.length) ∧
    (∀ stack ch x, s.err.recoveries.find? (fun x => x.domain == 3 && x.index == chanNo stack ch && x.stop.isNone) = some x →
      x.stamp + 40000 ≤ s.now →
      Leads (exec (.persistenceCheckEnd stack ch) s) fun t => (∀ y ∈ t.err.recoveries, y.domain = 3 → y.index = chanNo stack ch →
        y.stop.isSome = true) ∧ t.mem = s.mem) ∧
    (s.err.lost ≠ 0 → Leads (exec .lgLogLost s) fun t => t.err.lost = 0 ∧ ∃ r : LogRec, t.err.log.head? = some r ∧ r.code = 0x53 ∧
      r.stamp = s.err.lostAt ∧ r.ctx = toLE 4 s.err.lost) ∧
    (∀ c struct addr, s.mgt.moduleOn = true → c < s.nCores → 1 ≤ struct → struct ≤ 5 →
      Leads (exec (.coreError c struct addr) s) fun t => (t.core c).running = false ∧
        ((s.core c).running = false → (s.core c).halting = none → (t.core c).micro.running = false) ∧
        (∃ (r : LogRec) (rs : List LogRec), t.err.transit = s.err.transit ++ r :: rs ∧ r.domain = 0 ∧ r.index = c ∧ r.code = 0x10) ∧
        (∀ d, d ≠ c → t.core d = s.core d) ∧ t.mem = s.mem) ∧
    (∀ die boundary plane column, s.mgt.moduleOn = true → die < 4 → boundary < 3 → plane < 2 → column < 9 →
      Leads (exec (.bridgeSlip die boundary plane column) s) fun t => t.slipped die = true ∧
        (∀ c, c < s.nCores → s.dieOf c = die → (t.core c).running = false ∧ t.issuing c = false) ∧
        (∀ c, s.dieOf c ≠ die → t.core c = s.core c) ∧ t.mem = s.mem ∧
        ∃ (r : LogRec) (rs : List LogRec), t.err.transit = s.err.transit ++ r :: rs ∧ r.domain = 2 ∧ r.index = die ∧ r.code = 0x11)

/-! ## Steps, margins, power and heat (spec/14 R340 to R345, R353, R354) -/

/-- At a step boundary of a glide the step becomes the one it was heading for; where that is the target the glide ends, else it heads one step
nearer and ends that step 800 ns later (spec/14 R341, R342). The firmware's evaluation, once in 100 µs, raises the step by one at most, and never
above CAP or what fits, and lowers it while a margin stands below its WARN_TH (R340; by one, the model's choice, n14). A margin that falls below
WARN_TH sets WARN and lowers the firmware step by one; while the controller restarts that step is still due (R345; spec/18 R430). One that falls
below ALARM_TH sets ALARM, retargets the glide four steps down at once, or further where the effective step is lower, and holds for 10 ms (R345). A
region that stays below ALARM_TH at F0 for 1 ms is reported (R345; spec/17 R424). A write of the thresholds takes effect only with WARN_TH above
ALARM_TH (R344). -/
def Obligations.StepChoice : Prop :=
  ∀ (s : State),
    (s.clk.gliding = true → s.clk.glideAt ≤ s.ns →
      Leads (exec .glideStep s) fun t =>
        t.clk.present = s.clk.heading ∧ t.clk.glideAt = s.clk.glideAt + 800 ∧
        t.clk.target = ((s.clk.pendTarget.map Prod.fst).getD s.clk.target) ∧ t.clk.pendTarget = none ∧
        (t.clk.gliding = true ↔ t.clk.target ≠ t.clk.present) ∧
        (t.clk.gliding = true → t.clk.heading = if t.clk.present < t.clk.target then t.clk.present + 1 else t.clk.present - 1) ∧
        t.cores = s.cores ∧ t.mem = s.mem) ∧
    (∀ rs ms fit, s.ctlDown = false → 2 ≤ s.mgt.phase → s.mgt.phase ≤ 7 →
      ((∀ a, s.clk.evalAt = some a → a + 100000 ≤ s.ns) →
        Leads (exec (.firmwareStepEvaluation rs ms fit) s) fun t => t.clk.fwStep ≤ s.clk.fwStep + 1 ∧
          t.clk.fwStep ≤ min fit s.clk.cap ∧ t.clk.cap = s.clk.cap ∧ t.clk.present = s.clk.present ∧ t.clk.evalAt = some s.ns ∧
          (ms = [] → s.marginsOk = false → t.clk.fwStep ≤ s.clk.fwStep - 1)) ∧
      (∀ a, s.clk.evalAt = some a → s.ns < a + 100000 →
        exec (.firmwareStepEvaluation rs ms fit) s = .refused (.notEnabled "FIRMWARE_STEP_EVALUATION"))) ∧
    (∀ r m, s.mgt.moduleOn = true → r < 16 → m < (s.replica r).warnTh →
      Leads (exec (.marginWarn r m) s) fun t => (t.replica r).warn = true ∧ (t.replica r).margin = m ∧ t.clk.recover = true ∧
        (s.ctlDown = false → t.clk.fwStep = min s.clk.fwStep s.clk.present - 1) ∧
        (s.ctlDown = true → t.clk.fwStep = s.clk.fwStep ∧ t.clk.warnDue = true) ∧
        t.clk.present = s.clk.present ∧ ∀ q, q ≠ r → t.replica q = s.replica q) ∧
    (∀ r m, s.mgt.moduleOn = true → r < 16 → m < (s.replica r).alarmTh →
      Leads (exec (.marginAlarm r m) s) fun t => (t.replica r).alarm = true ∧ (t.replica r).margin = m ∧ t.clk.recover = true ∧
        t.clk.present = s.clk.present ∧
        (s.clk.present ≠ 0 → s.clk.gliding = false → t.clk.gliding = true ∧ t.clk.target ≤ s.clk.present - 4 ∧
          t.clk.alarmHold.map Prod.snd = some s.ns ∧
          ((s.replica r).margin < (s.replica r).warnTh → t.clk.target = min (s.clk.present - 4) s.effectiveStep)) ∧
        (s.clk.gliding = true → t.clk.pendTarget = none ∧ t.clk.target ≤ s.clk.present - 4 ∧ t.clk.alarmHold.map Prod.snd = some s.ns)) ∧
    (∀ h, s.clk.alarmHold = some h →
      (s.ns < h.2 + 10000000 → exec .alarmHoldExpiry s = .refused (.notEnabled "ALARM_HOLD_EXPIRY")) ∧
      (h.2 + 10000000 ≤ s.ns → Leads (exec .alarmHoldExpiry s) fun t => t.clk.alarmHold = none ∧ t.clk.fwStep ≤ s.clk.fwStep ∧
        t.clk.present = s.clk.present ∧ (s.ctlDown = true → t.clk.fwStep = s.clk.fwStep))) ∧
    (∀ r m, r < 16 → m < (s.replica r).alarmTh → Tab.get 0 s.clk.badSince r ≠ 0 → s.clk.present = 0 → s.clk.gliding = false →
      max (Tab.get 0 s.clk.badSince r - 1) s.clk.f0Since + 1000000 ≤ s.ns →
      Leads (exec (.lgRegionFail r m) s) fun t => ∃ e : LogRec, t.err.transit = s.err.transit ++ [e] ∧ e.domain = 1 ∧ e.index = r ∧ e.code = 0x12) ∧
    (∀ r warn alarm, s.mgt.moduleOn = true → r < 16 → warn < 256 →
      (alarm < warn → Leads (exec (.replicaThresholdWrite r warn alarm) s) fun t =>
        t.replica r = { s.replica r with warnTh := warn, alarmTh := alarm } ∧ ∀ q, q ≠ r → t.replica q = s.replica q) ∧
      (warn ≤ alarm → Leads (exec (.replicaThresholdWrite r warn alarm) s) fun t => t.clk = s.clk))

/-- Power above the excursion ceiling lowers the target four steps at once, or further where the effective step is lower (spec/14 R353); a region
sensor at 110 °C makes the hardware glide to F0 and hold it until every one reads below 100 °C (R354); one at 120 °C is reported (R354; spec/17
R424). -/
def Obligations.PowerAndHeat : Prop :=
  ∀ (s : State), s.mgt.moduleOn = true →
    (∀ mw, s.ceilingMw < mw →
      Leads (exec (.powerGuard mw) s) fun t => t.clk.present = s.clk.present ∧ bit t.mgt.stMfr 2 = true ∧ t.mem = s.mem ∧
        (s.clk.present ≠ 0 → s.clk.gliding = false → t.clk.gliding = true ∧ t.clk.target = min (s.clk.present - 4) s.effectiveStep ∧
          t.clk.alarmHold.map Prod.snd = some s.ns) ∧
        (s.clk.present = 0 → s.clk.gliding = false → t.clk = s.clk)) ∧
    (∀ n milliC, n < 64 → 110000 ≤ milliC →
      Leads (exec (.thermalTrip n milliC) s) fun t => t.clk.thermalHold = true ∧ t.effectiveStep = 0 ∧ bit t.mgt.stTemp 7 = true ∧
        bit t.mgt.stTemp 6 = true ∧ t.sensor n = (milliC, true) ∧ t.clk.present = s.clk.present ∧
        (s.clk.present ≠ 0 → t.clk.gliding = true ∧ t.clk.target = 0) ∧ (s.clk.gliding = true → t.clk.pendTarget = none)) ∧
    (∀ rs, s.clk.thermalHold = true → (s.sample rs).regionHot 100000 = false →
      Leads (exec (.thermalTripClear rs) s) fun t => t.clk.thermalHold = false ∧ t.clk.present = s.clk.present ∧ t.clk.fwStep ≤ s.clk.fwStep ∧
        bit t.mgt.condTemp 7 = false) ∧
    (∀ n milliC, n < 64 → 120000 ≤ milliC →
      Leads (exec (.lgOvertemp n milliC) s) fun t => t.sensor n = (milliC, true) ∧ ∃ e : LogRec, t.err.transit = s.err.transit ++ [e] ∧
        e.domain = 1 ∧ e.index = n / 4 ∧ e.code = 0x35)

/-- The time base: TIME_STEP moves the counter where no run exists, and is discarded and logged where one does (spec/14 R349); a slew adds or
withholds one tick, at most once in 5,000 ns (R349); it is measured here under source 2, and is what is left of the last measured offset under
sources 1 and 3. Its sign is the model's reading (n14). A PPS edge is accepted from 999.9 ms to 1,000.1 ms after the last, or as the third of
three so spaced once none has been for 3 s, and one narrower than 100 ns is none (spec/19 R469); that none yet counts as none for 3 s is the model's
choice (n14). A lost reference is logged once, and clears LOCKED, until it has been back for 10 ms and no glide runs (R350). -/
def Obligations.TimeBase : Prop :=
  ∀ (s : State), s.mgt.moduleOn = true →
    (∀ delta, (s.anyRun = false → exec (.timeStep delta) s =
        .next { s with clk := { s.clk with now := lowBits 64 ((s.now : Int) + delta),
                                           toGo := if s.clk.toGo = 0 then 0 else s.clk.toGo + delta } }) ∧
      (s.anyRun = true → s.err.inSecond < 2000000 → Leads (exec (.timeStep delta) s) fun t => t.clk = s.clk ∧ t.mem = s.mem ∧
        ∃ r : LogRec, t.err.log.head? = some r ∧ r.code = 0x3A ∧ r.domain = 7 ∧ r.index = 4 ∧ r.ctx = toLE 8 (lowBits 64 delta))) ∧
    (∀ off : Int, s.clk.source ≠ 0 → (∀ t, s.clk.slewAt = some t → t + 5000 ≤ s.ns) → (s.clk.source ≠ 2 → off = s.clk.toGo) →
      Leads (exec (.timeSlew off) s) fun t => t.clk.slewAt = some s.ns ∧ t.now = s.now ∧
        (0 < off → t.clk.slew = s.clk.slew - 1 ∧ t.clk.toGo = off - 1) ∧ (off < 0 → t.clk.slew = s.clk.slew + 1 ∧ t.clk.toGo = off + 1) ∧
        (off = 0 → t.clk.slew = s.clk.slew) ∧
        (s.clk.source = 2 → t.clk.offset = max (-32767) (min 32767 off) ∧
          (t.clk.locked = true ↔ -10 ≤ off ∧ off ≤ 10 ∧ 15 ≤ s.clk.inBand)) ∧
        (s.clk.source ≠ 2 → t.clk.offset = s.clk.offset ∧ t.clk.locked = s.clk.locked)) ∧
    (∀ off : Int, s.clk.source ≠ 2 → off ≠ s.clk.toGo → exec (.timeSlew off) s = .refused (.notEnabled "TIME_SLEW")) ∧
    (∀ off t, s.clk.slewAt = some t → s.ns < t + 5000 → exec (.timeSlew off) s = .refused (.notEnabled "TIME_SLEW")) ∧
    (∀ width, width < 100 → exec (.ppsEdge width) s = .next s) ∧
    (∀ width, 100 ≤ width →
      let taken : Prop := Leads (exec (.ppsEdge width) s) fun t => t.clk.ppsStamp = s.now ∧ t.clk.ppsAt = some s.ns ∧ t.clk.ppsCands = [] ∧
        t.now = s.now ∧ (s.clk.source ≠ 1 → t.clk.offset = s.clk.offset ∧ t.clk.toGo = s.clk.toGo) ∧
        (s.clk.source = 1 → t.clk.toGo = if s.now % 1000000000 < 500000000 then ((s.now % 1000000000 : Nat) : Int)
          else ((s.now % 1000000000 : Nat) : Int) - 1000000000)
      (s.clk.ppsAt.isSome = true → s.clk.ppsStamp + 999900000 ≤ s.now → s.now ≤ s.clk.ppsStamp + 1000100000 → taken) ∧
      (∀ a b, (∀ t, s.clk.ppsAt = some t → t + 3000000000 ≤ s.ns) → s.clk.ppsCands = [a, b] → ppsFits a b = true →
        ppsFits b s.now = true → taken)) ∧
    (∀ width t, 100 ≤ width → s.clk.ppsAt = some t → s.ns < t + 3000000000 → s.clk.ppsStamp + 1000100000 < s.now →
      Leads (exec (.ppsEdge width) s) fun t => t.clk.ppsStamp = s.clk.ppsStamp ∧ t.clk.ppsAt = s.clk.ppsAt ∧
        t.clk.ppsRejects = s.clk.ppsRejects + 1) ∧
    (s.clk.refLost = false → Leads (exec .lgRefLost s) fun t => t.clk.refLost = true ∧ t.clk.locked = false ∧ bit t.mgt.stMfr 3 = true ∧
      exec .lgRefLost t = .refused (.notEnabled "LG_REF_LOST") ∧ (s.err.inSecond < 2000000 →
        ∃ r : LogRec, t.err.log.head? = some r ∧ r.code = 0x39)) ∧
    (s.clk.refLost = true → s.clk.gliding = false → s.clk.refLostAt + 10000000 ≤ s.ns →
      Leads (exec .referenceRestored s) fun t => t.clk.refLost = false ∧ bit t.mgt.condMfr 3 = false ∧ bit t.mgt.stMfr 3 = bit s.mgt.stMfr 3)

/-! ## Sideband inputs, kit and cooling (spec/17 R429; spec/14 R352, R357; spec/18 R438; spec/19 R470) -/

/-- RST_N asserted: the hub, the dies, the stacks, the links and every run are reset, and the controller keeps its slots, key and phase, which is 8
from hub bring-up on (spec/17 R429); released, start-up resumes at hub bring-up, PHASE 2 (spec/18 R449, R450); while it is held an entry is logged
every 10 s. While the module is off, or the input is in chatter, only the level changes; a release within 100 µs of the last change starts
chatter, in which the input still counts as asserted (R429). That the time base restarts at 0 is read from the spec by inference (n14). -/
def Obligations.ResetInput : Prop :=
  ∀ (s : State),
    let pin := s.err.rstN
    let calm : Prop := pin.changed = 0 ∨ pin.changed + 100000 < s.ns + 1
    (pin.high = true → pin.chatter = false → s.mgt.moduleOn = true →
      Leads (exec .rstNAssert s) fun t => t.err.rstN.high = false ∧ t.now = 0 ∧ t.ns = s.ns ∧ t.clk.present = 0 ∧
        t.cores = [] ∧ t.mem = [] ∧ t.parts = [] ∧ t.xfers = [] ∧ t.host.qps = [] ∧ t.links = [] ∧ t.err.hedges = [] ∧ t.err.queue = [] ∧
        t.fuses = s.fuses ∧ t.mgt.activeSlot = s.mgt.activeSlot ∧ t.mgt.slots = s.mgt.slots ∧ t.mgt.key = s.mgt.key ∧
        (2 ≤ s.mgt.phase → s.mgt.phase ≠ 15 → t.mgt.phase = 8 ∧ t.mgt.off = true) ∧
        (s.mgt.phase ≤ 1 ∨ s.mgt.phase = 15 → t.mgt.phase = s.mgt.phase)) ∧
    (pin.high = true → pin.chatter = true ∨ s.mgt.moduleOn = false →
      Leads (exec .rstNAssert s) fun t => t.err.rstN.high = false ∧ t.err.rstN.chatter = pin.chatter ∧ { t with err := s.err } = s) ∧
    (pin.high = false → pin.chatter = false → s.mgt.moduleOn = true → calm →
      Leads (exec .rstNRelease s) fun t => t.err.rstN.high = true ∧ t.mgt.phase = (if s.mgt.phase = 8 then 2 else s.mgt.phase) ∧
        { t with err := s.err, mgt := s.mgt } = s) ∧
    (pin.high = false → pin.chatter = false → s.mgt.moduleOn = true → ¬ calm →
      Leads (exec .rstNRelease s) fun t => t.err.rstN.chatter = true ∧ t.err.rstN.chatAt = s.ns ∧ t.mgt = s.mgt ∧ t.cores = s.cores ∧
        t.mem = s.mem) ∧
    (pin.high = false → pin.chatter = true ∨ s.mgt.moduleOn = false →
      Leads (exec .rstNRelease s) fun t => t.err.rstN.high = true ∧ t.err.rstN.chatter = pin.chatter ∧ { t with err := s.err } = s) ∧
    (pin.asserted = true → s.controllerRuns = true → pin.noted + 10000000000 ≤ s.ns → s.err.inSecond < 2000000 →
      Leads (exec .lgResetHeld s) fun t => t.err.rstN.noted = pin.noted + 10000000000 ∧ (∃ r : LogRec, t.err.log.head? = some r ∧
        r.code = 0x61 ∧ r.domain = 10 ∧ r.ctx = toLE 4 ((s.ns - pin.since) / 1000000000)) ∧ t.cores = s.cores ∧ t.mem = s.mem)

/-- THROTTLE_N asserted: the effective step is F0 and the hardware glides there; released, the firmware may raise the step again; while it is held an
entry is logged each second (spec/14 R357; spec/17 R429), but not beside RST_N (spec/19 R466). PRESENT_N is only reported. An input whose raw
level changes four times in 200 µs is in chatter, and counts as asserted until that level has held one value for 10 ms, which it then takes; an
entry is logged as chatter begins, in each second of it, and as it ends (R429). -/
def Obligations.SidebandInputs : Prop :=
  ∀ (s : State),
    let pin := s.err.throttleN
    let calm : Prop := pin.changed = 0 ∨ pin.changed + 100000 < s.ns + 1
    let same (t : State) : Prop := t.cores = s.cores ∧ t.mem = s.mem
    let logs (t : State) (i phase : Nat) : Prop := s.mgt.booted = true → s.mgt.phase ≠ 15 → s.err.inSecond < 2000000 →
      ∃ r ∈ t.err.log, r.code = 0x60 ∧ r.domain = 10 ∧ r.index = i ∧ r.ctx = toLE 1 phase
    (pin.high = true → pin.chatter = false → s.mgt.moduleOn = true →
      Leads (exec .throttleNAssert s) fun t => t.clk.throttle = true ∧ t.effectiveStep = 0 ∧ t.err.throttleN.high = false ∧
        t.clk.present = s.clk.present ∧ (s.clk.present ≠ 0 → s.clk.gliding = false → t.clk.gliding = true ∧ t.clk.target = 0) ∧
        (s.clk.gliding = true → t.clk.pendTarget = some (0, 5)) ∧ same t) ∧
    (pin.high = true → pin.chatter = true ∨ s.mgt.moduleOn = false →
      Leads (exec .throttleNAssert s) fun t => t.err.throttleN.high = false ∧ { t with err := s.err } = s) ∧
    (pin.high = false → pin.chatter = false → s.mgt.moduleOn = true → calm →
      Leads (exec .throttleNRelease s) fun t => t.clk.throttle = false ∧ t.err.throttleN.high = true ∧ t.clk.present = s.clk.present ∧
        t.clk.fwStep ≤ s.clk.fwStep ∧ same t) ∧
    (pin.high = false → pin.chatter = false → s.mgt.moduleOn = true → ¬ calm →
      Leads (exec .throttleNRelease s) fun t => t.err.throttleN.chatter = true ∧ t.err.throttleN.chatAt = s.ns ∧ t.clk = s.clk ∧ same t) ∧
    (pin.asserted = true → s.err.rstN.asserted = false → s.controllerRuns = true → pin.noted + 1000000000 ≤ s.ns → s.err.inSecond < 2000000 →
      Leads (exec .lgThrottle s) fun t => t.err.throttleN.noted = pin.noted + 1000000000 ∧ (∃ r : LogRec, t.err.log.head? = some r ∧
        r.code = 0x38 ∧ r.domain = 10 ∧ r.ctx = toLE 4 ((s.ns - pin.since) / 1000000000)) ∧ t.clk = s.clk) ∧
    (∀ level, s.err.presentN.high ≠ level →
      Leads (exec (.presentNChange level) s) fun t => t.err.presentN.high = level ∧ t.mgt = s.mgt ∧ t.clk = s.clk ∧ same t) ∧
    (∀ i a b c d rest, i < 3 → (s.pin i).chatter = false → s.mgt.moduleOn = true → a ≤ s.ns → b ≤ a → c ≤ b → d ≤ c → a ≤ d + 200000 →
      Leads (exec (.sidebandChatterEntry ⟨i, a :: b :: c :: d :: rest⟩) s) fun t => (t.pin i).chatter = true ∧ (t.pin i).asserted = true ∧
        (t.pin i).rawAt = a ∧ logs t i 0 ∧
        (i = 0 → (s.pin i).high = true → 2 ≤ s.mgt.phase → s.mgt.phase ≠ 15 → t.mgt.phase = 8) ∧
        (i = 1 → (s.pin i).high = true → t.clk.throttle = true)) ∧
    (∀ i rest last level, i < 3 → (s.pin i).chatter = true → (s.pin i).rawAt ≤ last → last + 10000000 ≤ s.ns →
      Leads (exec (.sidebandChatterExit ⟨i, last :: rest⟩ level) s) fun t => (t.pin i).chatter = false ∧ (t.pin i).high = level ∧ logs t i 2 ∧
        same t) ∧
    (∀ i, i < 3 → (s.pin i).chatter = true → s.controllerRuns = true → (s.pin i).chatNoted + 1000000000 ≤ s.ns →
      Leads (exec (.lgSidebandChatter i) s) fun t => (t.pin i).chatNoted = (s.pin i).chatNoted + 1000000000 ∧ (t.pin i).chatter = true ∧
        logs t i 1 ∧ t.mem = s.mem)

/-- A kit whose record names another kind than its key, an inlet temperature that is missing for 1 s, or the flow of a LIQUID kit below 1.0 L/min
for 1 s forces the profile FLOOR; the keyed one returns once the kit has borne out its key, and cooled, for 10 s (spec/14 R352). -/
def Obligations.KitAndCooling : Prop :=
  ∀ (s : State), s.controllerRuns = true →
    let noted (t : State) : Prop :=
      t.mgt.matchAt = (if s.kitMismatch && !t.kitMismatch then s.ns else s.mgt.matchAt) ∧ { t with mgt := s.mgt } = s
    (∀ key, s.mgt.key ≠ key % 8 →
      Leads (exec (.keyChange key) s) fun t => t.mgt.key = key % 8 ∧ t.mgt.kitKind = s.mgt.kitKind ∧ noted t) ∧
    (∀ kind serial, Leads (exec (.kitRecordRead kind serial) s) fun t =>
      t.mgt.kitKind = kind % 8 ∧ t.mgt.kitSerial = serial ∧ t.mgt.key = s.mgt.key ∧ noted t) ∧
    (s.kitMismatch = true → bit s.clk.floorForced 0 = false →
      Leads (exec .lgKitMismatch s) fun t => bit t.clk.floorForced 0 = true ∧ t.chosenProfile = 0 ∧ t.mgt.forcedAt = s.ns ∧
        bit t.mgt.stMfr 1 = true ∧ t.mem = s.mem) ∧
    ((s.mgt.key ≠ 2 → (s.coolingLost = true ↔ s.mgt.inletAt + 1000000000 ≤ s.ns)) ∧
      (s.mgt.key = 2 → (s.coolingLost = true ↔ ∃ t, s.mgt.flowLowAt = some t ∧ t + 1000000000 ≤ s.ns))) ∧
    (profileOfKey s.mgt.key ≠ 0 → bit s.clk.floorForced 1 = false → s.coolingLost = true →
      Leads (exec (.lgCoolingLost s.coolingSensor) s) fun t => bit t.clk.floorForced 1 = true ∧ t.chosenProfile = 0 ∧ t.mgt.forcedAt = s.ns ∧
        bit t.mgt.stMfr 1 = true ∧ (s.mgt.key ≠ 2 → (t.sensor 128).2 = false) ∧ t.mem = s.mem) ∧
    (s.clk.floorForced ≠ 0 → s.kitMismatch = false → s.coolingLost = false → s.kitGoodSince + 10000000000 ≤ s.ns →
      Leads (exec .coolingRestored s) fun t => t.clk.floorForced = 0 ∧ t.chosenProfile = profileOfKey s.mgt.key ∧ bit t.mgt.condMfr 1 = false)

/-! ## Input, boot and start-up (spec/18 R437, R441, R442, R448 to R450; spec/19 R461 to R464) -/

/-- The 72 V input: valid, it starts the module up; below 56 V for 20 µs, above 85 V or above 120 A the hot-swap opens, and what is neither fused
nor in flash is lost (spec/19 R461 to R464); the breaker's latch ends once the bulk node has been below 56 V for 1 s (R464). A crossed threshold
sets the status bits (spec/18 R437). The fault beyond the limits of R461 is the model's, and so is that an undervoltage in a module that is off
is what ends the latch (n14). -/
def Obligations.InputRail : Prop :=
  ∀ (s : State) (mv : Int),
    (damaging mv = true → ∀ n, ∀ x ∈ [Instr.bulkUndervoltage ⟨mv, n⟩, .inputOvervoltage mv, .inputThresholdCrossing mv],
      exec x s = .fault .mayBeDamaged) ∧
    (60000 ≤ mv → mv ≤ 80000 → s.mgt.moduleOn = false → s.mgt.latched = false →
      exec (.inputValid mv) s = .next { s with mgt := { s.mgt with moduleOn := true, inputMv := mv } }) ∧
    (∀ n, damaging mv = false → mv < 56000 → 20000 ≤ n →
      (s.mgt.moduleOn = true →
        Leads (exec (.bulkUndervoltage ⟨mv, n⟩) s) fun t => t.mgt.moduleOn = false ∧ t.mgt.phase = 0 ∧ t.cores = [] ∧ t.mem = [] ∧ t.parts = [] ∧
          t.fuses = s.fuses ∧ t.mgt.slots = s.mgt.slots ∧ t.mgt.activeSlot = s.mgt.activeSlot ∧ t.mgt.staged = s.mgt.staged ∧
          t.mgt.kitSerial = s.mgt.kitSerial ∧ t.mgt.latched = s.mgt.latched) ∧
      (s.mgt.moduleOn = false → exec (.bulkUndervoltage ⟨mv, n⟩) s =
        .next { s with mgt := { s.mgt with inputMv := mv, latched := s.mgt.latched && decide (n < 1000000000) } })) ∧
    (damaging mv = false → 85000 < mv →
      Leads (exec (.inputOvervoltage mv) s) fun t => t.mgt.moduleOn = false ∧ t.mgt.inputMv = mv ∧ t.fuses = s.fuses ∧
        t.mgt.slots = s.mgt.slots) ∧
    (damaging mv = false →
      Leads (exec (.inputThresholdCrossing mv) s) fun t => t.mgt.inputMv = mv ∧ t.mgt.phase = s.mgt.phase ∧
        (s.mgt.moduleOn = true → s.mgt.booted = true → 2 ≤ s.mgt.phase →
          (∀ x ∈ [(7, decide (80000 < mv)), (6, decide (78000 < mv)), (5, decide (mv < 62000)), (4, decide (mv < 60000))],
            bit t.mgt.condInput x.1 = x.2 ∧ bit t.mgt.stInput x.1 = (bit s.mgt.stInput x.1 || x.2)) ∧
          t.mgt.vinUv = (s.mgt.vinUv || decide (mv < 60000)))) ∧
    (∀ ma, 120000 < ma → s.mgt.moduleOn = true →
      Leads (exec (.inputBreaker ma) s) fun t => t.mgt.moduleOn = false ∧ t.mgt.latched = true ∧ t.fuses = s.fuses ∧
        exec (.inputValid 72000) t = .refused (.notEnabled "INPUT_VALID"))

/-- The boot ROM runs the active slot if it passes its checks, else the other, else it stops in PHASE 15 (spec/18 R441); the controller checks the
other components, and goes to the other slot where one fails (R442). Start-up: PHASE shows the step in progress (R449), which moves on by one as
each step ends; stacks come up zero with every channel ON, the links of dies in service train, and ports lock. A unit that fails its test or its
training is hedged, at once or through its record, and a controller or a hub that fails leaves PHASE where it is, with ALERT_N asserted (R450). A
cable of no supported kind gets no supply (spec/19 R460). -/
def Obligations.StartUp : Prop :=
  ∀ (s : State),
    let a := s.mgt.activeSlot
    let sv := s.fuses.svMin
    let bad (i : Nat) : Bool := ((s.slotOf i).fails sv).isSome
    let raised (t : State) (domain index code : Nat) : Prop := ∃ r ∈ t.err.transit, r.domain = domain ∧ r.index = index ∧ r.code = code
    (∀ slotId, s.mgt.moduleOn = true → s.mgt.booted = false → s.mgt.phase = 0 →
      Leads (exec (.bootRom slotId) s) fun t => t.mgt.booted = true ∧ t.mgt.slotId = slotId % 64 ∧
        (bad a = false → t.mgt.activeSlot = a ∧ t.mgt.phase = 1 ∧ t.mgt.mgtVer = (s.slotOf a).mgtVer ∧ t.mgt.cpVer = (s.slotOf a).cpVer) ∧
        (bad a = true → bad (1 - a) = false → t.mgt.activeSlot = 1 - a ∧ t.mgt.phase = 1 ∧ t.mgt.mgtVer = (s.slotOf (1 - a)).mgtVer ∧
          t.mgt.fallback.map Prod.fst = some a) ∧
        (bad a = true → bad (1 - a) = true → t.mgt.phase = 15 ∧ bit t.mgt.stMfr 4 = true)) ∧
    (∀ rs key kind serial, s.controllerRuns = true → s.mgt.phase = 1 →
      (key.started = true → Leads (exec (.controllerReady rs key kind serial) s) fun t =>
        t.mgt.phase = (if s.err.rstN.asserted then 8 else 2) ∧ t.mgt.key = key.code % 8 ∧ t.mgt.kitKind = kind % 8 ∧ t.mgt.kitSerial = serial ∧
        t.mgt.profile = t.chosenProfile) ∧
      (key.started = false → Leads (exec (.controllerReady rs key kind serial) s) fun t => t.mgt.phase = 1 ∧ t.alertN = true)) ∧
    (∀ r : HubReport, s.controllerRuns = true → s.mgt.phase = 2 → s.mgt.failed = false →
      ((s.slotOf a).partsOk = false →
        Leads (exec (.hubUp r) s) fun t => ((s.slotOf (1 - a)).unfit sv = none → t.mgt.activeSlot = 1 - a ∧ t.mgt.phase = 1) ∧
          ((s.slotOf (1 - a)).unfit sv ≠ none → t.mgt.phase = 15)) ∧
      ((s.slotOf a).partsOk = true → r.failed = true →
        Leads (exec (.hubUp r) s) fun t => t.mgt.phase = 2 ∧ t.alertN = true ∧ exec (.hubUp r) t = .refused (.notEnabled "HUB_UP")) ∧
      ((s.slotOf a).partsOk = true → r.failed = false →
        Leads (exec (.hubUp r) s) fun t => t.mgt.phase = 3 ∧ t.clk.refLost = !r.refPresent ∧ t.clk.present = s.clk.present ∧
          bit t.mgt.condMfr 3 = !r.refPresent)) ∧
    (∀ cores regions dies, s.mgt.phase = 3 →
      Leads (exec (.builtInTestDone cores regions dies) s) fun t => t.mgt.phase = 4 ∧ (∀ c ∈ cores, c < s.nCores → raised t 0 c 0x10) ∧
        (∀ r ∈ regions, r < 16 → raised t 1 r 0x12) ∧ ∀ d ∈ dies, d < 4 → raised t 2 d 0x11) ∧
    (∀ failed, s.mgt.phase = 4 →
      Leads (exec (.stackTrainingDone failed) s) fun t => t.mgt.phase = 5 ∧ (∀ n, (t.chan n).state = 0) ∧
        (failed = [] → ∀ a, Memory.get t.mem a = 0) ∧ (∀ k ∈ failed, k < 20 → ∀ c, c < 32 → t.hedgedUnit 3 (chanNo k c) = true) ∧
        ∀ l, l < 64 → if s.dieHedged (l / 16) || s.hedgedUnit 4 l then (t.link l).state = 4
          else (t.link l).state = 1 ∧ (t.link l).step = 1 ∧ (t.link l).upto = 6) ∧
    (∀ r : LinkReport, s.mgt.phase = 5 → (∀ l, l < 64 → (s.link l).step = 0 ∧
        (if l ∈ r.failed then (s.link l).state = 0 ∨ (s.link l).state = 4 else (s.link l).state ≠ 0)) →
      Leads (exec (.linkTrainingDone r) s) fun t => t.mgt.phase = 6 ∧ t.links = s.links ∧
        ∀ c, r.cables = [c] → t.cable3v3 c.connector = (c.present && c.kind != 0) ∧ (t.cable3v3 c.connector = false → s.err.inSecond < 2000000 →
          ∃ e : LogRec, t.err.log.head? = some e ∧ e.domain = 4 ∧ e.index = 8 * c.connector)) ∧
    (∀ failed, s.mgt.phase = 6 → s.mgt.portsDone = false →
      Leads (exec (.portTrainingDone failed) s) fun t => t.mgt.phase = 6 ∧ t.mgt.portsDone = true ∧
        (∀ e, e < 8 → e ∉ failed → bit t.host.locked e = true) ∧ ∀ e ∈ failed, e < 8 → raised t 5 e 0x42) ∧
    (s.mgt.phase = 6 → s.mgt.portsDone = true → exec .moduleReady s = .next { s with mgt := { s.mgt with phase := 7 } })

/-! ## PMBus (spec/18 R435 to R437; spec/19 R467) -/

/-- LINEAR11: the word of a value in milli-units holds Y in its low 11 bits and N in its high 5, with the magnitude of Y at most 1,023, N the most negative
that allows it, and Y × 2^N within one unit of Y of the value, equal to it where it can be (spec/18 R435). Which of the two neighbours it takes is a free
value (n4). -/
def Obligations.Linear11 : Prop :=
  ∀ v : Int, v.natAbs ≤ 1023 * 1000 * 2 ^ 15 →
    let w := leNat (linear11 v)
    let y := signed 11 (w % 2048)
    let n := signed 5 (w / 2048)
    let unit : Int := 1000 * 2 ^ (n + 16).toNat
    (linear11 v).length = 2 ∧ y.natAbs ≤ 1023 ∧ (y * unit - v * 65536).natAbs < unit.natAbs ∧ (unit ∣ v * 65536 → y * unit = v * 65536) ∧
      (-16 < n → 1023 * (1000 * 2 ^ (n + 15).toNat) < (v * 65536).natAbs)

/-- The PMBus reads answer what spec/18 R436 and R437 give, and change nothing else. PAGE holds 0 alone; CLEAR_FAULTS clears the latched bits whose
condition has ended; any other code sets CML bit 7, and a wrong PEC bit 5, with nothing else done; the Alert Response Address is answered while
ALERT_N is asserted (R435 to R437). -/
def Obligations.PmbusCommands : Prop :=
  ∀ s : State, s.pmServed = true →
    let answers (i : Instr) (bs : List Byte) : Prop := exec i s = .next (s.send (.smbus bs))
    answers (.capability true) [0xB0] ∧ answers (.statusByte true) (toLE 1 s.pmStatus) ∧ answers (.statusWord true) (toLE 2 s.pmStatus) ∧
    answers (.statusInput true) (toLE 1 s.mgt.stInput) ∧ answers (.statusTemperature true) (toLE 1 s.mgt.stTemp) ∧
    answers (.statusCml true) (toLE 1 s.mgt.stCml) ∧ answers (.statusMfrSpecific true) (toLE 1 s.mgt.stMfr) ∧
    answers (.readVin true) (linear11 (s.sensorValue 84).1) ∧ answers (.readIin true) (linear11 (s.sensorValue 85).1) ∧
    answers (.readPin true) (linear11 (s.sensorValue 87).1) ∧ answers (.readTemperature3 true) (linear11 (s.sensorValue 128).1) ∧
    answers (.readTemperature1 true) (linear11 (s.hottest 0 64)) ∧ answers (.readTemperature2 true) (linear11 (s.hottest 64 20)) ∧
    answers (.pmbusRevision true) [0x33] ∧ answers (.mfrId true) [7, 0x4D, 0x45, 0x4C, 0x4B, 0x49, 0x4F, 0x57] ∧
    answers (.mfrModel true) (block s.partNumber) ∧ answers (.mfrRevision true) (block (hexDigits 8 s.mgt.mgtVer)) ∧
    (s.fuses.moduleSerial.length = 12 → answers (.mfrSerial true) (12 :: s.fuses.moduleSerial)) ∧
    answers (.mfrModuleState true) (8 :: s.moduleState) ∧
    bit s.pmStatus 13 = (s.mgt.stInput != 0) ∧ bit s.pmStatus 12 = (s.mgt.stMfr != 0) ∧ bit s.pmStatus 6 = s.mgt.off ∧
    bit s.pmStatus 3 = s.mgt.vinUv ∧ bit s.pmStatus 2 = (s.mgt.stTemp != 0) ∧ bit s.pmStatus 1 = (s.mgt.stCml != 0) ∧
    (∀ n a, n < 64 → a = s.sensorValue n → a.2 = true → a.1 ≤ s.hottest 0 64) ∧
    exec (.page none true) s = .next (s.send (.smbus (toLE 1 s.mgt.page))) ∧
    exec (.page (some 0) true) s = .next { s with mgt := { s.mgt with page := 0 } } ∧
    (∀ v, v ≠ 0 → Leads (exec (.page (some v) true) s) fun t => bit t.mgt.stCml 6 = true ∧ t.mgt.page = s.mgt.page) ∧
    Leads (exec (.clearFaults true) s) (fun t => t.mgt.stCml = 0 ∧ (∀ i, bit t.mgt.stInput i = (bit s.mgt.stInput i && bit s.mgt.condInput i)) ∧
      (∀ i, bit t.mgt.stTemp i = (bit s.mgt.stTemp i && bit s.mgt.condTemp i)) ∧
      (∀ i, bit t.mgt.stMfr i = (bit s.mgt.stMfr i && bit s.mgt.condMfr i)) ∧ t.mgt.off = (s.mgt.off && s.err.rstN.asserted) ∧
      { t with mgt := s.mgt } = s) ∧
    (∀ code, code < 256 → pmCodes.contains code = false →
      Leads (exec (.pmbusUnsupportedCommand code true) s) fun t => bit t.mgt.stCml 7 = true ∧ t.host.sent = .smbusNack :: s.host.sent) ∧
    (∀ x ∈ [Instr.page none false, .clearFaults false, .capability false, .statusByte false, .statusWord false, .statusInput false,
        .statusTemperature false, .statusCml false, .statusMfrSpecific false, .readVin false, .readIin false, .readTemperature1 false,
        .readTemperature2 false, .readTemperature3 false, .readPin false, .pmbusRevision false, .mfrId false, .mfrModel false, .mfrRevision false,
        .mfrSerial false, .mfrModuleState false],
      Leads (exec x s) fun t => bit t.mgt.stCml 5 = true ∧ { t with mgt := s.mgt } = s) ∧
    (s.alertN = true → exec .alertResponse s = .next (s.send .alertAddress)) ∧ (s.alertN = false → exec .alertResponse s = .next s)

/-! ## Micro mode (spec/09) -/

/-- MICRO is set on an idle core whose tags are free: registers are zero and every stockpot row is closed (spec/09 R228, R231); cleared, rows,
planes and blocks stay (R234). GO starts at ENTRY, of 19 bits and a multiple of 4; a write while the core works is discarded (R230). A micro run
ends at ABORT, at its time limit, which comes before an ABORT, and at an illegal instruction; the last two with their MFC, PC at the
instruction, and a record (R232, R241, R244). -/
def Obligations.MicroControl : Prop :=
  ∀ (s : State) (c : Nat), c < s.nCores → s.mgt.moduleOn = true →
    let k := s.core c
    let faults (t : State) (mfc : Nat) : Prop := (t.core c).micro.running = false ∧ (t.core c).micro.faulted = true ∧
      (t.core c).micro.mfc = mfc ∧ (t.core c).micro.g = k.micro.g ∧ (∀ d, d ≠ c → t.core d = s.core d) ∧ t.mem = s.mem ∧
      ∃ r : LogRec, t.err.transit = s.err.transit ++ [r] ∧ r.domain = 0 ∧ r.index = c ∧ r.code = 0x11
    (k.working = false → s.heldTags c = [] → k.micro.on = false → ∀ priv entry,
      Leads (exec (.microModeEnter c priv entry) s) fun t => s.CoreEffect t c (t.core c) ∧ (t.core c).micro.on = true ∧
        (t.core c).micro.priv = priv ∧ (t.core c).micro.entry = entry % 2 ^ 19 / 4 * 4 ∧ (t.core c).micro.running = false ∧
        (∀ r, (t.core c).micro.reg r = 0) ∧ (∀ a, Memory.get (t.core c).micro.v a = 0) ∧ (t.core c).micro.shadowBeats = 0 ∧
        (∀ r, ((t.core c).row r).isOpen = false) ∧ (t.core c).scratch = k.scratch ∧ (t.core c).stock = k.stock) ∧
    (k.working = true → ∀ priv entry, ∀ x ∈ [Instr.microModeEnter c priv entry, .microModeExit c, .go c priv entry],
      Leads (exec x s) fun t => t.cores = s.cores) ∧
    (k.working = false →
      Leads (exec (.microModeExit c) s) fun t => s.CoreEffect t c (t.core c) ∧ (t.core c).micro.on = false ∧ (t.core c).rows = k.rows ∧
        (t.core c).stock = k.stock ∧ (t.core c).active = k.active ∧ (t.core c).shadow = k.shadow ∧ (t.core c).pstore = k.pstore ∧
        (t.core c).pvalid = k.pvalid ∧ (t.core c).dtable = k.dtable ∧ (t.core c).dvalid = k.dvalid ∧ (t.core c).scratch = k.scratch) ∧
    (k.working = false → s.heldTags c = [] → ∀ priv entry,
      Leads (exec (.go c priv entry) s) fun t => s.CoreEffect t c (t.core c) ∧ (t.core c).micro.running = true ∧
        (t.core c).micro.pc = entry % 2 ^ 19 / 4 * 4 ∧ (t.core c).micro.halted = false ∧ (t.core c).micro.faulted = false ∧
        (t.core c).micro.aborted = false ∧ (t.core c).micro.mfc = 0 ∧ (t.core c).micro.exit = 0 ∧ (t.core c).micro.goStamp = s.now ∧
        (priv = false → (t.core c).micro.limit ≠ 0)) ∧
    (k.micro.running = true → k.micro.overtime s.now = false →
      Leads (exec (.abort c) s) fun t => s.CoreEffect t c { k with micro := { k.micro with running := false, pc := k.micro.last, aborted := true } }) ∧
    (k.micro.running = false → exec (.abort c) s = .next s) ∧
    (k.micro.running = true → k.micro.overtime s.now = true → ∀ x ∈ [Instr.abort c, .microTimeLimit c],
      Leads (exec x s) fun t => faults t 6 ∧ (t.core c).micro.pc = k.micro.last) ∧
    (s.microTakes c = true → s.microLegal c (s.microWord c) = false →
      Leads (exec (.illegalInstruction c) s) fun t => faults t 1 ∧ (t.core c).micro.pc = k.micro.pc)

/-- The register instructions write GD with their result modulo 2^64, a write to G0 being discarded, and change nothing else but the PC (R228, R229,
R238). A taken branch goes to PC + 4 × its offset; JAL and JR write PC + 4; MSYS reads what its code selects; MHALT ends the run with its exit
code (R232, R238). That the targets of branches and JAL are taken modulo the program store is read from the spec by inference (n13). -/
def Obligations.MicroRegisterOps : Prop :=
  ∀ (s : State) (c : Nat),
    let m := (s.core c).micro
    let w := s.microWord c
    let d := m.reg (mD w)
    let a := m.reg (mA w)
    let b := m.reg (mB w)
    let wrap (i : Int) : Nat := (i % (2 ^ 64 : Int)).toNat
    let becomes (opc : Nat) (x : Instr) (n : Micro) : Prop := s.microReady c opc = true → Leads (exec x s) fun t => s.MicroEffect t c n
    let gives (opc : Nat) (x : Instr) (v : Nat) : Prop := becomes opc x (m.past.setReg (mD w) v)
    let at_ (off : Int) : Nat := (((m.pc : Int) + 4 * off) % (2 ^ 19 : Int)).toNat
    let branch (p : Prop) [Decidable p] : Micro := if p then { m.past with pc := at_ (signed 16 w) } else m.past
    gives 0x01 (.add c) (a + b) ∧ gives 0x02 (.sub c) (wrap ((a : Int) - b)) ∧ gives 0x03 (.and c) (a &&& b) ∧
    gives 0x04 (.or c) (a ||| b) ∧ gives 0x05 (.xor c) (a ^^^ b) ∧ gives 0x06 (.shl c) (a * 2 ^ (b % 64)) ∧
    gives 0x07 (.shr c) (a / 2 ^ (b % 64)) ∧ gives 0x08 (.sar c) (wrap (signed 64 a / ((2 ^ (b % 64) : Nat) : Int))) ∧
    gives 0x09 (.mul c) (a * b) ∧ gives 0x0A (.mulhu c) (a * b / 2 ^ 64) ∧
    gives 0x0B (.slt c) (if signed 64 a < signed 64 b then 1 else 0) ∧ gives 0x0C (.sltu c) (if a < b then 1 else 0) ∧
    gives 0x10 (.addi c) (wrap ((a : Int) + signed 16 w)) ∧ gives 0x11 (.andi c) (a &&& (w % 65536)) ∧
    gives 0x12 (.ori c) (a ||| (w % 65536)) ∧ gives 0x13 (.xori c) (a ^^^ (w % 65536)) ∧ gives 0x14 (.shli c) (a * 2 ^ (w % 64)) ∧
    gives 0x15 (.shri c) (a / 2 ^ (w % 64)) ∧ gives 0x16 (.lui c) (wrap (signed 16 w * 65536)) ∧
    (∀ v, (m.past.setReg 0 v).reg 0 = 0 ∧ (∀ i, 0 < i → (m.past.setReg i v).reg i = v % 2 ^ 64) ∧
      ∀ i j, i ≠ j → (m.past.setReg i v).reg j = m.reg j) ∧
    becomes 0x20 (.beq c) (branch (d = a)) ∧ becomes 0x21 (.bne c) (branch (d ≠ a)) ∧
    becomes 0x22 (.blt c) (branch (signed 64 d < signed 64 a)) ∧ becomes 0x23 (.bltu c) (branch (d < a)) ∧
    becomes 0x28 (.jal c) { m.past.setReg (mD w) (m.pc + 4) with pc := at_ (signed 21 w) } ∧
    becomes 0x29 (.jr c) { m.past.setReg (mD w) (m.pc + 4) with pc := a % 2 ^ 19 / 4 * 4 } ∧
    (w % 65536 = 0 → gives 0x30 (.msys c) s.now) ∧
    (w % 65536 = 1 → gives 0x30 (.msys c) (s.cyc - m.goCycle)) ∧
    (w % 65536 = 2 → gives 0x30 (.msys c) c) ∧
    (w % 65536 = 3 → gives 0x30 (.msys c) (s.coreProfile c)) ∧
    becomes 0x3F (.mhalt c) { m.past with running := false, pc := m.pc, halted := true, exit := w % 65536 }

/-- Loads and stores of the core's own scratchpad, which lies at the bottom of address space 0: the bytes at the address, little-endian, go to or
come from the register; an address that is not a multiple of the size faults with MFC 2 and writes nothing (spec/09 R235, R236, R238, R239,
R244), wherever it leads: that alignment is checked before the place is read from the spec by inference (n13). An access of memory or of another
core's scratchpad is a transfer: while its tokens lack it waits (R236; spec/11 R284). -/
def Obligations.MicroMemory : Prop :=
  ∀ (s : State) (c : Nat),
    let k := s.core c
    let m := k.micro
    let w := s.microWord c
    let ea := m.ea w
    let va := m.reg (mGA w)
    let stored (a : Nat) (bs : List Byte) : Core := { k with micro := m.past, scratch := Memory.write k.scratch a bs }
    (s.microReady c 0x18 = true → ea < 0xC00000 → ea % 8 = 0 →
      Leads (exec (.ld c) s) fun t => s.MicroEffect t c (m.past.setReg (mD w) (Memory.nat k.scratch ea 8))) ∧
    (s.microReady c 0x19 = true → ea < 0xC00000 → ea % 4 = 0 →
      Leads (exec (.lw c) s) fun t => s.MicroEffect t c (m.past.setReg (mD w) (Memory.nat k.scratch ea 4))) ∧
    (s.microReady c 0x1A = true → ea < 0xC00000 → ea % 8 = 0 →
      Leads (exec (.sd c) s) fun t => s.CoreEffect t c (stored ea (toLE 8 (m.reg (mD w))))) ∧
    (s.microReady c 0x1B = true → ea < 0xC00000 → ea % 4 = 0 →
      Leads (exec (.sw c) s) fun t => s.CoreEffect t c (stored ea (toLE 4 (m.reg (mD w))))) ∧
    (s.microReady c 0x38 = true → va < 0xC00000 → va % 512 = 0 →
      Leads (exec (.vld c) s) fun t => s.MicroEffect t c (m.past.setVec (mVD w) (Memory.read k.scratch va 512))) ∧
    (s.microReady c 0x39 = true → va < 0xC00000 → va % 512 = 0 →
      Leads (exec (.vst c) s) fun t => s.CoreEffect t c (stored va (m.vec (mVA w)))) ∧
    (∀ a bs x, Memory.get (Memory.write k.scratch a bs) x = if a ≤ x ∧ x < a + bs.length then bs.getD (x - a) 0 else Memory.get k.scratch x) ∧
    (∀ p ∈ [(0x18, Instr.ld c, ea, 8), (0x19, .lw c, ea, 4), (0x1A, .sd c, ea, 8), (0x1B, .sw c, ea, 4), (0x38, .vld c, va, 512),
        (0x39, .vst c, va, 512)], s.microReady c p.1 = true → p.2.2.1 % p.2.2.2 ≠ 0 →
      Leads (exec p.2.1 s) fun t => (t.core c).micro.faulted = true ∧ (t.core c).micro.mfc = 2 ∧ (t.core c).micro.pc = m.pc ∧
        (t.core c).micro.g = m.g ∧ (t.core c).micro.v = m.v ∧ (t.core c).scratch = k.scratch ∧ t.mem = s.mem) ∧
    (∀ p ∈ [(0x18, Instr.ld c), (0x19, .lw c), (0x1A, .sd c), (0x1B, .sw c), (0x38, .vld c), (0x39, .vst c)], s.microReady c p.1 = true →
      s.mayPay c (s.microCounted c w m.pc) = false → exec p.2 s = .next s)

/-- VOP computes each element of VD from the elements of VA and VB at its place, or from GA for a broadcast, and no other byte of the vector registers
changes; VEXT and VINS move one element (R239). -/
def Obligations.MicroVector : Prop :=
  ∀ (s : State) (c : Nat),
    let m := (s.core c).micro
    let w := s.microWord c
    (s.microReady c 0x3A = true →
      Leads (exec (.vop c) s) fun t =>
        let n := etBytes (mET w)
        let v := (t.core c).micro.v
        (∀ i, i < 512 / n →
          let x := Memory.nat m.v (512 * mVA w + n * i) n
          let y := Memory.nat m.v (512 * mVB w + n * i) n
          Memory.nat v (512 * mVD w + n * i) n = (if mFN w = 8 then m.reg (mGA w)
            else if mET w = 4 ∧ mFN w < 5 then (fpElem (mFN w) x y).1 else intElem n (mFN w) x y) % 256 ^ n) ∧
        (∀ a, a < 512 * mVD w ∨ 512 * mVD w + 512 ≤ a → Memory.get v a = Memory.get m.v a) ∧
        (t.core c).micro.g = m.g ∧ (t.core c).micro.pc = (m.pc + 4) % 2 ^ 19 ∧ (t.core c).scratch = (s.core c).scratch ∧
        (∀ d, d ≠ c → t.core d = s.core d) ∧ t.mem = s.mem) ∧
    (s.microReady c 0x3B = true →
      Leads (exec (.vext c) s) fun t =>
        let n := etBytes (mEET w)
        let x := Memory.nat m.v (512 * mEVA w + n * mIdx w) n
        s.MicroEffect t c (m.past.setReg (mD w) (if mEET w = 4 then x else (signed (8 * n) x % (2 ^ 64 : Int)).toNat))) ∧
    (s.microReady c 0x3C = true →
      Leads (exec (.vins c) s) fun t =>
        let n := etBytes (mEET w)
        s.MicroEffect t c { m.past with v := Memory.write m.v (512 * mEVA w + n * mIdx w) (toLE n (m.reg (mD w))) })

/-- MOPEN opens a row with L from GB; MWLD loads the next beat of the shadow plane; MSWAP exchanges the planes; MROW adds the terms of one activation row;
MRD and MRDX read an element of an open row; of a closed one they fault with MFC 8 (R240, R244). -/
def Obligations.MicroMatrix : Prop :=
  ∀ (s : State) (c : Nat),
    let k := s.core c
    let m := k.micro
    let w := s.microWord c
    let a := m.reg (mA w)
    let b := m.reg (mB w)
    (s.microReady c 0x34 = true →
      Leads (exec (.mopen c) s) fun t => s.CoreEffect t c (t.core c) ∧ ((t.core c).row (a % 1024)).isOpen = true ∧
        ((t.core c).row (a % 1024)).fmt = b / 2 ^ 16 % 32 ∧
        (∀ j, j < 128 → (t.core c).elem (a % 1024) j = { v := 0, l := signed 16 b, s := .finite }) ∧
        (∀ r, r ≠ a % 1024 → (t.core c).row r = k.row r ∧ ∀ j, j < 128 → (t.core c).elem r j = k.elem r j) ∧
        (t.core c).scratch = k.scratch ∧ (t.core c).micro.g = m.g) ∧
    (s.microReady c 0x35 = true → m.shadowBeats < m.planeBeats →
      Leads (exec (.mwld c) s) fun t => s.CoreEffect t c
        { k with shadow := putBeat k.shadow m.shadowBeats (m.vec (mVA w)), micro := { m.past with shadowBeats := m.shadowBeats + 1 } }) ∧
    (s.microReady c 0x36 = true →
      Leads (exec (.mswap c) s) fun t => s.CoreEffect t c
        { k with active := k.shadow, shadow := k.active, micro := { m.past with shadowBeats := 0 } }) ∧
    (∀ (f : Fmt) (n : Core), s.microReady c 0x37 = true → (k.row (m.reg (mGA w) % 1024)).isOpen = true →
      Fmt.ofCode (k.row (m.reg (mGA w) % 1024)).fmt = some f →
      ({ k with micro := m.past } : Core).addTerms (opAddrOf m.pc) (m.reg (mGA w) % 1024) 0 128 (List.range f.kp)
        (fun i => decodeA f (loadElem m.v f (512 * mVA w) i)) (fun i j => decodeA f (planeElem k.active f i j)) = .ok n →
      Leads (exec (.mrow c) s) fun t => s.CoreEffect t c n) ∧
    (s.microReady c 0x3D = true → (k.row (a % 1024)).isOpen = true →
      Leads (exec (.mrd c) s) fun t => s.MicroEffect t c
        ((m.past.setReg (mD w) ((k.elem (a % 1024) (b % 128)).v.toNat % 2 ^ 64)).setReg (mD w + 1)
          ((k.elem (a % 1024) (b % 128)).v.toNat / 2 ^ 64))) ∧
    (s.microReady c 0x3E = true → (k.row (a % 1024)).isOpen = true →
      Leads (exec (.mrdx c) s) fun t => s.MicroEffect t c
        (m.past.setReg (mD w) (((k.elem (a % 1024) (b % 128)).l % (2 ^ 16 : Int)).toNat
          + 2 ^ 16 * (k.elem (a % 1024) (b % 128)).s.code + 2 ^ 18))) ∧
    (∀ p ∈ [(0x3D, Instr.mrd c), (0x3E, .mrdx c)], s.microReady c p.1 = true → (k.row (a % 1024)).isOpen = false →
      Leads (exec p.2 s) fun t => (t.core c).micro.faulted = true ∧ (t.core c).micro.mfc = 8 ∧ (t.core c).micro.pc = m.pc ∧
        (t.core c).micro.g = m.g)

/-! ## Links and cascades (spec/16 R394 to R417) -/

/-- A good data flit in order enters its buffer and is acknowledged; one that is bad or out of order is discarded, and a replay request is sent once
(R395); idle flits and replay requests leave the buffers alone. A link in service that loses FEC lock, or hears no flit for 10 µs, retrains (R401). A
training step is followed by the next; after the last one a link that was in service is again, and one that trained at start-up is up; a step that
overruns begins training anew, and the third failure is reported (R399). The delay that step 4 finds is a free value (n4). -/
def Obligations.LinkFlits : Prop :=
  ∀ (s : State) (l : Nat) (f : Flit),
    let x := s.link l
    let quiet : Prop := ∀ p, s.unitPart 4 l = some p → (s.cas p).twinOwn = none
    let joins : Prop := ∃ p, s.unitPart 4 l = some p ∧ (s.cas p).joining = true ∧ bit (s.cas p).links l = true
    (s.receives l = true → f.ty = 0 → badFlit f = false → f.fseq = x.rxSeq →
      Leads (exec (.dataFlit l f) s) fun t => (t.link l).rxSeq = (f.fseq + 1) % 4096 ∧ (t.link l).lastAck = f.fseq ∧
        (t.link l).asked = false ∧ Tab.get [] (t.link l).buf (2 * f.vc + f.cls) = Tab.get [] x.buf (2 * f.vc + f.cls) ++ [f] ∧
        (∀ i, i ≠ 2 * f.vc + f.cls → Tab.get [] (t.link l).buf i = Tab.get [] x.buf i) ∧ (∀ j, j ≠ l → t.link j = s.link j) ∧
        t.mem = s.mem ∧ t.cores = s.cores) ∧
    (s.receives l = true → f.ty = 0 → badFlit f = true ∨ f.fseq ≠ x.rxSeq →
      Leads (exec (.dataFlit l f) s) fun t => (t.link l).asked = true ∧ (t.link l).rxSeq = x.rxSeq ∧ (t.link l).lastAck = x.lastAck ∧
        (t.link l).buf = x.buf ∧ (x.asked = true → t.host.sent = s.host.sent) ∧
        (x.asked = false → ∃ g : Flit, g.ty = 2 ∧ t.host.sent = .flit l g :: s.host.sent)) ∧
    (s.receives l = true → f.ty = 1 → Leads (exec (.idleFlit l f) s) fun t => (t.link l).rxSeq = x.rxSeq ∧ (t.link l).buf = x.buf ∧
      t.mem = s.mem ∧ t.cores = s.cores) ∧
    (s.receives l = true → f.ty = 2 → Leads (exec (.replayRequest l f) s) fun t => (t.link l).rxSeq = x.rxSeq ∧ (t.link l).buf = x.buf ∧
      (badFlit f = false → x.asked = false → (t.link l).replays = satAdd 16 x.replays 1) ∧ (quiet → t.mem = s.mem) ∧ t.cores = s.cores) ∧
    (∀ y ∈ [Instr.fecLockLost l, .flitTimeout l], x.state = 3 → (y = .flitTimeout l → x.since + 10000 ≤ s.ns) →
      Leads (exec y s) fun t => (t.link l).state = 1 ∧ (t.link l).step = 1 ∧ (t.link l).upto = 4 ∧ (t.link l).attempt = 1 ∧
        (t.link l).retrains = satAdd 16 x.retrains 1 ∧ (t.link l).replay = x.replay ∧ (quiet → t.mem = s.mem) ∧ t.cores = s.cores) ∧
    (x.state = 2 → exec (.fecLockLost l) s = .next s) ∧
    (x.step ≠ 0 → x.step < x.upto → ∀ peer, (x.step = 5 → x.identityFits peer = true) →
      Leads (exec (.linkTrainStep l peer) s) fun t => (t.link l).step = x.step + 1 ∧ (t.link l).since = s.ns ∧
        (x.step = 4 → x.upto = 6 → t.host.sent = .training l (s.ownId l) :: s.host.sent) ∧
        (x.step = 5 → (t.link l).peerRank = peer.rank ∧ (t.link l).peerLink = peer.link % 8) ∧ (∀ j, j ≠ l → t.link j = s.link j) ∧
        t.mem = s.mem ∧ t.cores = s.cores) ∧
    (x.step = 4 → x.upto = 4 → ∀ peer, Leads (exec (.linkTrainStep l peer) s) fun t =>
      (x.role ≠ 7 → (t.link l).state = 3 ∧ (t.link l).step = 0) ∧ (x.role = 7 → (t.link l).state = 2) ∧
      (x.role = 7 → joins → (t.link l).step = 5 ∧ (t.link l).upto = 5) ∧ (x.role = 7 → ¬ joins → (t.link l).step = 0) ∧
      t.mem = s.mem ∧ t.cores = s.cores) ∧
    (x.step = 6 → x.upto = 6 → ∀ peer,
      exec (.linkTrainStep l peer) s = .next (s.modLink l fun x => { x.fresh with state := 2, step := 0, since := s.ns })) ∧
    (x.step ≠ 0 → x.since + stepLimit x.step ≤ s.ns → x.attempt < 3 →
      exec (.linkTrainOverrun l) s = .next (s.modLink l fun x => { x with state := 1, step := 1, attempt := x.attempt + 1, since := s.ns })) ∧
    (x.step ≠ 0 → x.since + stepLimit x.step ≤ s.ns → 3 ≤ x.attempt →
      Leads (exec (.linkTrainOverrun l) s) fun t => (t.link l).state = 0 ∧ (t.link l).step = 0 ∧ t.cores = s.cores ∧
        ∃ r : LogRec, t.err.transit = s.err.transit ++ [r] ∧ r.domain = 4 ∧ r.index = l ∧ r.code = 0x40)

/-- In a join a link whose far end shows the same cascade, the same place on the cable, and in a direction of the torus the neighbour's rank, enters
cascade service; another is miscabled, and logged (R403, R407). The join completes once every named link has had its exchange and every rank has
reported: rank 0 is the master and tells the others (R403, R411), which take their time from the cascade; after 60 s a join that is not complete
fails, and the member leaves (R403). That a member's source becomes the cascade then is the model's reading (DEDUCED, n12), and the layout of what
the master tells the model's choice (DESIGN CHOICE, n11). -/
def Obligations.CascadeJoin : Prop :=
  ∀ (s : State) (p : Nat), s.lowest (fun k => k.joining) = some p →
    let k := s.cas p
    let fields (kind rank stamp : Nat) : List Byte :=
      toLE 1 kind ++ toLE 7 0 ++ toLE 8 k.ident ++ toLE 2 k.rank ++ toLE 2 rank ++ toLE 4 0 ++ toLE 8 stamp
    (∀ l peer, (s.link l).step = 5 → (s.link l).upto = 5 → (s.link l).identityFits peer = true → s.unitPart 4 l = some p →
      ¬ (k.twin = true ∧ l / 8 = 7) → (∃ j, j < 64 ∧ j ≠ l ∧ bit k.links j = true ∧ (s.link j).step ≠ 0) →
      let passes : Prop := peer.cascadeId = k.ident ∧ peer.dimX = k.dimX ∧ peer.dimY = k.dimY ∧ peer.dimZ = k.dimZ ∧
        peer.link % 8 = l % 8 ∧ (k.needs (l / 8) = true → peer.rank = k.neighbour (l / 8))
      Leads (exec (.linkTrainStep l peer) s) fun t => (t.link l).step = 0 ∧ (t.link l).peerRank = peer.rank ∧
        (t.link l).peerLink = peer.link % 8 ∧
        (passes → (t.link l).state = 3 ∧ (t.link l).role = if k.needs (l / 8) = true then l / 8 else 6) ∧
        (¬ passes → (t.link l).state = 5 ∧ (s.err.inSecond < 2000000 → ∃ r : LogRec, t.err.log.head? = some r ∧ r.code = 0x41 ∧
          r.domain = 4 ∧ r.index = l))) ∧
    ((∀ l, l < 64 → bit k.links l = true → (s.link l).step = 0) → s.joinLacks p = false →
      (k.rank = 0 → ∀ r, r < k.size → r ∈ k.arrived) →
      Leads (exec .cascadeComplete s) fun t => (t.cas p).joined = true ∧ (t.cas p).joining = false ∧ (t.cas p).masterRank = 0 ∧
        ((t.cas p).master = true ↔ k.rank = 0) ∧ (k.rank ≠ 0 → t.clk.source = 3) ∧ (t.cas p).lastBeat = s.ns ∧
        (k.rank = 0 → ∀ q ∈ k.children 0, t.Carries (mgmtPacket q 0 (noticeBody 2 1 0 s.now))) ∧
        t.Tells p 0x8005 (fields 1 0 s.now) ∧ t.mem = s.mem ∧ t.cores = s.cores) ∧
    (∀ c, s.longFind p 0x0058 (fun _ => true) = some c → c.stamp + 60000000000 ≤ s.ns →
      Leads (exec .cascadeJoinTimeout s) fun t => t.cas p = {} ∧ c ∉ t.host.long ∧ t.Tells p 0x8005 (fields 2 k.masterRank s.now) ∧
        t.Tells p 0x8001 (toLE 8 c.seq ++ toLE 2 0x0058 ++ toLE 2 0x0206) ∧ t.mem = s.mem ∧ t.cores = s.cores)

/-- A packet that stands whole at a link in service is delivered to its own member and goes on to any other, but not from an express or twin link (R405
to R408). The master sends a beat each 100 µs with the next four ranks; a member takes the beat of its master, or of a rank earlier on the list,
and measures its offset where its source is the cascade; a beat that names a member makes it the master (R409); without one for 300 µs a member
turns to the next rank, and takes over if it is that rank (R411, R413). A neighbour all of whose links have been out for 300 µs is lost: a member
reports it to the master, which notes it and tells all (R412). What a member does whose list has no next rank, that what came by an express or twin
link for another member is dropped, and that what waits is asked again of a new master, are the model's (n12), and the bodies (n11). -/
def Obligations.CascadeTraffic : Prop :=
  ∀ (s : State) (p : Nat),
    let k := s.cas p
    let same (t : State) : Prop := t.mem = s.mem ∧ t.cores = s.cores
    let fields (kind rank stamp : Nat) : List Byte :=
      toLE 1 kind ++ toLE 7 0 ++ toLE 8 k.ident ++ toLE 2 rank ++ toLE 2 k.masterRank ++ toLE 4 0 ++ toLE 8 stamp
    (∀ (l : Nat) (pk : Packet) (r : Link × Nat), s.unitPart 4 l = some p → (s.link l).takePacket pk = some r → (s.link l).state = 3 →
      let u := (s.setLink l r.1).sendEmpty l 1
      (pk.dstRank ≠ k.rank → (s.link l).role ≠ 6 → Leads (exec (.cascadePacket l pk) s) fun t => t.Carries pk ∧ same t) ∧
      (pk.dstRank ≠ k.rank → (s.link l).role = 6 → exec (.cascadePacket l pk) s = .next u) ∧
      (pk.dstRank = k.rank → exec (.cascadePacket l pk) s = .next (u.deliverPacket p l pk)) ∧
      (pk.dstRank = k.rank → pk.ptype = 6 → pk.dstCore = 0x1FF →
        Leads (exec (.cascadePacket l pk) s) fun t => pk.srcRank ∈ (t.cas p).arrived ∧ same t)) ∧
    (s.lowest (fun k => k.joined && k.master) = some p → k.lastBeat + 100000 ≤ s.ns →
      Leads (exec .masterBeat s) fun t => (t.cas p).lastBeat = s.ns ∧ (t.cas p).succession = k.nextFour ∧ k.nextFour.length ≤ 4 ∧
        (∀ q ∈ k.children k.rank, t.Carries (mgmtPacket q k.rank (beatBody k.rank (10 * s.now) k.nextFour))) ∧ same t) ∧
    (∀ rank value l succession, s.unitPart 4 l = some p → k.joined = true → (s.link l).state = 3 →
      let offset : Int := (s.now : Int) - ((value + (s.link l).delay) / 10 : Nat)
      let beat := Instr.beatArrival rank ⟨value, l⟩ succession offset
      (k.accepts rank = false → exec beat s = .next s) ∧
      (k.accepts rank = true → rank ≠ k.rank → Leads (exec beat s) fun t => (t.cas p).masterRank = rank ∧
        (t.cas p).master = false ∧ (t.cas p).succession = succession ∧ (t.cas p).lastBeat = s.ns ∧ t.now = s.now ∧ same t ∧
        (∃ v, value + (s.link l).delay ≤ v ∧ ∀ q ∈ k.children rank, t.Carries (mgmtPacket q rank (beatBody rank v succession))) ∧
        (k.master = false → s.clk.source ≠ 3 → t.clk = s.clk) ∧
        (k.master = true ∨ s.clk.source = 3 → t.clk.source = 3 ∧ t.clk.offset = max (-32767) (min 32767 offset))) ∧
      (k.accepts rank = true → rank = k.rank → Leads (exec beat s) fun t => (t.cas p).masterRank = rank ∧ (t.cas p).master = true ∧
        (t.cas p).lastBeat = s.ns ∧ t.clk.source = s.clk.ownSource ∧ t.now = s.now ∧ same t)) ∧
    (s.lowest (fun k => k.joined && !k.master) = some p → k.lastBeat + 300000 ≤ s.ns →
      (∀ m, k.nextChoice = some m → m ≠ k.rank → Leads (exec .beatTimeout s) fun t => (t.cas p).masterRank = m ∧ (t.cas p).master = false ∧
        (t.cas p).lastBeat = s.ns ∧ same t ∧ ∀ x ∈ s.host.parked, x.part = p → x.answered = false →
          t.Carries (mgmtPacket m k.rank (askBody x.win k.rank (fld x.body 0 1)))) ∧
      (k.nextChoice = some k.rank → Leads (exec .beatTimeout s) fun t => (t.cas p).master = true ∧ (t.cas p).masterRank = k.rank ∧
        (t.cas p).lastBeat = s.ns ∧ t.clk.source = s.clk.ownSource ∧ t.now = s.now ∧ t.cores = s.cores ∧
        (s.err.inSecond < 2000000 → ∃ r : LogRec, t.err.log.head? = some r ∧ r.code = 0x44)) ∧
      (k.nextChoice = none → Leads (exec .beatTimeout s) fun t => (t.cas p).masterRank = k.masterRank ∧ (t.cas p).lastBeat = s.ns ∧
        (∀ x ∈ t.host.parked, x.part = p → x.answered = true) ∧ same t)) ∧
    (∀ d, s.lowest (fun k => k.joined && k.needs d) = some p → k.neighbour d ∉ k.lost →
      (∃ l, l < 64 ∧ bit k.links l = true ∧ (s.link l).role < 6 ∧ (s.link l).peerRank = k.neighbour d) →
      (∀ l, l < 64 → bit k.links l = true → (s.link l).role < 6 → (s.link l).peerRank = k.neighbour d →
        (s.link l).state ≠ 3 ∧ (s.link l).outAt + 300000 ≤ s.ns) →
      Leads (exec (.neighbourLost d) s) fun t => k.neighbour d ∈ (t.cas p).lost ∧ same t ∧
        (k.master = false → t.Carries (mgmtPacket k.masterRank k.rank (noticeBody 3 3 (k.neighbour d) s.now))) ∧
        (k.master = true → t.Tells p 0x8005 (fields 3 (k.neighbour d) s.now))) ∧
    (∀ rank stamp, s.lowest (fun k => k.joined && k.master) = some p → rank < k.size →
      (rank ∈ k.lost → exec (.memberLossReport ⟨rank, stamp⟩) s = .next s) ∧
      (rank ∉ k.lost → Leads (exec (.memberLossReport ⟨rank, stamp⟩) s) fun t => rank ∈ (t.cas p).lost ∧
        t.Tells p 0x8005 (fields 3 rank stamp) ∧ same t))

/-- A member whose run has ended, and whose writes have committed, sends its partner a packet with the digests, of a run that succeeded, and with
none of another; where the twin links are out, that is a mismatch at once (spec/16 R415, R416). The partner's packet is kept until the member's
own stands beside it. Then two equal packets of runs that succeeded are logged as a match, and any other pair as a mismatch; so is a partner that
is not heard within 1 s. Either way the comparison is over (R416). A packet of a run that is already judged is dropped by the model's reading
(n12). -/
def Obligations.TwinExchange : Prop :=
  ∀ (s : State) (p : Nat),
    let k := s.cas p
    let logs (t : State) (code : Nat) : Prop := s.err.inSecond < 2000000 → ∃ r : LogRec, t.err.log.head? = some r ∧ r.code = code
    let ended (t : State) : Prop := (t.cas p).twinOwn = none ∧ (t.cas p).twinOther = none
    (∀ out, k.twinDue = some out → (s.part p).exist = true → k.joined = true → s.writesDone p = true →
      Leads (exec (.twinDigestSend p) s) fun t => (t.cas p).twinDue = none ∧
        ∃ ds, (out ≠ 0 → ds = []) ∧ (out = 0 → ds.length = k.digests.length) ∧
          (s.twinUp = true → t.Carries (mgmtPacket k.rank k.rank (digestBody k.twinOrdinal out ds))) ∧
          (s.twinUp = true → k.twinOther = none → (t.cas p).twinOwn = some (k.twinOrdinal, out, ds) ∧ (t.cas p).twinSince = s.ns) ∧
          (s.twinUp = false → ended t ∧ (out ≠ 0 → logs t 0x46))) ∧
    (∀ ordinal outcome digests, s.lowest (fun k => k.joined && k.twin) = some p → s.twinUp = true →
      (k.twinOwn = none → (k.twinDue.isSome = true ∨ k.twinOrdinal < ordinal) →
        Leads (exec (.twinDigestArrival ordinal outcome digests) s) fun t => (t.cas p).twinOther = some (ordinal, outcome, digests) ∧
          (t.cas p).twinOwn = none ∧ t.err = s.err ∧ t.mem = s.mem) ∧
      (∀ a, k.twinOwn = some a → Leads (exec (.twinDigestArrival ordinal outcome digests) s) fun t => ended t ∧
        (a = (ordinal, 0, digests) → outcome = 0 → logs t 0x45) ∧ (a ≠ (ordinal, 0, digests) ∨ outcome ≠ 0 → logs t 0x46)) ∧
      (k.twinOwn = none → k.twinDue = none → ordinal ≤ k.twinOrdinal → exec (.twinDigestArrival ordinal outcome digests) s = .next s)) ∧
    (s.lowest (fun k => k.joined && k.twinOwn.isSome) = some p → k.twinSince + 1000000000 ≤ s.ns →
      Leads (exec .twinPartnerTimeout s) fun t => ended t ∧ t.cores = s.cores ∧ logs t 0x46)

/-! ## Registers (spec/00 R16, spec/01 R27, R32) -/

/-- A write of a register word: RW fields take the value, W1C fields are cleared where it has a 1, RO registers and addresses with no register
stay as they are (spec/00 R16; spec/01 R27). CAP is written by STEP_CAP_SET alone (spec/14 R343), CORE_MICRO_CTL not while the core works
(spec/09 R230); that such a write, and one that sets MICRO while tags are held, is discarded and logged is the model's choice (n13). -/
def Obligations.RegisterWrites : Prop :=
  ∀ (s : State) (v : Nat), v < 2 ^ 64 → s.mgt.moduleOn = true →
    let does (a : Nat) (t : State) : Prop := exec (.registerWrite a v) s = .next t
    (∀ a, s.readReg a = none → does a s) ∧
    (∀ l, l < 64 → does (0x90100000000 + 8 * l) s) ∧
    does 0x90300000000 (s.writeDiscarded 0x90300000000) ∧ (∀ a, (s.writeDiscarded a).clk = s.clk ∧ (s.writeDiscarded a).cores = s.cores) ∧
    does 0x90300010008 { s with clk := { s.clk with
      source := v % 4, ownSource := if v % 4 = 3 then s.clk.ownSource else v % 4, toGo := if v % 4 = s.clk.source then s.clk.toGo else 0 } } ∧
    does 0x90300010018 (s.timeStep (signed 64 v)) ∧
    (∀ r, r < 16 → v / 2 ^ 32 % 256 < v / 2 ^ 24 % 256 →
      Leads (exec (.registerWrite (0x90300000100 + 8 * r) v) s) fun t => t.replica r = { s.replica r with
        warnTh := v / 2 ^ 24 % 256, alarmTh := v / 2 ^ 32 % 256, warn := (s.replica r).warn && !bit v 16,
        alarm := (s.replica r).alarm && !bit v 17 }) ∧
    (∀ p w, p < 8 → w < 256 →
      Leads (exec (.registerWrite (0x90000100000 + 16 * (256 * p + w)) v) s) (fun t =>
        t.window p w = { s.window p w with base := v % 2 ^ 44 } ∧ t.cores = s.cores ∧ t.mem = s.mem) ∧
      Leads (exec (.registerWrite (0x90000100000 + 16 * (256 * p + w) + 8) v) s) (fun t =>
        (t.window p w).base = (s.window p w).base ∧ (t.window p w).epoch = v % 2 ^ 16 ∧ (t.window p w).isOpen = bit v 16 ∧
        (t.window p w).len = v / 2 ^ 32 ∧ (t.window p w).refusals = (s.window p w).refusals)) ∧
    (∀ c, c < s.nCores →
      Leads (exec (.registerWrite (s.coreRegAddr c 0x180) v) s)
        (fun t => s.CoreEffect t c { s.core c with arith := (s.core c).arith.w1c v }) ∧
      Leads (exec (.registerWrite (s.coreRegAddr c 0x500) v) s)
        (fun t => s.CoreEffect t c { s.core c with rate := v % 2 ^ 12, burst := v / 2 ^ 16 % 2 ^ 16 }) ∧
      does (s.coreRegAddr c 0x0C0) s ∧
      ((s.core c).working = false → Leads (exec (.registerWrite (s.coreRegAddr c 0x408) v) s)
        fun t => s.CoreEffect t c { s.core c with micro := { (s.core c).micro with limit := v % 2 ^ 32 } }) ∧
      ((s.core c).working = true → bit v 3 = false → does (s.coreRegAddr c 0x400) (s.writeDiscarded (s.coreRegAddr c 0x400))) ∧
      ((s.core c).working = false → (s.core c).micro.on = false → s.heldTags c ≠ [] → bit v 0 = true →
        does (s.coreRegAddr c 0x400) (s.writeDiscarded (s.coreRegAddr c 0x400))))

/-! ## Exact sums (spec/02 R66, R70) -/

/-- The order of the terms never matters: any order of the same products leaves the same element; and a sum made in two parts, of which one travels as a stock word,
drains to the same bits as the whole (spec/02 R66, R70). -/
def Obligations.StockpotOrderFree : Prop :=
  (∀ (x : Elem) (ds es : List Dec), ds.Perm es → ds.foldl addProduct x = es.foldl addProduct x) ∧
  (∀ (l : Int) (ds es : List Dec) (f : Fmt) (mode : Rnd), -0x8000 ≤ l → l ≤ 0x7FFC →
    let zero : Elem := { v := 0, l := l, s := .finite }
    let part := (es.foldl addProduct zero).word
    part.clashes (ds.foldl addProduct zero) = false ∧
    drainElem f (addStockWord (ds.foldl addProduct zero) part) mode = drainElem f ((ds ++ es).foldl addProduct zero) mode)
end

