-- ==== Sys2Proof/Laws/Table.lean ====
section
/-!
SUPPORT. Sys2Proof/Laws/Table.lean: the laws of sparse tables and of memory: what a read gives after a write, and that every operation keeps
the canonical form.
-/
namespace Sys2Proof.Machine

/-! ## Tables: reads after writes -/

variable {α : Type}

theorem Tab.get_put (d : α) (t : Tab α) (k j : Nat) (v : α) : Tab.get d (Tab.put k v t) j = if k = j then v else Tab.get d t j := by
  induction t with
  | nil => simp [Tab.put, Tab.get]
  | cons x t ih =>
    obtain ⟨i, w⟩ := x
    simp only [Tab.put]
    split
    · simp [Tab.get]
    · split
      · subst_vars; simp only [Tab.get]; split <;> simp_all
      · simp only [Tab.get, ih]; split <;> simp_all

theorem Tab.get_del (d : α) (t : Tab α) (k j : Nat) : Tab.get d (Tab.del k t) j = if k = j then d else Tab.get d t j := by
  induction t with
  | nil => simp [Tab.del, Tab.get]
  | cons x t ih =>
    obtain ⟨i, w⟩ := x
    simp only [Tab.del]
    split
    · rw [ih]; subst_vars; simp only [Tab.get]; split <;> simp_all
    · simp only [Tab.get, ih]
      split
      · subst_vars; simp_all [eq_comm]
      · rfl

/-- A read after a write: the value written at its key, the old value elsewhere. -/
theorem Tab.get_set [DecidableEq α] (d : α) (t : Tab α) (k j : Nat) (v : α) :
    Tab.get d (Tab.set d t k v) j = if k = j then v else Tab.get d t j := by
  unfold Tab.set
  split
  · rw [Tab.get_del]; simp_all
  · rw [Tab.get_put]

@[simp] theorem Tab.get_set_self [DecidableEq α] (d : α) (t : Tab α) (k : Nat) (v : α) : Tab.get d (Tab.set d t k v) k = v := by
  simp [Tab.get_set]

theorem Tab.get_set_of_ne [DecidableEq α] {d : α} {t : Tab α} {k j : Nat} {v : α} (h : k ≠ j) :
    Tab.get d (Tab.set d t k v) j = Tab.get d t j := by simp [Tab.get_set, h]

theorem Tab.get_modify [DecidableEq α] (d : α) (t : Tab α) (k j : Nat) (f : α → α) :
    Tab.get d (Tab.modify d t k f) j = if k = j then f (Tab.get d t k) else Tab.get d t j := Tab.get_set ..

@[simp] theorem Tab.get_modify_self [DecidableEq α] (d : α) (t : Tab α) (k : Nat) (f : α → α) :
    Tab.get d (Tab.modify d t k f) k = f (Tab.get d t k) := by simp [Tab.get_modify]

@[simp] theorem Tab.get_nil (d : α) (k : Nat) : Tab.get d [] k = d := rfl

/-! ## Tables: the canonical form -/

theorem Tab.wfFrom_mono [DecidableEq α] {d : α} {t : Tab α} {lo lo' : Nat} (h : lo' ≤ lo) (w : Tab.wfFrom d lo t = true) :
    Tab.wfFrom d lo' t = true := by
  cases t with
  | nil => rfl
  | cons x t => obtain ⟨k, v⟩ := x; simp [Tab.wfFrom] at w ⊢; exact ⟨⟨by omega, w.1.2⟩, w.2⟩

theorem Tab.wfFrom_put [DecidableEq α] {d v : α} (hv : v ≠ d) {k : Nat} {t : Tab α} {lo : Nat} (hk : lo ≤ k)
    (w : Tab.wfFrom d lo t = true) : Tab.wfFrom d lo (Tab.put k v t) = true := by
  induction t generalizing lo with
  | nil => simp [Tab.put, Tab.wfFrom, hk, hv]
  | cons x t ih =>
    obtain ⟨j, u⟩ := x
    simp only [Tab.wfFrom, Bool.and_eq_true, decide_eq_true_eq] at w
    simp only [Tab.put]
    split
    · simp [Tab.wfFrom, hk, hv, w.1.2, w.2]; omega
    · split
      · subst_vars; simp [Tab.wfFrom, hk, hv, w.2]
      · simp only [Tab.wfFrom, Bool.and_eq_true, decide_eq_true_eq]
        exact ⟨w.1, ih (by omega) w.2⟩

theorem Tab.wfFrom_del [DecidableEq α] {d : α} {k : Nat} {t : Tab α} {lo : Nat} (w : Tab.wfFrom d lo t = true) :
    Tab.wfFrom d lo (Tab.del k t) = true := by
  induction t generalizing lo with
  | nil => rfl
  | cons x t ih =>
    obtain ⟨j, u⟩ := x
    simp only [Tab.wfFrom, Bool.and_eq_true, decide_eq_true_eq] at w
    simp only [Tab.del]
    split
    · exact Tab.wfFrom_mono (by omega) (ih w.2)
    · simp only [Tab.wfFrom, Bool.and_eq_true, decide_eq_true_eq]
      exact ⟨w.1, ih w.2⟩

/-- A write keeps the canonical form. -/
theorem Tab.wf_set [DecidableEq α] {d : α} {t : Tab α} (k : Nat) (v : α) (w : Tab.wf d t = true) : Tab.wf d (Tab.set d t k v) = true := by
  unfold Tab.set Tab.wf at *
  split
  · exact Tab.wfFrom_del w
  · exact Tab.wfFrom_put ‹_› (Nat.zero_le _) w

/-- A table keeps its canonical form when entries are dropped. -/
theorem Tab.wf_filter [DecidableEq α] {d : α} {t : Tab α} (p : Nat × α → Bool) (w : Tab.wf d t = true) : Tab.wf d (t.filter p) = true := by
  have key : ∀ lo, Tab.wfFrom d lo t = true → Tab.wfFrom d lo (t.filter p) = true := by
    induction t with
    | nil => intro lo _; rfl
    | cons x t ih =>
      obtain ⟨j, u⟩ := x
      intro lo w
      simp only [Tab.wfFrom, Bool.and_eq_true, decide_eq_true_eq] at w
      have wt : Tab.wf d t = true := Tab.wfFrom_mono (Nat.zero_le _) w.2
      simp only [List.filter_cons]
      split
      · simp only [Tab.wfFrom, Bool.and_eq_true, decide_eq_true_eq]; exact ⟨w.1, ih wt _ w.2⟩
      · exact Tab.wfFrom_mono (by omega) (ih wt _ w.2)
  exact key 0 w

/-! ## Memory -/

theorem Memory.get_set (m : Memory) (a b : Nat) (v : Byte) : Memory.get (Memory.set m a v) b = if a = b then v else Memory.get m b :=
  Tab.get_set ..

@[simp] theorem Memory.get_nil (a : Nat) : Memory.get [] a = 0 := rfl

/-- A read of one byte after a write of a list: the byte written there, or what was there before. -/
theorem Memory.get_write (bs : List Byte) (m : Memory) (a x : Nat) :
    Memory.get (Memory.write m a bs) x = if a ≤ x ∧ x < a + bs.length then bs.getD (x - a) 0 else Memory.get m x := by
  induction bs generalizing m a with
  | nil => rw [if_neg (by simp only [List.length_nil]; omega)]; rfl
  | cons b bs ih =>
    simp only [Memory.write, ih, Memory.get_set, List.length_cons]
    by_cases h : a = x
    · subst h; rw [if_neg (by omega), if_pos rfl, if_pos (by omega), Nat.sub_self]; rfl
    · by_cases h2 : a + 1 ≤ x ∧ x < a + 1 + bs.length
      · rw [if_pos h2, if_pos (by omega)]
        have : x - a = (x - (a + 1)) + 1 := by omega
        rw [this]; rfl
      · rw [if_neg h2, if_neg h, if_neg (by omega)]

@[simp] theorem Memory.read_length (m : Memory) (n a : Nat) : (Memory.read m a n).length = n := by
  induction n generalizing a with
  | zero => rfl
  | succ n ih => simp [Memory.read, ih]

theorem Memory.read_getD (m : Memory) (n a i : Nat) (h : i < n) : (Memory.read m a n).getD i 0 = Memory.get m (a + i) := by
  induction n generalizing a i with
  | zero => omega
  | succ n ih =>
    cases i with
    | zero => rfl
    | succ i =>
      have := ih (a + 1) i (by omega)
      simpa [Memory.read, Nat.add_assoc, Nat.add_comm 1] using this

/-- Reading agrees where the bytes agree. -/
theorem Memory.read_congr {m m' : Memory} {n a : Nat} (h : ∀ x, a ≤ x → x < a + n → Memory.get m x = Memory.get m' x) :
    Memory.read m a n = Memory.read m' a n := by
  induction n generalizing a with
  | zero => rfl
  | succ n ih => simp only [Memory.read]; rw [h a (by omega) (by omega), ih fun x h1 h2 => h x (by omega) (by omega)]

/-- The bytes of a list read back as they were written. -/
theorem Memory.read_write (bs : List Byte) (m : Memory) (a : Nat) : Memory.read (Memory.write m a bs) a bs.length = bs := by
  apply List.ext_getElem (by simp)
  intro i h1 h2
  have h := Memory.read_getD (Memory.write m a bs) bs.length a i h2
  rw [Memory.get_write, if_pos (by omega)] at h
  simpa [List.getD_eq_getElem?_getD, h1, h2] using h

/-- A write keeps the canonical form of memory. -/
theorem Memory.wf_set {m : Memory} (a : Nat) (v : Byte) (w : Memory.wf m = true) : Memory.wf (Memory.set m a v) = true := Tab.wf_set a v w

/-- A write of a list keeps the canonical form of memory. -/
theorem Memory.wf_write (bs : List Byte) {m : Memory} (a : Nat) (w : Memory.wf m = true) : Memory.wf (Memory.write m a bs) = true := by
  induction bs generalizing m a with
  | nil => exact w
  | cons b bs ih => exact ih _ (Memory.wf_set _ _ w)

/-- Zeroing a range keeps the canonical form of memory. -/
theorem Memory.wf_zero {m : Memory} (a n : Nat) (w : Memory.wf m = true) : Memory.wf (Memory.zero m a n) = true := Tab.wf_filter _ w

/-- Dropping bytes keeps the canonical form of memory. -/
theorem Memory.wf_filter {m : Memory} (p : Host.Cell → Bool) (w : Memory.wf m = true) : Memory.wf (m.filter p) = true := Tab.wf_filter p w

end Sys2Proof.Machine
end

