-- ==== Sys2Proof/Laws/State.lean ====
section
/-!
SUPPORT. Sys2Proof/Laws/State.lean: what each basic update of the state leaves as it was, one lemma per update and field; and what a read of the
changed component gives afterwards.
-/
namespace Sys2Proof.Machine

/-! ### setCore -/

@[simp] theorem State.setCore_fuses (s : State) (c : Nat) (k : Core) : (s.setCore c k).fuses = s.fuses := rfl
@[simp] theorem State.setCore_clk (s : State) (c : Nat) (k : Core) : (s.setCore c k).clk = s.clk := rfl
@[simp] theorem State.setCore_mem (s : State) (c : Nat) (k : Core) : (s.setCore c k).mem = s.mem := rfl
@[simp] theorem State.setCore_ecc (s : State) (c : Nat) (k : Core) : (s.setCore c k).ecc = s.ecc := rfl
@[simp] theorem State.setCore_chans (s : State) (c : Nat) (k : Core) : (s.setCore c k).chans = s.chans := rfl
@[simp] theorem State.setCore_unitOwner (s : State) (c : Nat) (k : Core) : (s.setCore c k).unitOwner = s.unitOwner := rfl
@[simp] theorem State.setCore_segs (s : State) (c : Nat) (k : Core) : (s.setCore c k).segs = s.segs := rfl
@[simp] theorem State.setCore_gens (s : State) (c : Nat) (k : Core) : (s.setCore c k).gens = s.gens := rfl
@[simp] theorem State.setCore_parts (s : State) (c : Nat) (k : Core) : (s.setCore c k).parts = s.parts := rfl
@[simp] theorem State.setCore_tickets (s : State) (c : Nat) (k : Core) : (s.setCore c k).tickets = s.tickets := rfl
@[simp] theorem State.setCore_slotTables (s : State) (c : Nat) (k : Core) : (s.setCore c k).slotTables = s.slotTables := rfl
@[simp] theorem State.setCore_xfers (s : State) (c : Nat) (k : Core) : (s.setCore c k).xfers = s.xfers := rfl
@[simp] theorem State.setCore_sigs (s : State) (c : Nat) (k : Core) : (s.setCore c k).sigs = s.sigs := rfl
@[simp] theorem State.setCore_host (s : State) (c : Nat) (k : Core) : (s.setCore c k).host = s.host := rfl
@[simp] theorem State.setCore_err (s : State) (c : Nat) (k : Core) : (s.setCore c k).err = s.err := rfl
@[simp] theorem State.setCore_links (s : State) (c : Nat) (k : Core) : (s.setCore c k).links = s.links := rfl
@[simp] theorem State.setCore_mgt (s : State) (c : Nat) (k : Core) : (s.setCore c k).mgt = s.mgt := rfl
@[simp] theorem State.setCore_nextId (s : State) (c : Nat) (k : Core) : (s.setCore c k).nextId = s.nextId := rfl
@[simp] theorem State.setCore_fresh (s : State) (c : Nat) (k : Core) : (s.setCore c k).fresh = s.fresh := rfl
@[simp] theorem State.setCore_pending (s : State) (c : Nat) (k : Core) : (s.setCore c k).pending = s.pending := rfl

/-! ### modCore -/

@[simp] theorem State.modCore_fuses (s : State) (c : Nat) (f : Core → Core) : (s.modCore c f).fuses = s.fuses := rfl
@[simp] theorem State.modCore_clk (s : State) (c : Nat) (f : Core → Core) : (s.modCore c f).clk = s.clk := rfl
@[simp] theorem State.modCore_mem (s : State) (c : Nat) (f : Core → Core) : (s.modCore c f).mem = s.mem := rfl
@[simp] theorem State.modCore_ecc (s : State) (c : Nat) (f : Core → Core) : (s.modCore c f).ecc = s.ecc := rfl
@[simp] theorem State.modCore_chans (s : State) (c : Nat) (f : Core → Core) : (s.modCore c f).chans = s.chans := rfl
@[simp] theorem State.modCore_unitOwner (s : State) (c : Nat) (f : Core → Core) : (s.modCore c f).unitOwner = s.unitOwner := rfl
@[simp] theorem State.modCore_segs (s : State) (c : Nat) (f : Core → Core) : (s.modCore c f).segs = s.segs := rfl
@[simp] theorem State.modCore_gens (s : State) (c : Nat) (f : Core → Core) : (s.modCore c f).gens = s.gens := rfl
@[simp] theorem State.modCore_parts (s : State) (c : Nat) (f : Core → Core) : (s.modCore c f).parts = s.parts := rfl
@[simp] theorem State.modCore_tickets (s : State) (c : Nat) (f : Core → Core) : (s.modCore c f).tickets = s.tickets := rfl
@[simp] theorem State.modCore_slotTables (s : State) (c : Nat) (f : Core → Core) : (s.modCore c f).slotTables = s.slotTables := rfl
@[simp] theorem State.modCore_xfers (s : State) (c : Nat) (f : Core → Core) : (s.modCore c f).xfers = s.xfers := rfl
@[simp] theorem State.modCore_sigs (s : State) (c : Nat) (f : Core → Core) : (s.modCore c f).sigs = s.sigs := rfl
@[simp] theorem State.modCore_host (s : State) (c : Nat) (f : Core → Core) : (s.modCore c f).host = s.host := rfl
@[simp] theorem State.modCore_err (s : State) (c : Nat) (f : Core → Core) : (s.modCore c f).err = s.err := rfl
@[simp] theorem State.modCore_links (s : State) (c : Nat) (f : Core → Core) : (s.modCore c f).links = s.links := rfl
@[simp] theorem State.modCore_mgt (s : State) (c : Nat) (f : Core → Core) : (s.modCore c f).mgt = s.mgt := rfl
@[simp] theorem State.modCore_nextId (s : State) (c : Nat) (f : Core → Core) : (s.modCore c f).nextId = s.nextId := rfl
@[simp] theorem State.modCore_fresh (s : State) (c : Nat) (f : Core → Core) : (s.modCore c f).fresh = s.fresh := rfl
@[simp] theorem State.modCore_pending (s : State) (c : Nat) (f : Core → Core) : (s.modCore c f).pending = s.pending := rfl

/-! ### setPart -/

@[simp] theorem State.setPart_fuses (s : State) (p : Nat) (x : Part) : (s.setPart p x).fuses = s.fuses := rfl
@[simp] theorem State.setPart_clk (s : State) (p : Nat) (x : Part) : (s.setPart p x).clk = s.clk := rfl
@[simp] theorem State.setPart_cores (s : State) (p : Nat) (x : Part) : (s.setPart p x).cores = s.cores := rfl
@[simp] theorem State.setPart_mem (s : State) (p : Nat) (x : Part) : (s.setPart p x).mem = s.mem := rfl
@[simp] theorem State.setPart_ecc (s : State) (p : Nat) (x : Part) : (s.setPart p x).ecc = s.ecc := rfl
@[simp] theorem State.setPart_chans (s : State) (p : Nat) (x : Part) : (s.setPart p x).chans = s.chans := rfl
@[simp] theorem State.setPart_unitOwner (s : State) (p : Nat) (x : Part) : (s.setPart p x).unitOwner = s.unitOwner := rfl
@[simp] theorem State.setPart_segs (s : State) (p : Nat) (x : Part) : (s.setPart p x).segs = s.segs := rfl
@[simp] theorem State.setPart_gens (s : State) (p : Nat) (x : Part) : (s.setPart p x).gens = s.gens := rfl
@[simp] theorem State.setPart_tickets (s : State) (p : Nat) (x : Part) : (s.setPart p x).tickets = s.tickets := rfl
@[simp] theorem State.setPart_slotTables (s : State) (p : Nat) (x : Part) : (s.setPart p x).slotTables = s.slotTables := rfl
@[simp] theorem State.setPart_xfers (s : State) (p : Nat) (x : Part) : (s.setPart p x).xfers = s.xfers := rfl
@[simp] theorem State.setPart_sigs (s : State) (p : Nat) (x : Part) : (s.setPart p x).sigs = s.sigs := rfl
@[simp] theorem State.setPart_host (s : State) (p : Nat) (x : Part) : (s.setPart p x).host = s.host := rfl
@[simp] theorem State.setPart_err (s : State) (p : Nat) (x : Part) : (s.setPart p x).err = s.err := rfl
@[simp] theorem State.setPart_links (s : State) (p : Nat) (x : Part) : (s.setPart p x).links = s.links := rfl
@[simp] theorem State.setPart_mgt (s : State) (p : Nat) (x : Part) : (s.setPart p x).mgt = s.mgt := rfl
@[simp] theorem State.setPart_nextId (s : State) (p : Nat) (x : Part) : (s.setPart p x).nextId = s.nextId := rfl
@[simp] theorem State.setPart_fresh (s : State) (p : Nat) (x : Part) : (s.setPart p x).fresh = s.fresh := rfl
@[simp] theorem State.setPart_pending (s : State) (p : Nat) (x : Part) : (s.setPart p x).pending = s.pending := rfl

/-! ### modPart -/

@[simp] theorem State.modPart_fuses (s : State) (p : Nat) (f : Part → Part) : (s.modPart p f).fuses = s.fuses := rfl
@[simp] theorem State.modPart_clk (s : State) (p : Nat) (f : Part → Part) : (s.modPart p f).clk = s.clk := rfl
@[simp] theorem State.modPart_cores (s : State) (p : Nat) (f : Part → Part) : (s.modPart p f).cores = s.cores := rfl
@[simp] theorem State.modPart_mem (s : State) (p : Nat) (f : Part → Part) : (s.modPart p f).mem = s.mem := rfl
@[simp] theorem State.modPart_ecc (s : State) (p : Nat) (f : Part → Part) : (s.modPart p f).ecc = s.ecc := rfl
@[simp] theorem State.modPart_chans (s : State) (p : Nat) (f : Part → Part) : (s.modPart p f).chans = s.chans := rfl
@[simp] theorem State.modPart_unitOwner (s : State) (p : Nat) (f : Part → Part) : (s.modPart p f).unitOwner = s.unitOwner := rfl
@[simp] theorem State.modPart_segs (s : State) (p : Nat) (f : Part → Part) : (s.modPart p f).segs = s.segs := rfl
@[simp] theorem State.modPart_gens (s : State) (p : Nat) (f : Part → Part) : (s.modPart p f).gens = s.gens := rfl
@[simp] theorem State.modPart_tickets (s : State) (p : Nat) (f : Part → Part) : (s.modPart p f).tickets = s.tickets := rfl
@[simp] theorem State.modPart_slotTables (s : State) (p : Nat) (f : Part → Part) : (s.modPart p f).slotTables = s.slotTables := rfl
@[simp] theorem State.modPart_xfers (s : State) (p : Nat) (f : Part → Part) : (s.modPart p f).xfers = s.xfers := rfl
@[simp] theorem State.modPart_sigs (s : State) (p : Nat) (f : Part → Part) : (s.modPart p f).sigs = s.sigs := rfl
@[simp] theorem State.modPart_host (s : State) (p : Nat) (f : Part → Part) : (s.modPart p f).host = s.host := rfl
@[simp] theorem State.modPart_err (s : State) (p : Nat) (f : Part → Part) : (s.modPart p f).err = s.err := rfl
@[simp] theorem State.modPart_links (s : State) (p : Nat) (f : Part → Part) : (s.modPart p f).links = s.links := rfl
@[simp] theorem State.modPart_mgt (s : State) (p : Nat) (f : Part → Part) : (s.modPart p f).mgt = s.mgt := rfl
@[simp] theorem State.modPart_nextId (s : State) (p : Nat) (f : Part → Part) : (s.modPart p f).nextId = s.nextId := rfl
@[simp] theorem State.modPart_fresh (s : State) (p : Nat) (f : Part → Part) : (s.modPart p f).fresh = s.fresh := rfl
@[simp] theorem State.modPart_pending (s : State) (p : Nat) (f : Part → Part) : (s.modPart p f).pending = s.pending := rfl

/-! ### modRun -/

@[simp] theorem State.modRun_fuses (s : State) (p : Nat) (f : Run → Run) : (s.modRun p f).fuses = s.fuses := rfl
@[simp] theorem State.modRun_clk (s : State) (p : Nat) (f : Run → Run) : (s.modRun p f).clk = s.clk := rfl
@[simp] theorem State.modRun_cores (s : State) (p : Nat) (f : Run → Run) : (s.modRun p f).cores = s.cores := rfl
@[simp] theorem State.modRun_mem (s : State) (p : Nat) (f : Run → Run) : (s.modRun p f).mem = s.mem := rfl
@[simp] theorem State.modRun_ecc (s : State) (p : Nat) (f : Run → Run) : (s.modRun p f).ecc = s.ecc := rfl
@[simp] theorem State.modRun_chans (s : State) (p : Nat) (f : Run → Run) : (s.modRun p f).chans = s.chans := rfl
@[simp] theorem State.modRun_unitOwner (s : State) (p : Nat) (f : Run → Run) : (s.modRun p f).unitOwner = s.unitOwner := rfl
@[simp] theorem State.modRun_segs (s : State) (p : Nat) (f : Run → Run) : (s.modRun p f).segs = s.segs := rfl
@[simp] theorem State.modRun_gens (s : State) (p : Nat) (f : Run → Run) : (s.modRun p f).gens = s.gens := rfl
@[simp] theorem State.modRun_tickets (s : State) (p : Nat) (f : Run → Run) : (s.modRun p f).tickets = s.tickets := rfl
@[simp] theorem State.modRun_slotTables (s : State) (p : Nat) (f : Run → Run) : (s.modRun p f).slotTables = s.slotTables := rfl
@[simp] theorem State.modRun_xfers (s : State) (p : Nat) (f : Run → Run) : (s.modRun p f).xfers = s.xfers := rfl
@[simp] theorem State.modRun_sigs (s : State) (p : Nat) (f : Run → Run) : (s.modRun p f).sigs = s.sigs := rfl
@[simp] theorem State.modRun_host (s : State) (p : Nat) (f : Run → Run) : (s.modRun p f).host = s.host := rfl
@[simp] theorem State.modRun_err (s : State) (p : Nat) (f : Run → Run) : (s.modRun p f).err = s.err := rfl
@[simp] theorem State.modRun_links (s : State) (p : Nat) (f : Run → Run) : (s.modRun p f).links = s.links := rfl
@[simp] theorem State.modRun_mgt (s : State) (p : Nat) (f : Run → Run) : (s.modRun p f).mgt = s.mgt := rfl
@[simp] theorem State.modRun_nextId (s : State) (p : Nat) (f : Run → Run) : (s.modRun p f).nextId = s.nextId := rfl
@[simp] theorem State.modRun_fresh (s : State) (p : Nat) (f : Run → Run) : (s.modRun p f).fresh = s.fresh := rfl
@[simp] theorem State.modRun_pending (s : State) (p : Nat) (f : Run → Run) : (s.modRun p f).pending = s.pending := rfl

/-! ### modWindow -/

@[simp] theorem State.modWindow_fuses (s : State) (p w : Nat) (f : Window → Window) : (s.modWindow p w f).fuses = s.fuses := rfl
@[simp] theorem State.modWindow_clk (s : State) (p w : Nat) (f : Window → Window) : (s.modWindow p w f).clk = s.clk := rfl
@[simp] theorem State.modWindow_cores (s : State) (p w : Nat) (f : Window → Window) : (s.modWindow p w f).cores = s.cores := rfl
@[simp] theorem State.modWindow_mem (s : State) (p w : Nat) (f : Window → Window) : (s.modWindow p w f).mem = s.mem := rfl
@[simp] theorem State.modWindow_ecc (s : State) (p w : Nat) (f : Window → Window) : (s.modWindow p w f).ecc = s.ecc := rfl
@[simp] theorem State.modWindow_chans (s : State) (p w : Nat) (f : Window → Window) : (s.modWindow p w f).chans = s.chans := rfl
@[simp] theorem State.modWindow_unitOwner (s : State) (p w : Nat) (f : Window → Window) : (s.modWindow p w f).unitOwner = s.unitOwner := rfl
@[simp] theorem State.modWindow_segs (s : State) (p w : Nat) (f : Window → Window) : (s.modWindow p w f).segs = s.segs := rfl
@[simp] theorem State.modWindow_gens (s : State) (p w : Nat) (f : Window → Window) : (s.modWindow p w f).gens = s.gens := rfl
@[simp] theorem State.modWindow_tickets (s : State) (p w : Nat) (f : Window → Window) : (s.modWindow p w f).tickets = s.tickets := rfl
@[simp] theorem State.modWindow_slotTables (s : State) (p w : Nat) (f : Window → Window) : (s.modWindow p w f).slotTables = s.slotTables := rfl
@[simp] theorem State.modWindow_xfers (s : State) (p w : Nat) (f : Window → Window) : (s.modWindow p w f).xfers = s.xfers := rfl
@[simp] theorem State.modWindow_sigs (s : State) (p w : Nat) (f : Window → Window) : (s.modWindow p w f).sigs = s.sigs := rfl
@[simp] theorem State.modWindow_host (s : State) (p w : Nat) (f : Window → Window) : (s.modWindow p w f).host = s.host := rfl
@[simp] theorem State.modWindow_err (s : State) (p w : Nat) (f : Window → Window) : (s.modWindow p w f).err = s.err := rfl
@[simp] theorem State.modWindow_links (s : State) (p w : Nat) (f : Window → Window) : (s.modWindow p w f).links = s.links := rfl
@[simp] theorem State.modWindow_mgt (s : State) (p w : Nat) (f : Window → Window) : (s.modWindow p w f).mgt = s.mgt := rfl
@[simp] theorem State.modWindow_nextId (s : State) (p w : Nat) (f : Window → Window) : (s.modWindow p w f).nextId = s.nextId := rfl
@[simp] theorem State.modWindow_fresh (s : State) (p w : Nat) (f : Window → Window) : (s.modWindow p w f).fresh = s.fresh := rfl
@[simp] theorem State.modWindow_pending (s : State) (p w : Nat) (f : Window → Window) : (s.modWindow p w f).pending = s.pending := rfl

/-! ### modChan -/

@[simp] theorem State.modChan_fuses (s : State) (n : Nat) (f : Channel → Channel) : (s.modChan n f).fuses = s.fuses := rfl
@[simp] theorem State.modChan_clk (s : State) (n : Nat) (f : Channel → Channel) : (s.modChan n f).clk = s.clk := rfl
@[simp] theorem State.modChan_cores (s : State) (n : Nat) (f : Channel → Channel) : (s.modChan n f).cores = s.cores := rfl
@[simp] theorem State.modChan_mem (s : State) (n : Nat) (f : Channel → Channel) : (s.modChan n f).mem = s.mem := rfl
@[simp] theorem State.modChan_ecc (s : State) (n : Nat) (f : Channel → Channel) : (s.modChan n f).ecc = s.ecc := rfl
@[simp] theorem State.modChan_unitOwner (s : State) (n : Nat) (f : Channel → Channel) : (s.modChan n f).unitOwner = s.unitOwner := rfl
@[simp] theorem State.modChan_segs (s : State) (n : Nat) (f : Channel → Channel) : (s.modChan n f).segs = s.segs := rfl
@[simp] theorem State.modChan_gens (s : State) (n : Nat) (f : Channel → Channel) : (s.modChan n f).gens = s.gens := rfl
@[simp] theorem State.modChan_parts (s : State) (n : Nat) (f : Channel → Channel) : (s.modChan n f).parts = s.parts := rfl
@[simp] theorem State.modChan_tickets (s : State) (n : Nat) (f : Channel → Channel) : (s.modChan n f).tickets = s.tickets := rfl
@[simp] theorem State.modChan_slotTables (s : State) (n : Nat) (f : Channel → Channel) : (s.modChan n f).slotTables = s.slotTables := rfl
@[simp] theorem State.modChan_xfers (s : State) (n : Nat) (f : Channel → Channel) : (s.modChan n f).xfers = s.xfers := rfl
@[simp] theorem State.modChan_sigs (s : State) (n : Nat) (f : Channel → Channel) : (s.modChan n f).sigs = s.sigs := rfl
@[simp] theorem State.modChan_host (s : State) (n : Nat) (f : Channel → Channel) : (s.modChan n f).host = s.host := rfl
@[simp] theorem State.modChan_err (s : State) (n : Nat) (f : Channel → Channel) : (s.modChan n f).err = s.err := rfl
@[simp] theorem State.modChan_links (s : State) (n : Nat) (f : Channel → Channel) : (s.modChan n f).links = s.links := rfl
@[simp] theorem State.modChan_mgt (s : State) (n : Nat) (f : Channel → Channel) : (s.modChan n f).mgt = s.mgt := rfl
@[simp] theorem State.modChan_nextId (s : State) (n : Nat) (f : Channel → Channel) : (s.modChan n f).nextId = s.nextId := rfl
@[simp] theorem State.modChan_fresh (s : State) (n : Nat) (f : Channel → Channel) : (s.modChan n f).fresh = s.fresh := rfl
@[simp] theorem State.modChan_pending (s : State) (n : Nat) (f : Channel → Channel) : (s.modChan n f).pending = s.pending := rfl

/-! ### modSeg -/

@[simp] theorem State.modSeg_fuses (s : State) (p k : Nat) (f : Segment → Segment) : (s.modSeg p k f).fuses = s.fuses := rfl
@[simp] theorem State.modSeg_clk (s : State) (p k : Nat) (f : Segment → Segment) : (s.modSeg p k f).clk = s.clk := rfl
@[simp] theorem State.modSeg_cores (s : State) (p k : Nat) (f : Segment → Segment) : (s.modSeg p k f).cores = s.cores := rfl
@[simp] theorem State.modSeg_mem (s : State) (p k : Nat) (f : Segment → Segment) : (s.modSeg p k f).mem = s.mem := rfl
@[simp] theorem State.modSeg_ecc (s : State) (p k : Nat) (f : Segment → Segment) : (s.modSeg p k f).ecc = s.ecc := rfl
@[simp] theorem State.modSeg_chans (s : State) (p k : Nat) (f : Segment → Segment) : (s.modSeg p k f).chans = s.chans := rfl
@[simp] theorem State.modSeg_unitOwner (s : State) (p k : Nat) (f : Segment → Segment) : (s.modSeg p k f).unitOwner = s.unitOwner := rfl
@[simp] theorem State.modSeg_gens (s : State) (p k : Nat) (f : Segment → Segment) : (s.modSeg p k f).gens = s.gens := rfl
@[simp] theorem State.modSeg_parts (s : State) (p k : Nat) (f : Segment → Segment) : (s.modSeg p k f).parts = s.parts := rfl
@[simp] theorem State.modSeg_tickets (s : State) (p k : Nat) (f : Segment → Segment) : (s.modSeg p k f).tickets = s.tickets := rfl
@[simp] theorem State.modSeg_slotTables (s : State) (p k : Nat) (f : Segment → Segment) : (s.modSeg p k f).slotTables = s.slotTables := rfl
@[simp] theorem State.modSeg_xfers (s : State) (p k : Nat) (f : Segment → Segment) : (s.modSeg p k f).xfers = s.xfers := rfl
@[simp] theorem State.modSeg_sigs (s : State) (p k : Nat) (f : Segment → Segment) : (s.modSeg p k f).sigs = s.sigs := rfl
@[simp] theorem State.modSeg_host (s : State) (p k : Nat) (f : Segment → Segment) : (s.modSeg p k f).host = s.host := rfl
@[simp] theorem State.modSeg_err (s : State) (p k : Nat) (f : Segment → Segment) : (s.modSeg p k f).err = s.err := rfl
@[simp] theorem State.modSeg_links (s : State) (p k : Nat) (f : Segment → Segment) : (s.modSeg p k f).links = s.links := rfl
@[simp] theorem State.modSeg_mgt (s : State) (p k : Nat) (f : Segment → Segment) : (s.modSeg p k f).mgt = s.mgt := rfl
@[simp] theorem State.modSeg_nextId (s : State) (p k : Nat) (f : Segment → Segment) : (s.modSeg p k f).nextId = s.nextId := rfl
@[simp] theorem State.modSeg_fresh (s : State) (p k : Nat) (f : Segment → Segment) : (s.modSeg p k f).fresh = s.fresh := rfl
@[simp] theorem State.modSeg_pending (s : State) (p k : Nat) (f : Segment → Segment) : (s.modSeg p k f).pending = s.pending := rfl

/-! ### raise -/

@[simp] theorem State.raise_fuses (s : State) (r : LogRec) : (s.raise r).fuses = s.fuses := rfl
@[simp] theorem State.raise_clk (s : State) (r : LogRec) : (s.raise r).clk = s.clk := rfl
@[simp] theorem State.raise_cores (s : State) (r : LogRec) : (s.raise r).cores = s.cores := rfl
@[simp] theorem State.raise_mem (s : State) (r : LogRec) : (s.raise r).mem = s.mem := rfl
@[simp] theorem State.raise_ecc (s : State) (r : LogRec) : (s.raise r).ecc = s.ecc := rfl
@[simp] theorem State.raise_chans (s : State) (r : LogRec) : (s.raise r).chans = s.chans := rfl
@[simp] theorem State.raise_unitOwner (s : State) (r : LogRec) : (s.raise r).unitOwner = s.unitOwner := rfl
@[simp] theorem State.raise_segs (s : State) (r : LogRec) : (s.raise r).segs = s.segs := rfl
@[simp] theorem State.raise_gens (s : State) (r : LogRec) : (s.raise r).gens = s.gens := rfl
@[simp] theorem State.raise_parts (s : State) (r : LogRec) : (s.raise r).parts = s.parts := rfl
@[simp] theorem State.raise_tickets (s : State) (r : LogRec) : (s.raise r).tickets = s.tickets := rfl
@[simp] theorem State.raise_slotTables (s : State) (r : LogRec) : (s.raise r).slotTables = s.slotTables := rfl
@[simp] theorem State.raise_xfers (s : State) (r : LogRec) : (s.raise r).xfers = s.xfers := rfl
@[simp] theorem State.raise_sigs (s : State) (r : LogRec) : (s.raise r).sigs = s.sigs := rfl
@[simp] theorem State.raise_host (s : State) (r : LogRec) : (s.raise r).host = s.host := rfl
@[simp] theorem State.raise_links (s : State) (r : LogRec) : (s.raise r).links = s.links := rfl
@[simp] theorem State.raise_mgt (s : State) (r : LogRec) : (s.raise r).mgt = s.mgt := rfl
@[simp] theorem State.raise_nextId (s : State) (r : LogRec) : (s.raise r).nextId = s.nextId := rfl
@[simp] theorem State.raise_fresh (s : State) (r : LogRec) : (s.raise r).fresh = s.fresh := rfl
@[simp] theorem State.raise_pending (s : State) (r : LogRec) : (s.raise r).pending = s.pending := rfl

/-! ### queueEntry -/

@[simp] theorem State.queueEntry_fuses (s : State) (d i : Nat) (p : Option Nat) (code : Nat) (ctx : List Byte) : (s.queueEntry d i p code ctx).fuses = s.fuses := rfl
@[simp] theorem State.queueEntry_clk (s : State) (d i : Nat) (p : Option Nat) (code : Nat) (ctx : List Byte) : (s.queueEntry d i p code ctx).clk = s.clk := rfl
@[simp] theorem State.queueEntry_cores (s : State) (d i : Nat) (p : Option Nat) (code : Nat) (ctx : List Byte) : (s.queueEntry d i p code ctx).cores = s.cores := rfl
@[simp] theorem State.queueEntry_mem (s : State) (d i : Nat) (p : Option Nat) (code : Nat) (ctx : List Byte) : (s.queueEntry d i p code ctx).mem = s.mem := rfl
@[simp] theorem State.queueEntry_ecc (s : State) (d i : Nat) (p : Option Nat) (code : Nat) (ctx : List Byte) : (s.queueEntry d i p code ctx).ecc = s.ecc := rfl
@[simp] theorem State.queueEntry_chans (s : State) (d i : Nat) (p : Option Nat) (code : Nat) (ctx : List Byte) : (s.queueEntry d i p code ctx).chans = s.chans := rfl
@[simp] theorem State.queueEntry_unitOwner (s : State) (d i : Nat) (p : Option Nat) (code : Nat) (ctx : List Byte) : (s.queueEntry d i p code ctx).unitOwner = s.unitOwner := rfl
@[simp] theorem State.queueEntry_segs (s : State) (d i : Nat) (p : Option Nat) (code : Nat) (ctx : List Byte) : (s.queueEntry d i p code ctx).segs = s.segs := rfl
@[simp] theorem State.queueEntry_gens (s : State) (d i : Nat) (p : Option Nat) (code : Nat) (ctx : List Byte) : (s.queueEntry d i p code ctx).gens = s.gens := rfl
@[simp] theorem State.queueEntry_parts (s : State) (d i : Nat) (p : Option Nat) (code : Nat) (ctx : List Byte) : (s.queueEntry d i p code ctx).parts = s.parts := rfl
@[simp] theorem State.queueEntry_tickets (s : State) (d i : Nat) (p : Option Nat) (code : Nat) (ctx : List Byte) : (s.queueEntry d i p code ctx).tickets = s.tickets := rfl
@[simp] theorem State.queueEntry_slotTables (s : State) (d i : Nat) (p : Option Nat) (code : Nat) (ctx : List Byte) : (s.queueEntry d i p code ctx).slotTables = s.slotTables := rfl
@[simp] theorem State.queueEntry_xfers (s : State) (d i : Nat) (p : Option Nat) (code : Nat) (ctx : List Byte) : (s.queueEntry d i p code ctx).xfers = s.xfers := rfl
@[simp] theorem State.queueEntry_sigs (s : State) (d i : Nat) (p : Option Nat) (code : Nat) (ctx : List Byte) : (s.queueEntry d i p code ctx).sigs = s.sigs := rfl
@[simp] theorem State.queueEntry_host (s : State) (d i : Nat) (p : Option Nat) (code : Nat) (ctx : List Byte) : (s.queueEntry d i p code ctx).host = s.host := rfl
@[simp] theorem State.queueEntry_links (s : State) (d i : Nat) (p : Option Nat) (code : Nat) (ctx : List Byte) : (s.queueEntry d i p code ctx).links = s.links := rfl
@[simp] theorem State.queueEntry_mgt (s : State) (d i : Nat) (p : Option Nat) (code : Nat) (ctx : List Byte) : (s.queueEntry d i p code ctx).mgt = s.mgt := rfl
@[simp] theorem State.queueEntry_nextId (s : State) (d i : Nat) (p : Option Nat) (code : Nat) (ctx : List Byte) : (s.queueEntry d i p code ctx).nextId = s.nextId := rfl
@[simp] theorem State.queueEntry_fresh (s : State) (d i : Nat) (p : Option Nat) (code : Nat) (ctx : List Byte) : (s.queueEntry d i p code ctx).fresh = s.fresh := rfl
@[simp] theorem State.queueEntry_pending (s : State) (d i : Nat) (p : Option Nat) (code : Nat) (ctx : List Byte) : (s.queueEntry d i p code ctx).pending = s.pending := rfl

/-! ### dropWaiting -/

@[simp] theorem State.dropWaiting_fuses (s : State) (c : Nat) : (s.dropWaiting c).fuses = s.fuses := rfl
@[simp] theorem State.dropWaiting_clk (s : State) (c : Nat) : (s.dropWaiting c).clk = s.clk := rfl
@[simp] theorem State.dropWaiting_cores (s : State) (c : Nat) : (s.dropWaiting c).cores = s.cores := rfl
@[simp] theorem State.dropWaiting_mem (s : State) (c : Nat) : (s.dropWaiting c).mem = s.mem := rfl
@[simp] theorem State.dropWaiting_ecc (s : State) (c : Nat) : (s.dropWaiting c).ecc = s.ecc := rfl
@[simp] theorem State.dropWaiting_chans (s : State) (c : Nat) : (s.dropWaiting c).chans = s.chans := rfl
@[simp] theorem State.dropWaiting_unitOwner (s : State) (c : Nat) : (s.dropWaiting c).unitOwner = s.unitOwner := rfl
@[simp] theorem State.dropWaiting_segs (s : State) (c : Nat) : (s.dropWaiting c).segs = s.segs := rfl
@[simp] theorem State.dropWaiting_gens (s : State) (c : Nat) : (s.dropWaiting c).gens = s.gens := rfl
@[simp] theorem State.dropWaiting_parts (s : State) (c : Nat) : (s.dropWaiting c).parts = s.parts := rfl
@[simp] theorem State.dropWaiting_tickets (s : State) (c : Nat) : (s.dropWaiting c).tickets = s.tickets := rfl
@[simp] theorem State.dropWaiting_slotTables (s : State) (c : Nat) : (s.dropWaiting c).slotTables = s.slotTables := rfl
@[simp] theorem State.dropWaiting_sigs (s : State) (c : Nat) : (s.dropWaiting c).sigs = s.sigs := rfl
@[simp] theorem State.dropWaiting_host (s : State) (c : Nat) : (s.dropWaiting c).host = s.host := rfl
@[simp] theorem State.dropWaiting_err (s : State) (c : Nat) : (s.dropWaiting c).err = s.err := rfl
@[simp] theorem State.dropWaiting_links (s : State) (c : Nat) : (s.dropWaiting c).links = s.links := rfl
@[simp] theorem State.dropWaiting_mgt (s : State) (c : Nat) : (s.dropWaiting c).mgt = s.mgt := rfl
@[simp] theorem State.dropWaiting_nextId (s : State) (c : Nat) : (s.dropWaiting c).nextId = s.nextId := rfl
@[simp] theorem State.dropWaiting_fresh (s : State) (c : Nat) : (s.dropWaiting c).fresh = s.fresh := rfl
@[simp] theorem State.dropWaiting_pending (s : State) (c : Nat) : (s.dropWaiting c).pending = s.pending := rfl

/-! ### dropPrograms -/

@[simp] theorem State.dropPrograms_fuses (s : State) (c : Nat) : (s.dropPrograms c).fuses = s.fuses := rfl
@[simp] theorem State.dropPrograms_clk (s : State) (c : Nat) : (s.dropPrograms c).clk = s.clk := rfl
@[simp] theorem State.dropPrograms_cores (s : State) (c : Nat) : (s.dropPrograms c).cores = s.cores := rfl
@[simp] theorem State.dropPrograms_mem (s : State) (c : Nat) : (s.dropPrograms c).mem = s.mem := rfl
@[simp] theorem State.dropPrograms_ecc (s : State) (c : Nat) : (s.dropPrograms c).ecc = s.ecc := rfl
@[simp] theorem State.dropPrograms_chans (s : State) (c : Nat) : (s.dropPrograms c).chans = s.chans := rfl
@[simp] theorem State.dropPrograms_unitOwner (s : State) (c : Nat) : (s.dropPrograms c).unitOwner = s.unitOwner := rfl
@[simp] theorem State.dropPrograms_segs (s : State) (c : Nat) : (s.dropPrograms c).segs = s.segs := rfl
@[simp] theorem State.dropPrograms_gens (s : State) (c : Nat) : (s.dropPrograms c).gens = s.gens := rfl
@[simp] theorem State.dropPrograms_parts (s : State) (c : Nat) : (s.dropPrograms c).parts = s.parts := rfl
@[simp] theorem State.dropPrograms_tickets (s : State) (c : Nat) : (s.dropPrograms c).tickets = s.tickets := rfl
@[simp] theorem State.dropPrograms_slotTables (s : State) (c : Nat) : (s.dropPrograms c).slotTables = s.slotTables := rfl
@[simp] theorem State.dropPrograms_sigs (s : State) (c : Nat) : (s.dropPrograms c).sigs = s.sigs := rfl
@[simp] theorem State.dropPrograms_host (s : State) (c : Nat) : (s.dropPrograms c).host = s.host := rfl
@[simp] theorem State.dropPrograms_err (s : State) (c : Nat) : (s.dropPrograms c).err = s.err := rfl
@[simp] theorem State.dropPrograms_links (s : State) (c : Nat) : (s.dropPrograms c).links = s.links := rfl
@[simp] theorem State.dropPrograms_mgt (s : State) (c : Nat) : (s.dropPrograms c).mgt = s.mgt := rfl
@[simp] theorem State.dropPrograms_nextId (s : State) (c : Nat) : (s.dropPrograms c).nextId = s.nextId := rfl
@[simp] theorem State.dropPrograms_fresh (s : State) (c : Nat) : (s.dropPrograms c).fresh = s.fresh := rfl
@[simp] theorem State.dropPrograms_pending (s : State) (c : Nat) : (s.dropPrograms c).pending = s.pending := rfl

/-! ### modXfer -/

@[simp] theorem State.modXfer_fuses (s : State) (i : Nat) (f : Xfer → Xfer) : (s.modXfer i f).fuses = s.fuses := rfl
@[simp] theorem State.modXfer_clk (s : State) (i : Nat) (f : Xfer → Xfer) : (s.modXfer i f).clk = s.clk := rfl
@[simp] theorem State.modXfer_cores (s : State) (i : Nat) (f : Xfer → Xfer) : (s.modXfer i f).cores = s.cores := rfl
@[simp] theorem State.modXfer_mem (s : State) (i : Nat) (f : Xfer → Xfer) : (s.modXfer i f).mem = s.mem := rfl
@[simp] theorem State.modXfer_ecc (s : State) (i : Nat) (f : Xfer → Xfer) : (s.modXfer i f).ecc = s.ecc := rfl
@[simp] theorem State.modXfer_chans (s : State) (i : Nat) (f : Xfer → Xfer) : (s.modXfer i f).chans = s.chans := rfl
@[simp] theorem State.modXfer_unitOwner (s : State) (i : Nat) (f : Xfer → Xfer) : (s.modXfer i f).unitOwner = s.unitOwner := rfl
@[simp] theorem State.modXfer_segs (s : State) (i : Nat) (f : Xfer → Xfer) : (s.modXfer i f).segs = s.segs := rfl
@[simp] theorem State.modXfer_gens (s : State) (i : Nat) (f : Xfer → Xfer) : (s.modXfer i f).gens = s.gens := rfl
@[simp] theorem State.modXfer_parts (s : State) (i : Nat) (f : Xfer → Xfer) : (s.modXfer i f).parts = s.parts := rfl
@[simp] theorem State.modXfer_tickets (s : State) (i : Nat) (f : Xfer → Xfer) : (s.modXfer i f).tickets = s.tickets := rfl
@[simp] theorem State.modXfer_slotTables (s : State) (i : Nat) (f : Xfer → Xfer) : (s.modXfer i f).slotTables = s.slotTables := rfl
@[simp] theorem State.modXfer_sigs (s : State) (i : Nat) (f : Xfer → Xfer) : (s.modXfer i f).sigs = s.sigs := rfl
@[simp] theorem State.modXfer_host (s : State) (i : Nat) (f : Xfer → Xfer) : (s.modXfer i f).host = s.host := rfl
@[simp] theorem State.modXfer_err (s : State) (i : Nat) (f : Xfer → Xfer) : (s.modXfer i f).err = s.err := rfl
@[simp] theorem State.modXfer_links (s : State) (i : Nat) (f : Xfer → Xfer) : (s.modXfer i f).links = s.links := rfl
@[simp] theorem State.modXfer_mgt (s : State) (i : Nat) (f : Xfer → Xfer) : (s.modXfer i f).mgt = s.mgt := rfl
@[simp] theorem State.modXfer_nextId (s : State) (i : Nat) (f : Xfer → Xfer) : (s.modXfer i f).nextId = s.nextId := rfl
@[simp] theorem State.modXfer_fresh (s : State) (i : Nat) (f : Xfer → Xfer) : (s.modXfer i f).fresh = s.fresh := rfl
@[simp] theorem State.modXfer_pending (s : State) (i : Nat) (f : Xfer → Xfer) : (s.modXfer i f).pending = s.pending := rfl

/-! ### delXfer -/

@[simp] theorem State.delXfer_fuses (s : State) (i : Nat) : (s.delXfer i).fuses = s.fuses := rfl
@[simp] theorem State.delXfer_clk (s : State) (i : Nat) : (s.delXfer i).clk = s.clk := rfl
@[simp] theorem State.delXfer_cores (s : State) (i : Nat) : (s.delXfer i).cores = s.cores := rfl
@[simp] theorem State.delXfer_mem (s : State) (i : Nat) : (s.delXfer i).mem = s.mem := rfl
@[simp] theorem State.delXfer_ecc (s : State) (i : Nat) : (s.delXfer i).ecc = s.ecc := rfl
@[simp] theorem State.delXfer_chans (s : State) (i : Nat) : (s.delXfer i).chans = s.chans := rfl
@[simp] theorem State.delXfer_unitOwner (s : State) (i : Nat) : (s.delXfer i).unitOwner = s.unitOwner := rfl
@[simp] theorem State.delXfer_segs (s : State) (i : Nat) : (s.delXfer i).segs = s.segs := rfl
@[simp] theorem State.delXfer_gens (s : State) (i : Nat) : (s.delXfer i).gens = s.gens := rfl
@[simp] theorem State.delXfer_parts (s : State) (i : Nat) : (s.delXfer i).parts = s.parts := rfl
@[simp] theorem State.delXfer_tickets (s : State) (i : Nat) : (s.delXfer i).tickets = s.tickets := rfl
@[simp] theorem State.delXfer_slotTables (s : State) (i : Nat) : (s.delXfer i).slotTables = s.slotTables := rfl
@[simp] theorem State.delXfer_sigs (s : State) (i : Nat) : (s.delXfer i).sigs = s.sigs := rfl
@[simp] theorem State.delXfer_host (s : State) (i : Nat) : (s.delXfer i).host = s.host := rfl
@[simp] theorem State.delXfer_err (s : State) (i : Nat) : (s.delXfer i).err = s.err := rfl
@[simp] theorem State.delXfer_links (s : State) (i : Nat) : (s.delXfer i).links = s.links := rfl
@[simp] theorem State.delXfer_mgt (s : State) (i : Nat) : (s.delXfer i).mgt = s.mgt := rfl
@[simp] theorem State.delXfer_nextId (s : State) (i : Nat) : (s.delXfer i).nextId = s.nextId := rfl
@[simp] theorem State.delXfer_fresh (s : State) (i : Nat) : (s.delXfer i).fresh = s.fresh := rfl
@[simp] theorem State.delXfer_pending (s : State) (i : Nat) : (s.delXfer i).pending = s.pending := rfl

/-! ### refuseXfer -/

@[simp] theorem State.refuseXfer_fuses (s : State) (i r : Nat) (a : Bool) : (s.refuseXfer i r a).fuses = s.fuses := rfl
@[simp] theorem State.refuseXfer_clk (s : State) (i r : Nat) (a : Bool) : (s.refuseXfer i r a).clk = s.clk := rfl
@[simp] theorem State.refuseXfer_cores (s : State) (i r : Nat) (a : Bool) : (s.refuseXfer i r a).cores = s.cores := rfl
@[simp] theorem State.refuseXfer_mem (s : State) (i r : Nat) (a : Bool) : (s.refuseXfer i r a).mem = s.mem := rfl
@[simp] theorem State.refuseXfer_ecc (s : State) (i r : Nat) (a : Bool) : (s.refuseXfer i r a).ecc = s.ecc := rfl
@[simp] theorem State.refuseXfer_chans (s : State) (i r : Nat) (a : Bool) : (s.refuseXfer i r a).chans = s.chans := rfl
@[simp] theorem State.refuseXfer_unitOwner (s : State) (i r : Nat) (a : Bool) : (s.refuseXfer i r a).unitOwner = s.unitOwner := rfl
@[simp] theorem State.refuseXfer_segs (s : State) (i r : Nat) (a : Bool) : (s.refuseXfer i r a).segs = s.segs := rfl
@[simp] theorem State.refuseXfer_gens (s : State) (i r : Nat) (a : Bool) : (s.refuseXfer i r a).gens = s.gens := rfl
@[simp] theorem State.refuseXfer_parts (s : State) (i r : Nat) (a : Bool) : (s.refuseXfer i r a).parts = s.parts := rfl
@[simp] theorem State.refuseXfer_tickets (s : State) (i r : Nat) (a : Bool) : (s.refuseXfer i r a).tickets = s.tickets := rfl
@[simp] theorem State.refuseXfer_slotTables (s : State) (i r : Nat) (a : Bool) : (s.refuseXfer i r a).slotTables = s.slotTables := rfl
@[simp] theorem State.refuseXfer_sigs (s : State) (i r : Nat) (a : Bool) : (s.refuseXfer i r a).sigs = s.sigs := rfl
@[simp] theorem State.refuseXfer_host (s : State) (i r : Nat) (a : Bool) : (s.refuseXfer i r a).host = s.host := rfl
@[simp] theorem State.refuseXfer_err (s : State) (i r : Nat) (a : Bool) : (s.refuseXfer i r a).err = s.err := rfl
@[simp] theorem State.refuseXfer_links (s : State) (i r : Nat) (a : Bool) : (s.refuseXfer i r a).links = s.links := rfl
@[simp] theorem State.refuseXfer_mgt (s : State) (i r : Nat) (a : Bool) : (s.refuseXfer i r a).mgt = s.mgt := rfl
@[simp] theorem State.refuseXfer_nextId (s : State) (i r : Nat) (a : Bool) : (s.refuseXfer i r a).nextId = s.nextId := rfl
@[simp] theorem State.refuseXfer_fresh (s : State) (i r : Nat) (a : Bool) : (s.refuseXfer i r a).fresh = s.fresh := rfl
@[simp] theorem State.refuseXfer_pending (s : State) (i r : Nat) (a : Bool) : (s.refuseXfer i r a).pending = s.pending := rfl

/-! ### discardXfer -/

@[simp] theorem State.discardXfer_fuses (s : State) (i : Nat) : (s.discardXfer i).fuses = s.fuses := rfl
@[simp] theorem State.discardXfer_clk (s : State) (i : Nat) : (s.discardXfer i).clk = s.clk := rfl
@[simp] theorem State.discardXfer_cores (s : State) (i : Nat) : (s.discardXfer i).cores = s.cores := rfl
@[simp] theorem State.discardXfer_mem (s : State) (i : Nat) : (s.discardXfer i).mem = s.mem := rfl
@[simp] theorem State.discardXfer_ecc (s : State) (i : Nat) : (s.discardXfer i).ecc = s.ecc := rfl
@[simp] theorem State.discardXfer_chans (s : State) (i : Nat) : (s.discardXfer i).chans = s.chans := rfl
@[simp] theorem State.discardXfer_unitOwner (s : State) (i : Nat) : (s.discardXfer i).unitOwner = s.unitOwner := rfl
@[simp] theorem State.discardXfer_segs (s : State) (i : Nat) : (s.discardXfer i).segs = s.segs := rfl
@[simp] theorem State.discardXfer_gens (s : State) (i : Nat) : (s.discardXfer i).gens = s.gens := rfl
@[simp] theorem State.discardXfer_parts (s : State) (i : Nat) : (s.discardXfer i).parts = s.parts := rfl
@[simp] theorem State.discardXfer_tickets (s : State) (i : Nat) : (s.discardXfer i).tickets = s.tickets := rfl
@[simp] theorem State.discardXfer_slotTables (s : State) (i : Nat) : (s.discardXfer i).slotTables = s.slotTables := rfl
@[simp] theorem State.discardXfer_sigs (s : State) (i : Nat) : (s.discardXfer i).sigs = s.sigs := rfl
@[simp] theorem State.discardXfer_host (s : State) (i : Nat) : (s.discardXfer i).host = s.host := rfl
@[simp] theorem State.discardXfer_err (s : State) (i : Nat) : (s.discardXfer i).err = s.err := rfl
@[simp] theorem State.discardXfer_links (s : State) (i : Nat) : (s.discardXfer i).links = s.links := rfl
@[simp] theorem State.discardXfer_mgt (s : State) (i : Nat) : (s.discardXfer i).mgt = s.mgt := rfl
@[simp] theorem State.discardXfer_nextId (s : State) (i : Nat) : (s.discardXfer i).nextId = s.nextId := rfl
@[simp] theorem State.discardXfer_fresh (s : State) (i : Nat) : (s.discardXfer i).fresh = s.fresh := rfl
@[simp] theorem State.discardXfer_pending (s : State) (i : Nat) : (s.discardXfer i).pending = s.pending := rfl

/-! ### send -/

@[simp] theorem State.send_fuses (s : State) (x : Sent) : (s.send x).fuses = s.fuses := rfl
@[simp] theorem State.send_clk (s : State) (x : Sent) : (s.send x).clk = s.clk := rfl
@[simp] theorem State.send_cores (s : State) (x : Sent) : (s.send x).cores = s.cores := rfl
@[simp] theorem State.send_mem (s : State) (x : Sent) : (s.send x).mem = s.mem := rfl
@[simp] theorem State.send_ecc (s : State) (x : Sent) : (s.send x).ecc = s.ecc := rfl
@[simp] theorem State.send_chans (s : State) (x : Sent) : (s.send x).chans = s.chans := rfl
@[simp] theorem State.send_unitOwner (s : State) (x : Sent) : (s.send x).unitOwner = s.unitOwner := rfl
@[simp] theorem State.send_segs (s : State) (x : Sent) : (s.send x).segs = s.segs := rfl
@[simp] theorem State.send_gens (s : State) (x : Sent) : (s.send x).gens = s.gens := rfl
@[simp] theorem State.send_parts (s : State) (x : Sent) : (s.send x).parts = s.parts := rfl
@[simp] theorem State.send_tickets (s : State) (x : Sent) : (s.send x).tickets = s.tickets := rfl
@[simp] theorem State.send_slotTables (s : State) (x : Sent) : (s.send x).slotTables = s.slotTables := rfl
@[simp] theorem State.send_xfers (s : State) (x : Sent) : (s.send x).xfers = s.xfers := rfl
@[simp] theorem State.send_sigs (s : State) (x : Sent) : (s.send x).sigs = s.sigs := rfl
@[simp] theorem State.send_err (s : State) (x : Sent) : (s.send x).err = s.err := rfl
@[simp] theorem State.send_links (s : State) (x : Sent) : (s.send x).links = s.links := rfl
@[simp] theorem State.send_mgt (s : State) (x : Sent) : (s.send x).mgt = s.mgt := rfl
@[simp] theorem State.send_nextId (s : State) (x : Sent) : (s.send x).nextId = s.nextId := rfl
@[simp] theorem State.send_fresh (s : State) (x : Sent) : (s.send x).fresh = s.fresh := rfl
@[simp] theorem State.send_pending (s : State) (x : Sent) : (s.send x).pending = s.pending := rfl

/-! ### setScope -/

@[simp] theorem State.setScope_fuses (s : State) (i : Nat) (x : Scope) : (s.setScope i x).fuses = s.fuses := rfl
@[simp] theorem State.setScope_clk (s : State) (i : Nat) (x : Scope) : (s.setScope i x).clk = s.clk := rfl
@[simp] theorem State.setScope_cores (s : State) (i : Nat) (x : Scope) : (s.setScope i x).cores = s.cores := rfl
@[simp] theorem State.setScope_mem (s : State) (i : Nat) (x : Scope) : (s.setScope i x).mem = s.mem := rfl
@[simp] theorem State.setScope_ecc (s : State) (i : Nat) (x : Scope) : (s.setScope i x).ecc = s.ecc := rfl
@[simp] theorem State.setScope_chans (s : State) (i : Nat) (x : Scope) : (s.setScope i x).chans = s.chans := rfl
@[simp] theorem State.setScope_unitOwner (s : State) (i : Nat) (x : Scope) : (s.setScope i x).unitOwner = s.unitOwner := rfl
@[simp] theorem State.setScope_segs (s : State) (i : Nat) (x : Scope) : (s.setScope i x).segs = s.segs := rfl
@[simp] theorem State.setScope_gens (s : State) (i : Nat) (x : Scope) : (s.setScope i x).gens = s.gens := rfl
@[simp] theorem State.setScope_parts (s : State) (i : Nat) (x : Scope) : (s.setScope i x).parts = s.parts := rfl
@[simp] theorem State.setScope_tickets (s : State) (i : Nat) (x : Scope) : (s.setScope i x).tickets = s.tickets := rfl
@[simp] theorem State.setScope_slotTables (s : State) (i : Nat) (x : Scope) : (s.setScope i x).slotTables = s.slotTables := rfl
@[simp] theorem State.setScope_xfers (s : State) (i : Nat) (x : Scope) : (s.setScope i x).xfers = s.xfers := rfl
@[simp] theorem State.setScope_sigs (s : State) (i : Nat) (x : Scope) : (s.setScope i x).sigs = s.sigs := rfl
@[simp] theorem State.setScope_err (s : State) (i : Nat) (x : Scope) : (s.setScope i x).err = s.err := rfl
@[simp] theorem State.setScope_links (s : State) (i : Nat) (x : Scope) : (s.setScope i x).links = s.links := rfl
@[simp] theorem State.setScope_mgt (s : State) (i : Nat) (x : Scope) : (s.setScope i x).mgt = s.mgt := rfl
@[simp] theorem State.setScope_nextId (s : State) (i : Nat) (x : Scope) : (s.setScope i x).nextId = s.nextId := rfl
@[simp] theorem State.setScope_fresh (s : State) (i : Nat) (x : Scope) : (s.setScope i x).fresh = s.fresh := rfl
@[simp] theorem State.setScope_pending (s : State) (i : Nat) (x : Scope) : (s.setScope i x).pending = s.pending := rfl

/-! ### longStart -/

@[simp] theorem State.longStart_fuses (s : State) (scope seq opcode a b : Nat) : (s.longStart scope seq opcode a b).fuses = s.fuses := rfl
@[simp] theorem State.longStart_clk (s : State) (scope seq opcode a b : Nat) : (s.longStart scope seq opcode a b).clk = s.clk := rfl
@[simp] theorem State.longStart_cores (s : State) (scope seq opcode a b : Nat) : (s.longStart scope seq opcode a b).cores = s.cores := rfl
@[simp] theorem State.longStart_mem (s : State) (scope seq opcode a b : Nat) : (s.longStart scope seq opcode a b).mem = s.mem := rfl
@[simp] theorem State.longStart_ecc (s : State) (scope seq opcode a b : Nat) : (s.longStart scope seq opcode a b).ecc = s.ecc := rfl
@[simp] theorem State.longStart_chans (s : State) (scope seq opcode a b : Nat) : (s.longStart scope seq opcode a b).chans = s.chans := rfl
@[simp] theorem State.longStart_unitOwner (s : State) (scope seq opcode a b : Nat) : (s.longStart scope seq opcode a b).unitOwner = s.unitOwner := rfl
@[simp] theorem State.longStart_segs (s : State) (scope seq opcode a b : Nat) : (s.longStart scope seq opcode a b).segs = s.segs := rfl
@[simp] theorem State.longStart_gens (s : State) (scope seq opcode a b : Nat) : (s.longStart scope seq opcode a b).gens = s.gens := rfl
@[simp] theorem State.longStart_parts (s : State) (scope seq opcode a b : Nat) : (s.longStart scope seq opcode a b).parts = s.parts := rfl
@[simp] theorem State.longStart_tickets (s : State) (scope seq opcode a b : Nat) : (s.longStart scope seq opcode a b).tickets = s.tickets := rfl
@[simp] theorem State.longStart_slotTables (s : State) (scope seq opcode a b : Nat) : (s.longStart scope seq opcode a b).slotTables = s.slotTables := rfl
@[simp] theorem State.longStart_xfers (s : State) (scope seq opcode a b : Nat) : (s.longStart scope seq opcode a b).xfers = s.xfers := rfl
@[simp] theorem State.longStart_sigs (s : State) (scope seq opcode a b : Nat) : (s.longStart scope seq opcode a b).sigs = s.sigs := rfl
@[simp] theorem State.longStart_err (s : State) (scope seq opcode a b : Nat) : (s.longStart scope seq opcode a b).err = s.err := rfl
@[simp] theorem State.longStart_links (s : State) (scope seq opcode a b : Nat) : (s.longStart scope seq opcode a b).links = s.links := rfl
@[simp] theorem State.longStart_mgt (s : State) (scope seq opcode a b : Nat) : (s.longStart scope seq opcode a b).mgt = s.mgt := rfl
@[simp] theorem State.longStart_nextId (s : State) (scope seq opcode a b : Nat) : (s.longStart scope seq opcode a b).nextId = s.nextId := rfl
@[simp] theorem State.longStart_fresh (s : State) (scope seq opcode a b : Nat) : (s.longStart scope seq opcode a b).fresh = s.fresh := rfl
@[simp] theorem State.longStart_pending (s : State) (scope seq opcode a b : Nat) : (s.longStart scope seq opcode a b).pending = s.pending := rfl

/-! ### recordAnswer -/

@[simp] theorem State.recordAnswer_fuses (s : State) (qp : QPair) (f : Frame) : (s.recordAnswer qp f).fuses = s.fuses := rfl
@[simp] theorem State.recordAnswer_clk (s : State) (qp : QPair) (f : Frame) : (s.recordAnswer qp f).clk = s.clk := rfl
@[simp] theorem State.recordAnswer_cores (s : State) (qp : QPair) (f : Frame) : (s.recordAnswer qp f).cores = s.cores := rfl
@[simp] theorem State.recordAnswer_mem (s : State) (qp : QPair) (f : Frame) : (s.recordAnswer qp f).mem = s.mem := rfl
@[simp] theorem State.recordAnswer_ecc (s : State) (qp : QPair) (f : Frame) : (s.recordAnswer qp f).ecc = s.ecc := rfl
@[simp] theorem State.recordAnswer_chans (s : State) (qp : QPair) (f : Frame) : (s.recordAnswer qp f).chans = s.chans := rfl
@[simp] theorem State.recordAnswer_unitOwner (s : State) (qp : QPair) (f : Frame) : (s.recordAnswer qp f).unitOwner = s.unitOwner := rfl
@[simp] theorem State.recordAnswer_segs (s : State) (qp : QPair) (f : Frame) : (s.recordAnswer qp f).segs = s.segs := rfl
@[simp] theorem State.recordAnswer_gens (s : State) (qp : QPair) (f : Frame) : (s.recordAnswer qp f).gens = s.gens := rfl
@[simp] theorem State.recordAnswer_parts (s : State) (qp : QPair) (f : Frame) : (s.recordAnswer qp f).parts = s.parts := rfl
@[simp] theorem State.recordAnswer_tickets (s : State) (qp : QPair) (f : Frame) : (s.recordAnswer qp f).tickets = s.tickets := rfl
@[simp] theorem State.recordAnswer_slotTables (s : State) (qp : QPair) (f : Frame) : (s.recordAnswer qp f).slotTables = s.slotTables := rfl
@[simp] theorem State.recordAnswer_xfers (s : State) (qp : QPair) (f : Frame) : (s.recordAnswer qp f).xfers = s.xfers := rfl
@[simp] theorem State.recordAnswer_sigs (s : State) (qp : QPair) (f : Frame) : (s.recordAnswer qp f).sigs = s.sigs := rfl
@[simp] theorem State.recordAnswer_err (s : State) (qp : QPair) (f : Frame) : (s.recordAnswer qp f).err = s.err := rfl
@[simp] theorem State.recordAnswer_links (s : State) (qp : QPair) (f : Frame) : (s.recordAnswer qp f).links = s.links := rfl
@[simp] theorem State.recordAnswer_mgt (s : State) (qp : QPair) (f : Frame) : (s.recordAnswer qp f).mgt = s.mgt := rfl
@[simp] theorem State.recordAnswer_nextId (s : State) (qp : QPair) (f : Frame) : (s.recordAnswer qp f).nextId = s.nextId := rfl
@[simp] theorem State.recordAnswer_fresh (s : State) (qp : QPair) (f : Frame) : (s.recordAnswer qp f).fresh = s.fresh := rfl
@[simp] theorem State.recordAnswer_pending (s : State) (qp : QPair) (f : Frame) : (s.recordAnswer qp f).pending = s.pending := rfl

/-! ### setLink -/

@[simp] theorem State.setLink_fuses (s : State) (l : Nat) (x : Link) : (s.setLink l x).fuses = s.fuses := rfl
@[simp] theorem State.setLink_clk (s : State) (l : Nat) (x : Link) : (s.setLink l x).clk = s.clk := rfl
@[simp] theorem State.setLink_cores (s : State) (l : Nat) (x : Link) : (s.setLink l x).cores = s.cores := rfl
@[simp] theorem State.setLink_mem (s : State) (l : Nat) (x : Link) : (s.setLink l x).mem = s.mem := rfl
@[simp] theorem State.setLink_ecc (s : State) (l : Nat) (x : Link) : (s.setLink l x).ecc = s.ecc := rfl
@[simp] theorem State.setLink_chans (s : State) (l : Nat) (x : Link) : (s.setLink l x).chans = s.chans := rfl
@[simp] theorem State.setLink_unitOwner (s : State) (l : Nat) (x : Link) : (s.setLink l x).unitOwner = s.unitOwner := rfl
@[simp] theorem State.setLink_segs (s : State) (l : Nat) (x : Link) : (s.setLink l x).segs = s.segs := rfl
@[simp] theorem State.setLink_gens (s : State) (l : Nat) (x : Link) : (s.setLink l x).gens = s.gens := rfl
@[simp] theorem State.setLink_parts (s : State) (l : Nat) (x : Link) : (s.setLink l x).parts = s.parts := rfl
@[simp] theorem State.setLink_tickets (s : State) (l : Nat) (x : Link) : (s.setLink l x).tickets = s.tickets := rfl
@[simp] theorem State.setLink_slotTables (s : State) (l : Nat) (x : Link) : (s.setLink l x).slotTables = s.slotTables := rfl
@[simp] theorem State.setLink_xfers (s : State) (l : Nat) (x : Link) : (s.setLink l x).xfers = s.xfers := rfl
@[simp] theorem State.setLink_sigs (s : State) (l : Nat) (x : Link) : (s.setLink l x).sigs = s.sigs := rfl
@[simp] theorem State.setLink_host (s : State) (l : Nat) (x : Link) : (s.setLink l x).host = s.host := rfl
@[simp] theorem State.setLink_err (s : State) (l : Nat) (x : Link) : (s.setLink l x).err = s.err := rfl
@[simp] theorem State.setLink_mgt (s : State) (l : Nat) (x : Link) : (s.setLink l x).mgt = s.mgt := rfl
@[simp] theorem State.setLink_nextId (s : State) (l : Nat) (x : Link) : (s.setLink l x).nextId = s.nextId := rfl
@[simp] theorem State.setLink_fresh (s : State) (l : Nat) (x : Link) : (s.setLink l x).fresh = s.fresh := rfl
@[simp] theorem State.setLink_pending (s : State) (l : Nat) (x : Link) : (s.setLink l x).pending = s.pending := rfl

/-! ### modLink -/

@[simp] theorem State.modLink_fuses (s : State) (l : Nat) (f : Link → Link) : (s.modLink l f).fuses = s.fuses := rfl
@[simp] theorem State.modLink_clk (s : State) (l : Nat) (f : Link → Link) : (s.modLink l f).clk = s.clk := rfl
@[simp] theorem State.modLink_cores (s : State) (l : Nat) (f : Link → Link) : (s.modLink l f).cores = s.cores := rfl
@[simp] theorem State.modLink_mem (s : State) (l : Nat) (f : Link → Link) : (s.modLink l f).mem = s.mem := rfl
@[simp] theorem State.modLink_ecc (s : State) (l : Nat) (f : Link → Link) : (s.modLink l f).ecc = s.ecc := rfl
@[simp] theorem State.modLink_chans (s : State) (l : Nat) (f : Link → Link) : (s.modLink l f).chans = s.chans := rfl
@[simp] theorem State.modLink_unitOwner (s : State) (l : Nat) (f : Link → Link) : (s.modLink l f).unitOwner = s.unitOwner := rfl
@[simp] theorem State.modLink_segs (s : State) (l : Nat) (f : Link → Link) : (s.modLink l f).segs = s.segs := rfl
@[simp] theorem State.modLink_gens (s : State) (l : Nat) (f : Link → Link) : (s.modLink l f).gens = s.gens := rfl
@[simp] theorem State.modLink_parts (s : State) (l : Nat) (f : Link → Link) : (s.modLink l f).parts = s.parts := rfl
@[simp] theorem State.modLink_tickets (s : State) (l : Nat) (f : Link → Link) : (s.modLink l f).tickets = s.tickets := rfl
@[simp] theorem State.modLink_slotTables (s : State) (l : Nat) (f : Link → Link) : (s.modLink l f).slotTables = s.slotTables := rfl
@[simp] theorem State.modLink_xfers (s : State) (l : Nat) (f : Link → Link) : (s.modLink l f).xfers = s.xfers := rfl
@[simp] theorem State.modLink_sigs (s : State) (l : Nat) (f : Link → Link) : (s.modLink l f).sigs = s.sigs := rfl
@[simp] theorem State.modLink_host (s : State) (l : Nat) (f : Link → Link) : (s.modLink l f).host = s.host := rfl
@[simp] theorem State.modLink_err (s : State) (l : Nat) (f : Link → Link) : (s.modLink l f).err = s.err := rfl
@[simp] theorem State.modLink_mgt (s : State) (l : Nat) (f : Link → Link) : (s.modLink l f).mgt = s.mgt := rfl
@[simp] theorem State.modLink_nextId (s : State) (l : Nat) (f : Link → Link) : (s.modLink l f).nextId = s.nextId := rfl
@[simp] theorem State.modLink_fresh (s : State) (l : Nat) (f : Link → Link) : (s.modLink l f).fresh = s.fresh := rfl
@[simp] theorem State.modLink_pending (s : State) (l : Nat) (f : Link → Link) : (s.modLink l f).pending = s.pending := rfl

/-! ### modClk -/

@[simp] theorem State.modClk_fuses (s : State) (f : Clocks → Clocks) : (s.modClk f).fuses = s.fuses := rfl
@[simp] theorem State.modClk_cores (s : State) (f : Clocks → Clocks) : (s.modClk f).cores = s.cores := rfl
@[simp] theorem State.modClk_mem (s : State) (f : Clocks → Clocks) : (s.modClk f).mem = s.mem := rfl
@[simp] theorem State.modClk_ecc (s : State) (f : Clocks → Clocks) : (s.modClk f).ecc = s.ecc := rfl
@[simp] theorem State.modClk_chans (s : State) (f : Clocks → Clocks) : (s.modClk f).chans = s.chans := rfl
@[simp] theorem State.modClk_unitOwner (s : State) (f : Clocks → Clocks) : (s.modClk f).unitOwner = s.unitOwner := rfl
@[simp] theorem State.modClk_segs (s : State) (f : Clocks → Clocks) : (s.modClk f).segs = s.segs := rfl
@[simp] theorem State.modClk_gens (s : State) (f : Clocks → Clocks) : (s.modClk f).gens = s.gens := rfl
@[simp] theorem State.modClk_parts (s : State) (f : Clocks → Clocks) : (s.modClk f).parts = s.parts := rfl
@[simp] theorem State.modClk_tickets (s : State) (f : Clocks → Clocks) : (s.modClk f).tickets = s.tickets := rfl
@[simp] theorem State.modClk_slotTables (s : State) (f : Clocks → Clocks) : (s.modClk f).slotTables = s.slotTables := rfl
@[simp] theorem State.modClk_xfers (s : State) (f : Clocks → Clocks) : (s.modClk f).xfers = s.xfers := rfl
@[simp] theorem State.modClk_sigs (s : State) (f : Clocks → Clocks) : (s.modClk f).sigs = s.sigs := rfl
@[simp] theorem State.modClk_host (s : State) (f : Clocks → Clocks) : (s.modClk f).host = s.host := rfl
@[simp] theorem State.modClk_err (s : State) (f : Clocks → Clocks) : (s.modClk f).err = s.err := rfl
@[simp] theorem State.modClk_links (s : State) (f : Clocks → Clocks) : (s.modClk f).links = s.links := rfl
@[simp] theorem State.modClk_mgt (s : State) (f : Clocks → Clocks) : (s.modClk f).mgt = s.mgt := rfl
@[simp] theorem State.modClk_nextId (s : State) (f : Clocks → Clocks) : (s.modClk f).nextId = s.nextId := rfl
@[simp] theorem State.modClk_fresh (s : State) (f : Clocks → Clocks) : (s.modClk f).fresh = s.fresh := rfl
@[simp] theorem State.modClk_pending (s : State) (f : Clocks → Clocks) : (s.modClk f).pending = s.pending := rfl

/-! ### modReplica -/

@[simp] theorem State.modReplica_fuses (s : State) (r : Nat) (f : Replica → Replica) : (s.modReplica r f).fuses = s.fuses := rfl
@[simp] theorem State.modReplica_cores (s : State) (r : Nat) (f : Replica → Replica) : (s.modReplica r f).cores = s.cores := rfl
@[simp] theorem State.modReplica_mem (s : State) (r : Nat) (f : Replica → Replica) : (s.modReplica r f).mem = s.mem := rfl
@[simp] theorem State.modReplica_ecc (s : State) (r : Nat) (f : Replica → Replica) : (s.modReplica r f).ecc = s.ecc := rfl
@[simp] theorem State.modReplica_chans (s : State) (r : Nat) (f : Replica → Replica) : (s.modReplica r f).chans = s.chans := rfl
@[simp] theorem State.modReplica_unitOwner (s : State) (r : Nat) (f : Replica → Replica) : (s.modReplica r f).unitOwner = s.unitOwner := rfl
@[simp] theorem State.modReplica_segs (s : State) (r : Nat) (f : Replica → Replica) : (s.modReplica r f).segs = s.segs := rfl
@[simp] theorem State.modReplica_gens (s : State) (r : Nat) (f : Replica → Replica) : (s.modReplica r f).gens = s.gens := rfl
@[simp] theorem State.modReplica_parts (s : State) (r : Nat) (f : Replica → Replica) : (s.modReplica r f).parts = s.parts := rfl
@[simp] theorem State.modReplica_tickets (s : State) (r : Nat) (f : Replica → Replica) : (s.modReplica r f).tickets = s.tickets := rfl
@[simp] theorem State.modReplica_slotTables (s : State) (r : Nat) (f : Replica → Replica) : (s.modReplica r f).slotTables = s.slotTables := rfl
@[simp] theorem State.modReplica_xfers (s : State) (r : Nat) (f : Replica → Replica) : (s.modReplica r f).xfers = s.xfers := rfl
@[simp] theorem State.modReplica_sigs (s : State) (r : Nat) (f : Replica → Replica) : (s.modReplica r f).sigs = s.sigs := rfl
@[simp] theorem State.modReplica_host (s : State) (r : Nat) (f : Replica → Replica) : (s.modReplica r f).host = s.host := rfl
@[simp] theorem State.modReplica_err (s : State) (r : Nat) (f : Replica → Replica) : (s.modReplica r f).err = s.err := rfl
@[simp] theorem State.modReplica_links (s : State) (r : Nat) (f : Replica → Replica) : (s.modReplica r f).links = s.links := rfl
@[simp] theorem State.modReplica_mgt (s : State) (r : Nat) (f : Replica → Replica) : (s.modReplica r f).mgt = s.mgt := rfl
@[simp] theorem State.modReplica_nextId (s : State) (r : Nat) (f : Replica → Replica) : (s.modReplica r f).nextId = s.nextId := rfl
@[simp] theorem State.modReplica_fresh (s : State) (r : Nat) (f : Replica → Replica) : (s.modReplica r f).fresh = s.fresh := rfl
@[simp] theorem State.modReplica_pending (s : State) (r : Nat) (f : Replica → Replica) : (s.modReplica r f).pending = s.pending := rfl

/-! ### setMargin -/

@[simp] theorem State.setMargin_fuses (s : State) (r m : Nat) : (s.setMargin r m).fuses = s.fuses := rfl
@[simp] theorem State.setMargin_cores (s : State) (r m : Nat) : (s.setMargin r m).cores = s.cores := rfl
@[simp] theorem State.setMargin_mem (s : State) (r m : Nat) : (s.setMargin r m).mem = s.mem := rfl
@[simp] theorem State.setMargin_ecc (s : State) (r m : Nat) : (s.setMargin r m).ecc = s.ecc := rfl
@[simp] theorem State.setMargin_chans (s : State) (r m : Nat) : (s.setMargin r m).chans = s.chans := rfl
@[simp] theorem State.setMargin_unitOwner (s : State) (r m : Nat) : (s.setMargin r m).unitOwner = s.unitOwner := rfl
@[simp] theorem State.setMargin_segs (s : State) (r m : Nat) : (s.setMargin r m).segs = s.segs := rfl
@[simp] theorem State.setMargin_gens (s : State) (r m : Nat) : (s.setMargin r m).gens = s.gens := rfl
@[simp] theorem State.setMargin_parts (s : State) (r m : Nat) : (s.setMargin r m).parts = s.parts := rfl
@[simp] theorem State.setMargin_tickets (s : State) (r m : Nat) : (s.setMargin r m).tickets = s.tickets := rfl
@[simp] theorem State.setMargin_slotTables (s : State) (r m : Nat) : (s.setMargin r m).slotTables = s.slotTables := rfl
@[simp] theorem State.setMargin_xfers (s : State) (r m : Nat) : (s.setMargin r m).xfers = s.xfers := rfl
@[simp] theorem State.setMargin_sigs (s : State) (r m : Nat) : (s.setMargin r m).sigs = s.sigs := rfl
@[simp] theorem State.setMargin_host (s : State) (r m : Nat) : (s.setMargin r m).host = s.host := rfl
@[simp] theorem State.setMargin_err (s : State) (r m : Nat) : (s.setMargin r m).err = s.err := rfl
@[simp] theorem State.setMargin_links (s : State) (r m : Nat) : (s.setMargin r m).links = s.links := rfl
@[simp] theorem State.setMargin_mgt (s : State) (r m : Nat) : (s.setMargin r m).mgt = s.mgt := rfl
@[simp] theorem State.setMargin_nextId (s : State) (r m : Nat) : (s.setMargin r m).nextId = s.nextId := rfl
@[simp] theorem State.setMargin_fresh (s : State) (r m : Nat) : (s.setMargin r m).fresh = s.fresh := rfl
@[simp] theorem State.setMargin_pending (s : State) (r m : Nat) : (s.setMargin r m).pending = s.pending := rfl

/-! ### needRecovery -/

@[simp] theorem State.needRecovery_fuses (s : State) : (s.needRecovery ).fuses = s.fuses := rfl
@[simp] theorem State.needRecovery_cores (s : State) : (s.needRecovery ).cores = s.cores := rfl
@[simp] theorem State.needRecovery_mem (s : State) : (s.needRecovery ).mem = s.mem := rfl
@[simp] theorem State.needRecovery_ecc (s : State) : (s.needRecovery ).ecc = s.ecc := rfl
@[simp] theorem State.needRecovery_chans (s : State) : (s.needRecovery ).chans = s.chans := rfl
@[simp] theorem State.needRecovery_unitOwner (s : State) : (s.needRecovery ).unitOwner = s.unitOwner := rfl
@[simp] theorem State.needRecovery_segs (s : State) : (s.needRecovery ).segs = s.segs := rfl
@[simp] theorem State.needRecovery_gens (s : State) : (s.needRecovery ).gens = s.gens := rfl
@[simp] theorem State.needRecovery_parts (s : State) : (s.needRecovery ).parts = s.parts := rfl
@[simp] theorem State.needRecovery_tickets (s : State) : (s.needRecovery ).tickets = s.tickets := rfl
@[simp] theorem State.needRecovery_slotTables (s : State) : (s.needRecovery ).slotTables = s.slotTables := rfl
@[simp] theorem State.needRecovery_xfers (s : State) : (s.needRecovery ).xfers = s.xfers := rfl
@[simp] theorem State.needRecovery_sigs (s : State) : (s.needRecovery ).sigs = s.sigs := rfl
@[simp] theorem State.needRecovery_host (s : State) : (s.needRecovery ).host = s.host := rfl
@[simp] theorem State.needRecovery_err (s : State) : (s.needRecovery ).err = s.err := rfl
@[simp] theorem State.needRecovery_links (s : State) : (s.needRecovery ).links = s.links := rfl
@[simp] theorem State.needRecovery_mgt (s : State) : (s.needRecovery ).mgt = s.mgt := rfl
@[simp] theorem State.needRecovery_nextId (s : State) : (s.needRecovery ).nextId = s.nextId := rfl
@[simp] theorem State.needRecovery_fresh (s : State) : (s.needRecovery ).fresh = s.fresh := rfl
@[simp] theorem State.needRecovery_pending (s : State) : (s.needRecovery ).pending = s.pending := rfl

/-! ### measure -/

@[simp] theorem State.measure_fuses (s : State) (o : Int) : (s.measure o).fuses = s.fuses := rfl
@[simp] theorem State.measure_cores (s : State) (o : Int) : (s.measure o).cores = s.cores := rfl
@[simp] theorem State.measure_mem (s : State) (o : Int) : (s.measure o).mem = s.mem := rfl
@[simp] theorem State.measure_ecc (s : State) (o : Int) : (s.measure o).ecc = s.ecc := rfl
@[simp] theorem State.measure_chans (s : State) (o : Int) : (s.measure o).chans = s.chans := rfl
@[simp] theorem State.measure_unitOwner (s : State) (o : Int) : (s.measure o).unitOwner = s.unitOwner := rfl
@[simp] theorem State.measure_segs (s : State) (o : Int) : (s.measure o).segs = s.segs := rfl
@[simp] theorem State.measure_gens (s : State) (o : Int) : (s.measure o).gens = s.gens := rfl
@[simp] theorem State.measure_parts (s : State) (o : Int) : (s.measure o).parts = s.parts := rfl
@[simp] theorem State.measure_tickets (s : State) (o : Int) : (s.measure o).tickets = s.tickets := rfl
@[simp] theorem State.measure_slotTables (s : State) (o : Int) : (s.measure o).slotTables = s.slotTables := rfl
@[simp] theorem State.measure_xfers (s : State) (o : Int) : (s.measure o).xfers = s.xfers := rfl
@[simp] theorem State.measure_sigs (s : State) (o : Int) : (s.measure o).sigs = s.sigs := rfl
@[simp] theorem State.measure_host (s : State) (o : Int) : (s.measure o).host = s.host := rfl
@[simp] theorem State.measure_err (s : State) (o : Int) : (s.measure o).err = s.err := rfl
@[simp] theorem State.measure_links (s : State) (o : Int) : (s.measure o).links = s.links := rfl
@[simp] theorem State.measure_mgt (s : State) (o : Int) : (s.measure o).mgt = s.mgt := rfl
@[simp] theorem State.measure_nextId (s : State) (o : Int) : (s.measure o).nextId = s.nextId := rfl
@[simp] theorem State.measure_fresh (s : State) (o : Int) : (s.measure o).fresh = s.fresh := rfl
@[simp] theorem State.measure_pending (s : State) (o : Int) : (s.measure o).pending = s.pending := rfl

/-! ### slewBy -/

@[simp] theorem State.slewBy_fuses (s : State) (o : Int) : (s.slewBy o).fuses = s.fuses := rfl
@[simp] theorem State.slewBy_cores (s : State) (o : Int) : (s.slewBy o).cores = s.cores := rfl
@[simp] theorem State.slewBy_mem (s : State) (o : Int) : (s.slewBy o).mem = s.mem := rfl
@[simp] theorem State.slewBy_ecc (s : State) (o : Int) : (s.slewBy o).ecc = s.ecc := rfl
@[simp] theorem State.slewBy_chans (s : State) (o : Int) : (s.slewBy o).chans = s.chans := rfl
@[simp] theorem State.slewBy_unitOwner (s : State) (o : Int) : (s.slewBy o).unitOwner = s.unitOwner := rfl
@[simp] theorem State.slewBy_segs (s : State) (o : Int) : (s.slewBy o).segs = s.segs := rfl
@[simp] theorem State.slewBy_gens (s : State) (o : Int) : (s.slewBy o).gens = s.gens := rfl
@[simp] theorem State.slewBy_parts (s : State) (o : Int) : (s.slewBy o).parts = s.parts := rfl
@[simp] theorem State.slewBy_tickets (s : State) (o : Int) : (s.slewBy o).tickets = s.tickets := rfl
@[simp] theorem State.slewBy_slotTables (s : State) (o : Int) : (s.slewBy o).slotTables = s.slotTables := rfl
@[simp] theorem State.slewBy_xfers (s : State) (o : Int) : (s.slewBy o).xfers = s.xfers := rfl
@[simp] theorem State.slewBy_sigs (s : State) (o : Int) : (s.slewBy o).sigs = s.sigs := rfl
@[simp] theorem State.slewBy_host (s : State) (o : Int) : (s.slewBy o).host = s.host := rfl
@[simp] theorem State.slewBy_err (s : State) (o : Int) : (s.slewBy o).err = s.err := rfl
@[simp] theorem State.slewBy_links (s : State) (o : Int) : (s.slewBy o).links = s.links := rfl
@[simp] theorem State.slewBy_mgt (s : State) (o : Int) : (s.slewBy o).mgt = s.mgt := rfl
@[simp] theorem State.slewBy_nextId (s : State) (o : Int) : (s.slewBy o).nextId = s.nextId := rfl
@[simp] theorem State.slewBy_fresh (s : State) (o : Int) : (s.slewBy o).fresh = s.fresh := rfl
@[simp] theorem State.slewBy_pending (s : State) (o : Int) : (s.slewBy o).pending = s.pending := rfl

/-! ### condInput -/

@[simp] theorem State.condInput_fuses (s : State) (i : Nat) (on : Bool) : (s.condInput i on).fuses = s.fuses := rfl
@[simp] theorem State.condInput_clk (s : State) (i : Nat) (on : Bool) : (s.condInput i on).clk = s.clk := rfl
@[simp] theorem State.condInput_cores (s : State) (i : Nat) (on : Bool) : (s.condInput i on).cores = s.cores := rfl
@[simp] theorem State.condInput_mem (s : State) (i : Nat) (on : Bool) : (s.condInput i on).mem = s.mem := rfl
@[simp] theorem State.condInput_ecc (s : State) (i : Nat) (on : Bool) : (s.condInput i on).ecc = s.ecc := rfl
@[simp] theorem State.condInput_chans (s : State) (i : Nat) (on : Bool) : (s.condInput i on).chans = s.chans := rfl
@[simp] theorem State.condInput_unitOwner (s : State) (i : Nat) (on : Bool) : (s.condInput i on).unitOwner = s.unitOwner := rfl
@[simp] theorem State.condInput_segs (s : State) (i : Nat) (on : Bool) : (s.condInput i on).segs = s.segs := rfl
@[simp] theorem State.condInput_gens (s : State) (i : Nat) (on : Bool) : (s.condInput i on).gens = s.gens := rfl
@[simp] theorem State.condInput_parts (s : State) (i : Nat) (on : Bool) : (s.condInput i on).parts = s.parts := rfl
@[simp] theorem State.condInput_tickets (s : State) (i : Nat) (on : Bool) : (s.condInput i on).tickets = s.tickets := rfl
@[simp] theorem State.condInput_slotTables (s : State) (i : Nat) (on : Bool) : (s.condInput i on).slotTables = s.slotTables := rfl
@[simp] theorem State.condInput_xfers (s : State) (i : Nat) (on : Bool) : (s.condInput i on).xfers = s.xfers := rfl
@[simp] theorem State.condInput_sigs (s : State) (i : Nat) (on : Bool) : (s.condInput i on).sigs = s.sigs := rfl
@[simp] theorem State.condInput_host (s : State) (i : Nat) (on : Bool) : (s.condInput i on).host = s.host := rfl
@[simp] theorem State.condInput_err (s : State) (i : Nat) (on : Bool) : (s.condInput i on).err = s.err := rfl
@[simp] theorem State.condInput_links (s : State) (i : Nat) (on : Bool) : (s.condInput i on).links = s.links := rfl
@[simp] theorem State.condInput_nextId (s : State) (i : Nat) (on : Bool) : (s.condInput i on).nextId = s.nextId := rfl
@[simp] theorem State.condInput_fresh (s : State) (i : Nat) (on : Bool) : (s.condInput i on).fresh = s.fresh := rfl
@[simp] theorem State.condInput_pending (s : State) (i : Nat) (on : Bool) : (s.condInput i on).pending = s.pending := rfl

/-! ### condTemp -/

@[simp] theorem State.condTemp_fuses (s : State) (i : Nat) (on : Bool) : (s.condTemp i on).fuses = s.fuses := rfl
@[simp] theorem State.condTemp_clk (s : State) (i : Nat) (on : Bool) : (s.condTemp i on).clk = s.clk := rfl
@[simp] theorem State.condTemp_cores (s : State) (i : Nat) (on : Bool) : (s.condTemp i on).cores = s.cores := rfl
@[simp] theorem State.condTemp_mem (s : State) (i : Nat) (on : Bool) : (s.condTemp i on).mem = s.mem := rfl
@[simp] theorem State.condTemp_ecc (s : State) (i : Nat) (on : Bool) : (s.condTemp i on).ecc = s.ecc := rfl
@[simp] theorem State.condTemp_chans (s : State) (i : Nat) (on : Bool) : (s.condTemp i on).chans = s.chans := rfl
@[simp] theorem State.condTemp_unitOwner (s : State) (i : Nat) (on : Bool) : (s.condTemp i on).unitOwner = s.unitOwner := rfl
@[simp] theorem State.condTemp_segs (s : State) (i : Nat) (on : Bool) : (s.condTemp i on).segs = s.segs := rfl
@[simp] theorem State.condTemp_gens (s : State) (i : Nat) (on : Bool) : (s.condTemp i on).gens = s.gens := rfl
@[simp] theorem State.condTemp_parts (s : State) (i : Nat) (on : Bool) : (s.condTemp i on).parts = s.parts := rfl
@[simp] theorem State.condTemp_tickets (s : State) (i : Nat) (on : Bool) : (s.condTemp i on).tickets = s.tickets := rfl
@[simp] theorem State.condTemp_slotTables (s : State) (i : Nat) (on : Bool) : (s.condTemp i on).slotTables = s.slotTables := rfl
@[simp] theorem State.condTemp_xfers (s : State) (i : Nat) (on : Bool) : (s.condTemp i on).xfers = s.xfers := rfl
@[simp] theorem State.condTemp_sigs (s : State) (i : Nat) (on : Bool) : (s.condTemp i on).sigs = s.sigs := rfl
@[simp] theorem State.condTemp_host (s : State) (i : Nat) (on : Bool) : (s.condTemp i on).host = s.host := rfl
@[simp] theorem State.condTemp_err (s : State) (i : Nat) (on : Bool) : (s.condTemp i on).err = s.err := rfl
@[simp] theorem State.condTemp_links (s : State) (i : Nat) (on : Bool) : (s.condTemp i on).links = s.links := rfl
@[simp] theorem State.condTemp_nextId (s : State) (i : Nat) (on : Bool) : (s.condTemp i on).nextId = s.nextId := rfl
@[simp] theorem State.condTemp_fresh (s : State) (i : Nat) (on : Bool) : (s.condTemp i on).fresh = s.fresh := rfl
@[simp] theorem State.condTemp_pending (s : State) (i : Nat) (on : Bool) : (s.condTemp i on).pending = s.pending := rfl

/-! ### condMfr -/

@[simp] theorem State.condMfr_fuses (s : State) (i : Nat) (on : Bool) : (s.condMfr i on).fuses = s.fuses := rfl
@[simp] theorem State.condMfr_clk (s : State) (i : Nat) (on : Bool) : (s.condMfr i on).clk = s.clk := rfl
@[simp] theorem State.condMfr_cores (s : State) (i : Nat) (on : Bool) : (s.condMfr i on).cores = s.cores := rfl
@[simp] theorem State.condMfr_mem (s : State) (i : Nat) (on : Bool) : (s.condMfr i on).mem = s.mem := rfl
@[simp] theorem State.condMfr_ecc (s : State) (i : Nat) (on : Bool) : (s.condMfr i on).ecc = s.ecc := rfl
@[simp] theorem State.condMfr_chans (s : State) (i : Nat) (on : Bool) : (s.condMfr i on).chans = s.chans := rfl
@[simp] theorem State.condMfr_unitOwner (s : State) (i : Nat) (on : Bool) : (s.condMfr i on).unitOwner = s.unitOwner := rfl
@[simp] theorem State.condMfr_segs (s : State) (i : Nat) (on : Bool) : (s.condMfr i on).segs = s.segs := rfl
@[simp] theorem State.condMfr_gens (s : State) (i : Nat) (on : Bool) : (s.condMfr i on).gens = s.gens := rfl
@[simp] theorem State.condMfr_parts (s : State) (i : Nat) (on : Bool) : (s.condMfr i on).parts = s.parts := rfl
@[simp] theorem State.condMfr_tickets (s : State) (i : Nat) (on : Bool) : (s.condMfr i on).tickets = s.tickets := rfl
@[simp] theorem State.condMfr_slotTables (s : State) (i : Nat) (on : Bool) : (s.condMfr i on).slotTables = s.slotTables := rfl
@[simp] theorem State.condMfr_xfers (s : State) (i : Nat) (on : Bool) : (s.condMfr i on).xfers = s.xfers := rfl
@[simp] theorem State.condMfr_sigs (s : State) (i : Nat) (on : Bool) : (s.condMfr i on).sigs = s.sigs := rfl
@[simp] theorem State.condMfr_host (s : State) (i : Nat) (on : Bool) : (s.condMfr i on).host = s.host := rfl
@[simp] theorem State.condMfr_err (s : State) (i : Nat) (on : Bool) : (s.condMfr i on).err = s.err := rfl
@[simp] theorem State.condMfr_links (s : State) (i : Nat) (on : Bool) : (s.condMfr i on).links = s.links := rfl
@[simp] theorem State.condMfr_nextId (s : State) (i : Nat) (on : Bool) : (s.condMfr i on).nextId = s.nextId := rfl
@[simp] theorem State.condMfr_fresh (s : State) (i : Nat) (on : Bool) : (s.condMfr i on).fresh = s.fresh := rfl
@[simp] theorem State.condMfr_pending (s : State) (i : Nat) (on : Bool) : (s.condMfr i on).pending = s.pending := rfl

/-! ### sample -/

@[simp] theorem State.sample_fuses (s : State) (rs : List Reading) : (s.sample rs).fuses = s.fuses := rfl
@[simp] theorem State.sample_clk (s : State) (rs : List Reading) : (s.sample rs).clk = s.clk := rfl
@[simp] theorem State.sample_cores (s : State) (rs : List Reading) : (s.sample rs).cores = s.cores := rfl
@[simp] theorem State.sample_mem (s : State) (rs : List Reading) : (s.sample rs).mem = s.mem := rfl
@[simp] theorem State.sample_ecc (s : State) (rs : List Reading) : (s.sample rs).ecc = s.ecc := rfl
@[simp] theorem State.sample_chans (s : State) (rs : List Reading) : (s.sample rs).chans = s.chans := rfl
@[simp] theorem State.sample_unitOwner (s : State) (rs : List Reading) : (s.sample rs).unitOwner = s.unitOwner := rfl
@[simp] theorem State.sample_segs (s : State) (rs : List Reading) : (s.sample rs).segs = s.segs := rfl
@[simp] theorem State.sample_gens (s : State) (rs : List Reading) : (s.sample rs).gens = s.gens := rfl
@[simp] theorem State.sample_parts (s : State) (rs : List Reading) : (s.sample rs).parts = s.parts := rfl
@[simp] theorem State.sample_tickets (s : State) (rs : List Reading) : (s.sample rs).tickets = s.tickets := rfl
@[simp] theorem State.sample_slotTables (s : State) (rs : List Reading) : (s.sample rs).slotTables = s.slotTables := rfl
@[simp] theorem State.sample_xfers (s : State) (rs : List Reading) : (s.sample rs).xfers = s.xfers := rfl
@[simp] theorem State.sample_sigs (s : State) (rs : List Reading) : (s.sample rs).sigs = s.sigs := rfl
@[simp] theorem State.sample_host (s : State) (rs : List Reading) : (s.sample rs).host = s.host := rfl
@[simp] theorem State.sample_err (s : State) (rs : List Reading) : (s.sample rs).err = s.err := rfl
@[simp] theorem State.sample_links (s : State) (rs : List Reading) : (s.sample rs).links = s.links := rfl
@[simp] theorem State.sample_nextId (s : State) (rs : List Reading) : (s.sample rs).nextId = s.nextId := rfl
@[simp] theorem State.sample_fresh (s : State) (rs : List Reading) : (s.sample rs).fresh = s.fresh := rfl
@[simp] theorem State.sample_pending (s : State) (rs : List Reading) : (s.sample rs).pending = s.pending := rfl

/-! ### endRecovery -/

@[simp] theorem State.endRecovery_fuses (s : State) (d i : Nat) : (s.endRecovery d i).fuses = s.fuses := rfl
@[simp] theorem State.endRecovery_clk (s : State) (d i : Nat) : (s.endRecovery d i).clk = s.clk := rfl
@[simp] theorem State.endRecovery_cores (s : State) (d i : Nat) : (s.endRecovery d i).cores = s.cores := rfl
@[simp] theorem State.endRecovery_mem (s : State) (d i : Nat) : (s.endRecovery d i).mem = s.mem := rfl
@[simp] theorem State.endRecovery_ecc (s : State) (d i : Nat) : (s.endRecovery d i).ecc = s.ecc := rfl
@[simp] theorem State.endRecovery_chans (s : State) (d i : Nat) : (s.endRecovery d i).chans = s.chans := rfl
@[simp] theorem State.endRecovery_unitOwner (s : State) (d i : Nat) : (s.endRecovery d i).unitOwner = s.unitOwner := rfl
@[simp] theorem State.endRecovery_segs (s : State) (d i : Nat) : (s.endRecovery d i).segs = s.segs := rfl
@[simp] theorem State.endRecovery_gens (s : State) (d i : Nat) : (s.endRecovery d i).gens = s.gens := rfl
@[simp] theorem State.endRecovery_parts (s : State) (d i : Nat) : (s.endRecovery d i).parts = s.parts := rfl
@[simp] theorem State.endRecovery_tickets (s : State) (d i : Nat) : (s.endRecovery d i).tickets = s.tickets := rfl
@[simp] theorem State.endRecovery_slotTables (s : State) (d i : Nat) : (s.endRecovery d i).slotTables = s.slotTables := rfl
@[simp] theorem State.endRecovery_xfers (s : State) (d i : Nat) : (s.endRecovery d i).xfers = s.xfers := rfl
@[simp] theorem State.endRecovery_sigs (s : State) (d i : Nat) : (s.endRecovery d i).sigs = s.sigs := rfl
@[simp] theorem State.endRecovery_host (s : State) (d i : Nat) : (s.endRecovery d i).host = s.host := rfl
@[simp] theorem State.endRecovery_links (s : State) (d i : Nat) : (s.endRecovery d i).links = s.links := rfl
@[simp] theorem State.endRecovery_mgt (s : State) (d i : Nat) : (s.endRecovery d i).mgt = s.mgt := rfl
@[simp] theorem State.endRecovery_nextId (s : State) (d i : Nat) : (s.endRecovery d i).nextId = s.nextId := rfl
@[simp] theorem State.endRecovery_fresh (s : State) (d i : Nat) : (s.endRecovery d i).fresh = s.fresh := rfl
@[simp] theorem State.endRecovery_pending (s : State) (d i : Nat) : (s.endRecovery d i).pending = s.pending := rfl

/-! ### modPin -/

@[simp] theorem State.modPin_fuses (s : State) (i : Nat) (f : Pin → Pin) : (s.modPin i f).fuses = s.fuses := rfl
@[simp] theorem State.modPin_clk (s : State) (i : Nat) (f : Pin → Pin) : (s.modPin i f).clk = s.clk := rfl
@[simp] theorem State.modPin_cores (s : State) (i : Nat) (f : Pin → Pin) : (s.modPin i f).cores = s.cores := rfl
@[simp] theorem State.modPin_mem (s : State) (i : Nat) (f : Pin → Pin) : (s.modPin i f).mem = s.mem := rfl
@[simp] theorem State.modPin_ecc (s : State) (i : Nat) (f : Pin → Pin) : (s.modPin i f).ecc = s.ecc := rfl
@[simp] theorem State.modPin_chans (s : State) (i : Nat) (f : Pin → Pin) : (s.modPin i f).chans = s.chans := rfl
@[simp] theorem State.modPin_unitOwner (s : State) (i : Nat) (f : Pin → Pin) : (s.modPin i f).unitOwner = s.unitOwner := rfl
@[simp] theorem State.modPin_segs (s : State) (i : Nat) (f : Pin → Pin) : (s.modPin i f).segs = s.segs := rfl
@[simp] theorem State.modPin_gens (s : State) (i : Nat) (f : Pin → Pin) : (s.modPin i f).gens = s.gens := rfl
@[simp] theorem State.modPin_parts (s : State) (i : Nat) (f : Pin → Pin) : (s.modPin i f).parts = s.parts := rfl
@[simp] theorem State.modPin_tickets (s : State) (i : Nat) (f : Pin → Pin) : (s.modPin i f).tickets = s.tickets := rfl
@[simp] theorem State.modPin_slotTables (s : State) (i : Nat) (f : Pin → Pin) : (s.modPin i f).slotTables = s.slotTables := rfl
@[simp] theorem State.modPin_xfers (s : State) (i : Nat) (f : Pin → Pin) : (s.modPin i f).xfers = s.xfers := rfl
@[simp] theorem State.modPin_sigs (s : State) (i : Nat) (f : Pin → Pin) : (s.modPin i f).sigs = s.sigs := rfl
@[simp] theorem State.modPin_host (s : State) (i : Nat) (f : Pin → Pin) : (s.modPin i f).host = s.host := rfl
@[simp] theorem State.modPin_links (s : State) (i : Nat) (f : Pin → Pin) : (s.modPin i f).links = s.links := rfl
@[simp] theorem State.modPin_mgt (s : State) (i : Nat) (f : Pin → Pin) : (s.modPin i f).mgt = s.mgt := rfl
@[simp] theorem State.modPin_nextId (s : State) (i : Nat) (f : Pin → Pin) : (s.modPin i f).nextId = s.nextId := rfl
@[simp] theorem State.modPin_fresh (s : State) (i : Nat) (f : Pin → Pin) : (s.modPin i f).fresh = s.fresh := rfl
@[simp] theorem State.modPin_pending (s : State) (i : Nat) (f : Pin → Pin) : (s.modPin i f).pending = s.pending := rfl

/-! ### toPhase -/

@[simp] theorem State.toPhase_fuses (s : State) (n : Nat) : (s.toPhase n).fuses = s.fuses := rfl
@[simp] theorem State.toPhase_clk (s : State) (n : Nat) : (s.toPhase n).clk = s.clk := rfl
@[simp] theorem State.toPhase_cores (s : State) (n : Nat) : (s.toPhase n).cores = s.cores := rfl
@[simp] theorem State.toPhase_mem (s : State) (n : Nat) : (s.toPhase n).mem = s.mem := rfl
@[simp] theorem State.toPhase_ecc (s : State) (n : Nat) : (s.toPhase n).ecc = s.ecc := rfl
@[simp] theorem State.toPhase_chans (s : State) (n : Nat) : (s.toPhase n).chans = s.chans := rfl
@[simp] theorem State.toPhase_unitOwner (s : State) (n : Nat) : (s.toPhase n).unitOwner = s.unitOwner := rfl
@[simp] theorem State.toPhase_segs (s : State) (n : Nat) : (s.toPhase n).segs = s.segs := rfl
@[simp] theorem State.toPhase_gens (s : State) (n : Nat) : (s.toPhase n).gens = s.gens := rfl
@[simp] theorem State.toPhase_parts (s : State) (n : Nat) : (s.toPhase n).parts = s.parts := rfl
@[simp] theorem State.toPhase_tickets (s : State) (n : Nat) : (s.toPhase n).tickets = s.tickets := rfl
@[simp] theorem State.toPhase_slotTables (s : State) (n : Nat) : (s.toPhase n).slotTables = s.slotTables := rfl
@[simp] theorem State.toPhase_xfers (s : State) (n : Nat) : (s.toPhase n).xfers = s.xfers := rfl
@[simp] theorem State.toPhase_sigs (s : State) (n : Nat) : (s.toPhase n).sigs = s.sigs := rfl
@[simp] theorem State.toPhase_host (s : State) (n : Nat) : (s.toPhase n).host = s.host := rfl
@[simp] theorem State.toPhase_err (s : State) (n : Nat) : (s.toPhase n).err = s.err := rfl
@[simp] theorem State.toPhase_links (s : State) (n : Nat) : (s.toPhase n).links = s.links := rfl
@[simp] theorem State.toPhase_nextId (s : State) (n : Nat) : (s.toPhase n).nextId = s.nextId := rfl
@[simp] theorem State.toPhase_fresh (s : State) (n : Nat) : (s.toPhase n).fresh = s.fresh := rfl
@[simp] theorem State.toPhase_pending (s : State) (n : Nat) : (s.toPhase n).pending = s.pending := rfl

/-! ### cml -/

@[simp] theorem State.cml_fuses (s : State) (i : Nat) : (s.cml i).fuses = s.fuses := rfl
@[simp] theorem State.cml_clk (s : State) (i : Nat) : (s.cml i).clk = s.clk := rfl
@[simp] theorem State.cml_cores (s : State) (i : Nat) : (s.cml i).cores = s.cores := rfl
@[simp] theorem State.cml_mem (s : State) (i : Nat) : (s.cml i).mem = s.mem := rfl
@[simp] theorem State.cml_ecc (s : State) (i : Nat) : (s.cml i).ecc = s.ecc := rfl
@[simp] theorem State.cml_chans (s : State) (i : Nat) : (s.cml i).chans = s.chans := rfl
@[simp] theorem State.cml_unitOwner (s : State) (i : Nat) : (s.cml i).unitOwner = s.unitOwner := rfl
@[simp] theorem State.cml_segs (s : State) (i : Nat) : (s.cml i).segs = s.segs := rfl
@[simp] theorem State.cml_gens (s : State) (i : Nat) : (s.cml i).gens = s.gens := rfl
@[simp] theorem State.cml_parts (s : State) (i : Nat) : (s.cml i).parts = s.parts := rfl
@[simp] theorem State.cml_tickets (s : State) (i : Nat) : (s.cml i).tickets = s.tickets := rfl
@[simp] theorem State.cml_slotTables (s : State) (i : Nat) : (s.cml i).slotTables = s.slotTables := rfl
@[simp] theorem State.cml_xfers (s : State) (i : Nat) : (s.cml i).xfers = s.xfers := rfl
@[simp] theorem State.cml_sigs (s : State) (i : Nat) : (s.cml i).sigs = s.sigs := rfl
@[simp] theorem State.cml_host (s : State) (i : Nat) : (s.cml i).host = s.host := rfl
@[simp] theorem State.cml_err (s : State) (i : Nat) : (s.cml i).err = s.err := rfl
@[simp] theorem State.cml_links (s : State) (i : Nat) : (s.cml i).links = s.links := rfl
@[simp] theorem State.cml_nextId (s : State) (i : Nat) : (s.cml i).nextId = s.nextId := rfl
@[simp] theorem State.cml_fresh (s : State) (i : Nat) : (s.cml i).fresh = s.fresh := rfl
@[simp] theorem State.cml_pending (s : State) (i : Nat) : (s.cml i).pending = s.pending := rfl

/-! ### runSlot -/

@[simp] theorem State.runSlot_fuses (s : State) (i : Nat) : (s.runSlot i).fuses = s.fuses := rfl
@[simp] theorem State.runSlot_clk (s : State) (i : Nat) : (s.runSlot i).clk = s.clk := rfl
@[simp] theorem State.runSlot_cores (s : State) (i : Nat) : (s.runSlot i).cores = s.cores := rfl
@[simp] theorem State.runSlot_mem (s : State) (i : Nat) : (s.runSlot i).mem = s.mem := rfl
@[simp] theorem State.runSlot_ecc (s : State) (i : Nat) : (s.runSlot i).ecc = s.ecc := rfl
@[simp] theorem State.runSlot_chans (s : State) (i : Nat) : (s.runSlot i).chans = s.chans := rfl
@[simp] theorem State.runSlot_unitOwner (s : State) (i : Nat) : (s.runSlot i).unitOwner = s.unitOwner := rfl
@[simp] theorem State.runSlot_segs (s : State) (i : Nat) : (s.runSlot i).segs = s.segs := rfl
@[simp] theorem State.runSlot_gens (s : State) (i : Nat) : (s.runSlot i).gens = s.gens := rfl
@[simp] theorem State.runSlot_parts (s : State) (i : Nat) : (s.runSlot i).parts = s.parts := rfl
@[simp] theorem State.runSlot_tickets (s : State) (i : Nat) : (s.runSlot i).tickets = s.tickets := rfl
@[simp] theorem State.runSlot_slotTables (s : State) (i : Nat) : (s.runSlot i).slotTables = s.slotTables := rfl
@[simp] theorem State.runSlot_xfers (s : State) (i : Nat) : (s.runSlot i).xfers = s.xfers := rfl
@[simp] theorem State.runSlot_sigs (s : State) (i : Nat) : (s.runSlot i).sigs = s.sigs := rfl
@[simp] theorem State.runSlot_host (s : State) (i : Nat) : (s.runSlot i).host = s.host := rfl
@[simp] theorem State.runSlot_err (s : State) (i : Nat) : (s.runSlot i).err = s.err := rfl
@[simp] theorem State.runSlot_links (s : State) (i : Nat) : (s.runSlot i).links = s.links := rfl
@[simp] theorem State.runSlot_nextId (s : State) (i : Nat) : (s.runSlot i).nextId = s.nextId := rfl
@[simp] theorem State.runSlot_fresh (s : State) (i : Nat) : (s.runSlot i).fresh = s.fresh := rfl
@[simp] theorem State.runSlot_pending (s : State) (i : Nat) : (s.runSlot i).pending = s.pending := rfl

/-! ### modCascade -/

@[simp] theorem State.modCascade_fuses (s : State) (p : Nat) (f : Cascade → Cascade) : (s.modCascade p f).fuses = s.fuses := rfl
@[simp] theorem State.modCascade_clk (s : State) (p : Nat) (f : Cascade → Cascade) : (s.modCascade p f).clk = s.clk := rfl
@[simp] theorem State.modCascade_cores (s : State) (p : Nat) (f : Cascade → Cascade) : (s.modCascade p f).cores = s.cores := rfl
@[simp] theorem State.modCascade_mem (s : State) (p : Nat) (f : Cascade → Cascade) : (s.modCascade p f).mem = s.mem := rfl
@[simp] theorem State.modCascade_ecc (s : State) (p : Nat) (f : Cascade → Cascade) : (s.modCascade p f).ecc = s.ecc := rfl
@[simp] theorem State.modCascade_chans (s : State) (p : Nat) (f : Cascade → Cascade) : (s.modCascade p f).chans = s.chans := rfl
@[simp] theorem State.modCascade_unitOwner (s : State) (p : Nat) (f : Cascade → Cascade) : (s.modCascade p f).unitOwner = s.unitOwner := rfl
@[simp] theorem State.modCascade_segs (s : State) (p : Nat) (f : Cascade → Cascade) : (s.modCascade p f).segs = s.segs := rfl
@[simp] theorem State.modCascade_gens (s : State) (p : Nat) (f : Cascade → Cascade) : (s.modCascade p f).gens = s.gens := rfl
@[simp] theorem State.modCascade_tickets (s : State) (p : Nat) (f : Cascade → Cascade) : (s.modCascade p f).tickets = s.tickets := rfl
@[simp] theorem State.modCascade_slotTables (s : State) (p : Nat) (f : Cascade → Cascade) : (s.modCascade p f).slotTables = s.slotTables := rfl
@[simp] theorem State.modCascade_xfers (s : State) (p : Nat) (f : Cascade → Cascade) : (s.modCascade p f).xfers = s.xfers := rfl
@[simp] theorem State.modCascade_sigs (s : State) (p : Nat) (f : Cascade → Cascade) : (s.modCascade p f).sigs = s.sigs := rfl
@[simp] theorem State.modCascade_host (s : State) (p : Nat) (f : Cascade → Cascade) : (s.modCascade p f).host = s.host := rfl
@[simp] theorem State.modCascade_err (s : State) (p : Nat) (f : Cascade → Cascade) : (s.modCascade p f).err = s.err := rfl
@[simp] theorem State.modCascade_links (s : State) (p : Nat) (f : Cascade → Cascade) : (s.modCascade p f).links = s.links := rfl
@[simp] theorem State.modCascade_mgt (s : State) (p : Nat) (f : Cascade → Cascade) : (s.modCascade p f).mgt = s.mgt := rfl
@[simp] theorem State.modCascade_nextId (s : State) (p : Nat) (f : Cascade → Cascade) : (s.modCascade p f).nextId = s.nextId := rfl
@[simp] theorem State.modCascade_fresh (s : State) (p : Nat) (f : Cascade → Cascade) : (s.modCascade p f).fresh = s.fresh := rfl
@[simp] theorem State.modCascade_pending (s : State) (p : Nat) (f : Cascade → Cascade) : (s.modCascade p f).pending = s.pending := rfl

/-! ## Reads after updates -/

@[simp] theorem State.core_setCore (s : State) (c d : Nat) (k : Core) : (s.setCore c k).core d = if c = d then k else s.core d := Tab.get_set ..

@[simp] theorem State.core_modCore (s : State) (c d : Nat) (f : Core → Core) :
    (s.modCore c f).core d = if c = d then f (s.core c) else s.core d := Tab.get_set ..

@[simp] theorem State.part_setPart (s : State) (p q : Nat) (x : Part) : (s.setPart p x).part q = if p = q then x else s.part q := Tab.get_set ..

@[simp] theorem State.part_modPart (s : State) (p q : Nat) (f : Part → Part) :
    (s.modPart p f).part q = if p = q then f (s.part p) else s.part q := Tab.get_set ..

@[simp] theorem State.part_modRun (s : State) (p q : Nat) (f : Run → Run) :
    (s.modRun p f).part q = if p = q then { s.part p with run := f (s.part p).run } else s.part q := Tab.get_set ..

@[simp] theorem State.part_modCascade (s : State) (p q : Nat) (f : Cascade → Cascade) :
    (s.modCascade p f).part q = if p = q then { s.part p with cascade := f (s.part p).cascade } else s.part q := Tab.get_set ..

theorem State.window_modWindow (s : State) (p w q v : Nat) (f : Window → Window) :
    (s.modWindow p w f).window q v = if p = q ∧ w = v then f (s.window p w) else s.window q v := by
  unfold State.window State.modWindow
  rw [State.part_modPart]
  by_cases h : p = q
  · subst h; simp [Tab.get_modify]
  · simp [h]

@[simp] theorem State.chan_modChan (s : State) (n m : Nat) (f : Channel → Channel) :
    (s.modChan n f).chan m = if n = m then f (s.chan n) else s.chan m := Tab.get_set ..

@[simp] theorem State.link_setLink (s : State) (l m : Nat) (x : Link) : (s.setLink l x).link m = if l = m then x else s.link m := Tab.get_set ..

@[simp] theorem State.link_modLink (s : State) (l m : Nat) (f : Link → Link) :
    (s.modLink l f).link m = if l = m then f (s.link l) else s.link m := Tab.get_set ..

@[simp] theorem State.replica_modReplica (s : State) (r q : Nat) (f : Replica → Replica) :
    (s.modReplica r f).replica q = if r = q then f (s.replica r) else s.replica q := Tab.get_set ..

@[simp] theorem State.scope_setScope (s : State) (i j : Nat) (x : Scope) : (s.setScope i x).scope j = if i = j then x else s.scope j := Tab.get_set ..

@[simp] theorem State.scope_send (s : State) (i : Nat) (x : Sent) : (s.send x).scope i = s.scope i := rfl

@[simp] theorem State.sent_send (s : State) (x : Sent) : (s.send x).host.sent = x :: s.host.sent := rfl

@[simp] theorem State.now_modCore (s : State) (c : Nat) (f : Core → Core) : (s.modCore c f).now = s.now := rfl

@[simp] theorem State.cyc_modCore (s : State) (c : Nat) (f : Core → Core) : (s.modCore c f).cyc = s.cyc := rfl

/-! ## Registers of micro mode -/

@[simp] theorem Micro.reg_zero (m : Micro) : m.reg 0 = 0 := rfl

theorem Micro.reg_setReg (m : Micro) (i j v : Nat) : (m.setReg i v).reg j = if j = 0 then 0 else if i = j then v % 2 ^ 64 else m.reg j := by
  unfold Micro.setReg Micro.reg
  by_cases hj : j = 0
  · simp [hj]
  · by_cases hi : i = 0
    · subst hi; have : ¬ 0 = j := fun h => hj h.symm
      simp [hj, this]
    · simp [hi, hj, Tab.get_set]

end Sys2Proof.Machine
end

