-- ==== Sys2Proof/Laws/Ops.lean ====
section
/-!
SUPPORT. Sys2Proof/Laws/Ops.lean: what the shared operations leave as it was, field by field; and what logs, faults, increments and events do.
-/
namespace Sys2Proof.Machine

/-- What every step of a fold leaves as it was, the fold leaves as it was. -/
theorem foldl_proj {β γ : Type} {π : State → γ} {f : State → β → State} (h : ∀ s b, π (f s b) = π s) (l : List β) (s : State) :
    π (l.foldl f s) = π s := by
  induction l generalizing s with
  | nil => rfl
  | cons b l ih => rw [List.foldl_cons, ih, h]

/-! ### tracePut -/

@[simp] theorem State.tracePut_fuses (s : State) (a : Nat) (bs : List Byte) : (s.tracePut a bs).fuses = s.fuses := by unfold State.tracePut; split <;> rfl
@[simp] theorem State.tracePut_clk (s : State) (a : Nat) (bs : List Byte) : (s.tracePut a bs).clk = s.clk := by unfold State.tracePut; split <;> rfl
@[simp] theorem State.tracePut_cores (s : State) (a : Nat) (bs : List Byte) : (s.tracePut a bs).cores = s.cores := by unfold State.tracePut; split <;> rfl
@[simp] theorem State.tracePut_ecc (s : State) (a : Nat) (bs : List Byte) : (s.tracePut a bs).ecc = s.ecc := by unfold State.tracePut; split <;> rfl
@[simp] theorem State.tracePut_chans (s : State) (a : Nat) (bs : List Byte) : (s.tracePut a bs).chans = s.chans := by unfold State.tracePut; split <;> rfl
@[simp] theorem State.tracePut_unitOwner (s : State) (a : Nat) (bs : List Byte) : (s.tracePut a bs).unitOwner = s.unitOwner := by unfold State.tracePut; split <;> rfl
@[simp] theorem State.tracePut_segs (s : State) (a : Nat) (bs : List Byte) : (s.tracePut a bs).segs = s.segs := by unfold State.tracePut; split <;> rfl
@[simp] theorem State.tracePut_gens (s : State) (a : Nat) (bs : List Byte) : (s.tracePut a bs).gens = s.gens := by unfold State.tracePut; split <;> rfl
@[simp] theorem State.tracePut_parts (s : State) (a : Nat) (bs : List Byte) : (s.tracePut a bs).parts = s.parts := by unfold State.tracePut; split <;> rfl
@[simp] theorem State.tracePut_tickets (s : State) (a : Nat) (bs : List Byte) : (s.tracePut a bs).tickets = s.tickets := by unfold State.tracePut; split <;> rfl
@[simp] theorem State.tracePut_slotTables (s : State) (a : Nat) (bs : List Byte) : (s.tracePut a bs).slotTables = s.slotTables := by unfold State.tracePut; split <;> rfl
@[simp] theorem State.tracePut_xfers (s : State) (a : Nat) (bs : List Byte) : (s.tracePut a bs).xfers = s.xfers := by unfold State.tracePut; split <;> rfl
@[simp] theorem State.tracePut_sigs (s : State) (a : Nat) (bs : List Byte) : (s.tracePut a bs).sigs = s.sigs := by unfold State.tracePut; split <;> rfl
@[simp] theorem State.tracePut_host (s : State) (a : Nat) (bs : List Byte) : (s.tracePut a bs).host = s.host := by unfold State.tracePut; split <;> rfl
@[simp] theorem State.tracePut_err (s : State) (a : Nat) (bs : List Byte) : (s.tracePut a bs).err = s.err := by unfold State.tracePut; split <;> rfl
@[simp] theorem State.tracePut_links (s : State) (a : Nat) (bs : List Byte) : (s.tracePut a bs).links = s.links := by unfold State.tracePut; split <;> rfl
@[simp] theorem State.tracePut_mgt (s : State) (a : Nat) (bs : List Byte) : (s.tracePut a bs).mgt = s.mgt := by unfold State.tracePut; split <;> rfl
@[simp] theorem State.tracePut_nextId (s : State) (a : Nat) (bs : List Byte) : (s.tracePut a bs).nextId = s.nextId := by unfold State.tracePut; split <;> rfl
@[simp] theorem State.tracePut_fresh (s : State) (a : Nat) (bs : List Byte) : (s.tracePut a bs).fresh = s.fresh := by unfold State.tracePut; split <;> rfl
@[simp] theorem State.tracePut_pending (s : State) (a : Nat) (bs : List Byte) : (s.tracePut a bs).pending = s.pending := by unfold State.tracePut; split <;> rfl

/-! ### traceRec -/

@[simp] theorem State.traceRec_fuses (s : State) (p : Nat) (r : LogRec) : (s.traceRec p r).fuses = s.fuses := by unfold State.traceRec; dsimp only; (repeat' split) <;> simp
@[simp] theorem State.traceRec_clk (s : State) (p : Nat) (r : LogRec) : (s.traceRec p r).clk = s.clk := by unfold State.traceRec; dsimp only; (repeat' split) <;> simp
@[simp] theorem State.traceRec_cores (s : State) (p : Nat) (r : LogRec) : (s.traceRec p r).cores = s.cores := by unfold State.traceRec; dsimp only; (repeat' split) <;> simp
@[simp] theorem State.traceRec_ecc (s : State) (p : Nat) (r : LogRec) : (s.traceRec p r).ecc = s.ecc := by unfold State.traceRec; dsimp only; (repeat' split) <;> simp
@[simp] theorem State.traceRec_chans (s : State) (p : Nat) (r : LogRec) : (s.traceRec p r).chans = s.chans := by unfold State.traceRec; dsimp only; (repeat' split) <;> simp
@[simp] theorem State.traceRec_unitOwner (s : State) (p : Nat) (r : LogRec) : (s.traceRec p r).unitOwner = s.unitOwner := by unfold State.traceRec; dsimp only; (repeat' split) <;> simp
@[simp] theorem State.traceRec_segs (s : State) (p : Nat) (r : LogRec) : (s.traceRec p r).segs = s.segs := by unfold State.traceRec; dsimp only; (repeat' split) <;> simp
@[simp] theorem State.traceRec_gens (s : State) (p : Nat) (r : LogRec) : (s.traceRec p r).gens = s.gens := by unfold State.traceRec; dsimp only; (repeat' split) <;> simp
@[simp] theorem State.traceRec_tickets (s : State) (p : Nat) (r : LogRec) : (s.traceRec p r).tickets = s.tickets := by unfold State.traceRec; dsimp only; (repeat' split) <;> simp
@[simp] theorem State.traceRec_slotTables (s : State) (p : Nat) (r : LogRec) : (s.traceRec p r).slotTables = s.slotTables := by unfold State.traceRec; dsimp only; (repeat' split) <;> simp
@[simp] theorem State.traceRec_xfers (s : State) (p : Nat) (r : LogRec) : (s.traceRec p r).xfers = s.xfers := by unfold State.traceRec; dsimp only; (repeat' split) <;> simp
@[simp] theorem State.traceRec_sigs (s : State) (p : Nat) (r : LogRec) : (s.traceRec p r).sigs = s.sigs := by unfold State.traceRec; dsimp only; (repeat' split) <;> simp
@[simp] theorem State.traceRec_host (s : State) (p : Nat) (r : LogRec) : (s.traceRec p r).host = s.host := by unfold State.traceRec; dsimp only; (repeat' split) <;> simp
@[simp] theorem State.traceRec_err (s : State) (p : Nat) (r : LogRec) : (s.traceRec p r).err = s.err := by unfold State.traceRec; dsimp only; (repeat' split) <;> simp
@[simp] theorem State.traceRec_links (s : State) (p : Nat) (r : LogRec) : (s.traceRec p r).links = s.links := by unfold State.traceRec; dsimp only; (repeat' split) <;> simp
@[simp] theorem State.traceRec_mgt (s : State) (p : Nat) (r : LogRec) : (s.traceRec p r).mgt = s.mgt := by unfold State.traceRec; dsimp only; (repeat' split) <;> simp
@[simp] theorem State.traceRec_nextId (s : State) (p : Nat) (r : LogRec) : (s.traceRec p r).nextId = s.nextId := by unfold State.traceRec; dsimp only; (repeat' split) <;> simp
@[simp] theorem State.traceRec_fresh (s : State) (p : Nat) (r : LogRec) : (s.traceRec p r).fresh = s.fresh := by unfold State.traceRec; dsimp only; (repeat' split) <;> simp
@[simp] theorem State.traceRec_pending (s : State) (p : Nat) (r : LogRec) : (s.traceRec p r).pending = s.pending := by unfold State.traceRec; dsimp only; (repeat' split) <;> simp

/-! ### traceFor -/

@[simp] theorem State.traceFor_fuses (s : State) (r : LogRec) : (s.traceFor r).fuses = s.fuses := by unfold State.traceFor; split <;> simp
@[simp] theorem State.traceFor_clk (s : State) (r : LogRec) : (s.traceFor r).clk = s.clk := by unfold State.traceFor; split <;> simp
@[simp] theorem State.traceFor_cores (s : State) (r : LogRec) : (s.traceFor r).cores = s.cores := by unfold State.traceFor; split <;> simp
@[simp] theorem State.traceFor_ecc (s : State) (r : LogRec) : (s.traceFor r).ecc = s.ecc := by unfold State.traceFor; split <;> simp
@[simp] theorem State.traceFor_chans (s : State) (r : LogRec) : (s.traceFor r).chans = s.chans := by unfold State.traceFor; split <;> simp
@[simp] theorem State.traceFor_unitOwner (s : State) (r : LogRec) : (s.traceFor r).unitOwner = s.unitOwner := by unfold State.traceFor; split <;> simp
@[simp] theorem State.traceFor_segs (s : State) (r : LogRec) : (s.traceFor r).segs = s.segs := by unfold State.traceFor; split <;> simp
@[simp] theorem State.traceFor_gens (s : State) (r : LogRec) : (s.traceFor r).gens = s.gens := by unfold State.traceFor; split <;> simp
@[simp] theorem State.traceFor_tickets (s : State) (r : LogRec) : (s.traceFor r).tickets = s.tickets := by unfold State.traceFor; split <;> simp
@[simp] theorem State.traceFor_slotTables (s : State) (r : LogRec) : (s.traceFor r).slotTables = s.slotTables := by unfold State.traceFor; split <;> simp
@[simp] theorem State.traceFor_xfers (s : State) (r : LogRec) : (s.traceFor r).xfers = s.xfers := by unfold State.traceFor; split <;> simp
@[simp] theorem State.traceFor_sigs (s : State) (r : LogRec) : (s.traceFor r).sigs = s.sigs := by unfold State.traceFor; split <;> simp
@[simp] theorem State.traceFor_host (s : State) (r : LogRec) : (s.traceFor r).host = s.host := by unfold State.traceFor; split <;> simp
@[simp] theorem State.traceFor_err (s : State) (r : LogRec) : (s.traceFor r).err = s.err := by unfold State.traceFor; split <;> simp
@[simp] theorem State.traceFor_links (s : State) (r : LogRec) : (s.traceFor r).links = s.links := by unfold State.traceFor; split <;> simp
@[simp] theorem State.traceFor_mgt (s : State) (r : LogRec) : (s.traceFor r).mgt = s.mgt := by unfold State.traceFor; split <;> simp
@[simp] theorem State.traceFor_nextId (s : State) (r : LogRec) : (s.traceFor r).nextId = s.nextId := by unfold State.traceFor; split <;> simp
@[simp] theorem State.traceFor_fresh (s : State) (r : LogRec) : (s.traceFor r).fresh = s.fresh := by unfold State.traceFor; split <;> simp
@[simp] theorem State.traceFor_pending (s : State) (r : LogRec) : (s.traceFor r).pending = s.pending := by unfold State.traceFor; split <;> simp

@[simp] theorem State.traceFor_of_none (s : State) (r : LogRec) (h : r.part = 255) : s.traceFor r = s := by
  unfold State.traceFor; rw [if_neg (by omega)]

/-! ### writeLog -/

@[simp] theorem State.writeLog_fuses (s : State) (r : LogRec) (keep : Bool) : (s.writeLog r keep).fuses = s.fuses := by unfold State.writeLog; split <;> simp
@[simp] theorem State.writeLog_clk (s : State) (r : LogRec) (keep : Bool) : (s.writeLog r keep).clk = s.clk := by unfold State.writeLog; split <;> simp
@[simp] theorem State.writeLog_cores (s : State) (r : LogRec) (keep : Bool) : (s.writeLog r keep).cores = s.cores := by unfold State.writeLog; split <;> simp
@[simp] theorem State.writeLog_ecc (s : State) (r : LogRec) (keep : Bool) : (s.writeLog r keep).ecc = s.ecc := by unfold State.writeLog; split <;> simp
@[simp] theorem State.writeLog_chans (s : State) (r : LogRec) (keep : Bool) : (s.writeLog r keep).chans = s.chans := by unfold State.writeLog; split <;> simp
@[simp] theorem State.writeLog_unitOwner (s : State) (r : LogRec) (keep : Bool) : (s.writeLog r keep).unitOwner = s.unitOwner := by unfold State.writeLog; split <;> simp
@[simp] theorem State.writeLog_segs (s : State) (r : LogRec) (keep : Bool) : (s.writeLog r keep).segs = s.segs := by unfold State.writeLog; split <;> simp
@[simp] theorem State.writeLog_gens (s : State) (r : LogRec) (keep : Bool) : (s.writeLog r keep).gens = s.gens := by unfold State.writeLog; split <;> simp
@[simp] theorem State.writeLog_tickets (s : State) (r : LogRec) (keep : Bool) : (s.writeLog r keep).tickets = s.tickets := by unfold State.writeLog; split <;> simp
@[simp] theorem State.writeLog_slotTables (s : State) (r : LogRec) (keep : Bool) : (s.writeLog r keep).slotTables = s.slotTables := by unfold State.writeLog; split <;> simp
@[simp] theorem State.writeLog_xfers (s : State) (r : LogRec) (keep : Bool) : (s.writeLog r keep).xfers = s.xfers := by unfold State.writeLog; split <;> simp
@[simp] theorem State.writeLog_sigs (s : State) (r : LogRec) (keep : Bool) : (s.writeLog r keep).sigs = s.sigs := by unfold State.writeLog; split <;> simp
@[simp] theorem State.writeLog_host (s : State) (r : LogRec) (keep : Bool) : (s.writeLog r keep).host = s.host := by unfold State.writeLog; split <;> simp
@[simp] theorem State.writeLog_links (s : State) (r : LogRec) (keep : Bool) : (s.writeLog r keep).links = s.links := by unfold State.writeLog; split <;> simp
@[simp] theorem State.writeLog_mgt (s : State) (r : LogRec) (keep : Bool) : (s.writeLog r keep).mgt = s.mgt := by unfold State.writeLog; split <;> simp
@[simp] theorem State.writeLog_nextId (s : State) (r : LogRec) (keep : Bool) : (s.writeLog r keep).nextId = s.nextId := by unfold State.writeLog; split <;> simp
@[simp] theorem State.writeLog_pending (s : State) (r : LogRec) (keep : Bool) : (s.writeLog r keep).pending = s.pending := by unfold State.writeLog; split <;> simp

/-! ### logEntry -/

@[simp] theorem State.logEntry_fuses (s : State) (d i : Nat) (p : Option Nat) (code : Nat) (ctx : List Byte) : (s.logEntry d i p code ctx).fuses = s.fuses := by simp [State.logEntry]
@[simp] theorem State.logEntry_clk (s : State) (d i : Nat) (p : Option Nat) (code : Nat) (ctx : List Byte) : (s.logEntry d i p code ctx).clk = s.clk := by simp [State.logEntry]
@[simp] theorem State.logEntry_cores (s : State) (d i : Nat) (p : Option Nat) (code : Nat) (ctx : List Byte) : (s.logEntry d i p code ctx).cores = s.cores := by simp [State.logEntry]
@[simp] theorem State.logEntry_ecc (s : State) (d i : Nat) (p : Option Nat) (code : Nat) (ctx : List Byte) : (s.logEntry d i p code ctx).ecc = s.ecc := by simp [State.logEntry]
@[simp] theorem State.logEntry_chans (s : State) (d i : Nat) (p : Option Nat) (code : Nat) (ctx : List Byte) : (s.logEntry d i p code ctx).chans = s.chans := by simp [State.logEntry]
@[simp] theorem State.logEntry_unitOwner (s : State) (d i : Nat) (p : Option Nat) (code : Nat) (ctx : List Byte) : (s.logEntry d i p code ctx).unitOwner = s.unitOwner := by simp [State.logEntry]
@[simp] theorem State.logEntry_segs (s : State) (d i : Nat) (p : Option Nat) (code : Nat) (ctx : List Byte) : (s.logEntry d i p code ctx).segs = s.segs := by simp [State.logEntry]
@[simp] theorem State.logEntry_gens (s : State) (d i : Nat) (p : Option Nat) (code : Nat) (ctx : List Byte) : (s.logEntry d i p code ctx).gens = s.gens := by simp [State.logEntry]
@[simp] theorem State.logEntry_tickets (s : State) (d i : Nat) (p : Option Nat) (code : Nat) (ctx : List Byte) : (s.logEntry d i p code ctx).tickets = s.tickets := by simp [State.logEntry]
@[simp] theorem State.logEntry_slotTables (s : State) (d i : Nat) (p : Option Nat) (code : Nat) (ctx : List Byte) : (s.logEntry d i p code ctx).slotTables = s.slotTables := by simp [State.logEntry]
@[simp] theorem State.logEntry_xfers (s : State) (d i : Nat) (p : Option Nat) (code : Nat) (ctx : List Byte) : (s.logEntry d i p code ctx).xfers = s.xfers := by simp [State.logEntry]
@[simp] theorem State.logEntry_sigs (s : State) (d i : Nat) (p : Option Nat) (code : Nat) (ctx : List Byte) : (s.logEntry d i p code ctx).sigs = s.sigs := by simp [State.logEntry]
@[simp] theorem State.logEntry_host (s : State) (d i : Nat) (p : Option Nat) (code : Nat) (ctx : List Byte) : (s.logEntry d i p code ctx).host = s.host := by simp [State.logEntry]
@[simp] theorem State.logEntry_links (s : State) (d i : Nat) (p : Option Nat) (code : Nat) (ctx : List Byte) : (s.logEntry d i p code ctx).links = s.links := by simp [State.logEntry]
@[simp] theorem State.logEntry_mgt (s : State) (d i : Nat) (p : Option Nat) (code : Nat) (ctx : List Byte) : (s.logEntry d i p code ctx).mgt = s.mgt := by simp [State.logEntry]
@[simp] theorem State.logEntry_nextId (s : State) (d i : Nat) (p : Option Nat) (code : Nat) (ctx : List Byte) : (s.logEntry d i p code ctx).nextId = s.nextId := by simp [State.logEntry]
@[simp] theorem State.logEntry_pending (s : State) (d i : Nat) (p : Option Nat) (code : Nat) (ctx : List Byte) : (s.logEntry d i p code ctx).pending = s.pending := by simp [State.logEntry]

@[simp] theorem State.logEntry_none_mem (s : State) (d i code : Nat) (ctx : List Byte) : (s.logEntry d i none code ctx).mem = s.mem := by
  unfold State.logEntry State.writeLog; split <;> simp [partByte]

@[simp] theorem State.logEntry_none_parts (s : State) (d i code : Nat) (ctx : List Byte) : (s.logEntry d i none code ctx).parts = s.parts := by
  unfold State.logEntry State.writeLog; split <;> simp [partByte]

/-! ### logCore -/

@[simp] theorem State.logCore_fuses (s : State) (c code : Nat) (ctx : List Byte) : (s.logCore c code ctx).fuses = s.fuses := by simp [State.logCore]
@[simp] theorem State.logCore_clk (s : State) (c code : Nat) (ctx : List Byte) : (s.logCore c code ctx).clk = s.clk := by simp [State.logCore]
@[simp] theorem State.logCore_cores (s : State) (c code : Nat) (ctx : List Byte) : (s.logCore c code ctx).cores = s.cores := by simp [State.logCore]
@[simp] theorem State.logCore_ecc (s : State) (c code : Nat) (ctx : List Byte) : (s.logCore c code ctx).ecc = s.ecc := by simp [State.logCore]
@[simp] theorem State.logCore_chans (s : State) (c code : Nat) (ctx : List Byte) : (s.logCore c code ctx).chans = s.chans := by simp [State.logCore]
@[simp] theorem State.logCore_unitOwner (s : State) (c code : Nat) (ctx : List Byte) : (s.logCore c code ctx).unitOwner = s.unitOwner := by simp [State.logCore]
@[simp] theorem State.logCore_segs (s : State) (c code : Nat) (ctx : List Byte) : (s.logCore c code ctx).segs = s.segs := by simp [State.logCore]
@[simp] theorem State.logCore_gens (s : State) (c code : Nat) (ctx : List Byte) : (s.logCore c code ctx).gens = s.gens := by simp [State.logCore]
@[simp] theorem State.logCore_tickets (s : State) (c code : Nat) (ctx : List Byte) : (s.logCore c code ctx).tickets = s.tickets := by simp [State.logCore]
@[simp] theorem State.logCore_slotTables (s : State) (c code : Nat) (ctx : List Byte) : (s.logCore c code ctx).slotTables = s.slotTables := by simp [State.logCore]
@[simp] theorem State.logCore_xfers (s : State) (c code : Nat) (ctx : List Byte) : (s.logCore c code ctx).xfers = s.xfers := by simp [State.logCore]
@[simp] theorem State.logCore_sigs (s : State) (c code : Nat) (ctx : List Byte) : (s.logCore c code ctx).sigs = s.sigs := by simp [State.logCore]
@[simp] theorem State.logCore_host (s : State) (c code : Nat) (ctx : List Byte) : (s.logCore c code ctx).host = s.host := by simp [State.logCore]
@[simp] theorem State.logCore_links (s : State) (c code : Nat) (ctx : List Byte) : (s.logCore c code ctx).links = s.links := by simp [State.logCore]
@[simp] theorem State.logCore_mgt (s : State) (c code : Nat) (ctx : List Byte) : (s.logCore c code ctx).mgt = s.mgt := by simp [State.logCore]
@[simp] theorem State.logCore_nextId (s : State) (c code : Nat) (ctx : List Byte) : (s.logCore c code ctx).nextId = s.nextId := by simp [State.logCore]
@[simp] theorem State.logCore_pending (s : State) (c code : Nat) (ctx : List Byte) : (s.logCore c code ctx).pending = s.pending := by simp [State.logCore]

/-! ### logMark -/

@[simp] theorem State.logMark_fuses (s : State) (c n : Nat) (m : Mark) : (s.logMark c n m).fuses = s.fuses := by simp [State.logMark]
@[simp] theorem State.logMark_clk (s : State) (c n : Nat) (m : Mark) : (s.logMark c n m).clk = s.clk := by simp [State.logMark]
@[simp] theorem State.logMark_cores (s : State) (c n : Nat) (m : Mark) : (s.logMark c n m).cores = s.cores := by simp [State.logMark]
@[simp] theorem State.logMark_ecc (s : State) (c n : Nat) (m : Mark) : (s.logMark c n m).ecc = s.ecc := by simp [State.logMark]
@[simp] theorem State.logMark_chans (s : State) (c n : Nat) (m : Mark) : (s.logMark c n m).chans = s.chans := by simp [State.logMark]
@[simp] theorem State.logMark_unitOwner (s : State) (c n : Nat) (m : Mark) : (s.logMark c n m).unitOwner = s.unitOwner := by simp [State.logMark]
@[simp] theorem State.logMark_segs (s : State) (c n : Nat) (m : Mark) : (s.logMark c n m).segs = s.segs := by simp [State.logMark]
@[simp] theorem State.logMark_gens (s : State) (c n : Nat) (m : Mark) : (s.logMark c n m).gens = s.gens := by simp [State.logMark]
@[simp] theorem State.logMark_tickets (s : State) (c n : Nat) (m : Mark) : (s.logMark c n m).tickets = s.tickets := by simp [State.logMark]
@[simp] theorem State.logMark_slotTables (s : State) (c n : Nat) (m : Mark) : (s.logMark c n m).slotTables = s.slotTables := by simp [State.logMark]
@[simp] theorem State.logMark_xfers (s : State) (c n : Nat) (m : Mark) : (s.logMark c n m).xfers = s.xfers := by simp [State.logMark]
@[simp] theorem State.logMark_sigs (s : State) (c n : Nat) (m : Mark) : (s.logMark c n m).sigs = s.sigs := by simp [State.logMark]
@[simp] theorem State.logMark_host (s : State) (c n : Nat) (m : Mark) : (s.logMark c n m).host = s.host := by simp [State.logMark]
@[simp] theorem State.logMark_links (s : State) (c n : Nat) (m : Mark) : (s.logMark c n m).links = s.links := by simp [State.logMark]
@[simp] theorem State.logMark_mgt (s : State) (c n : Nat) (m : Mark) : (s.logMark c n m).mgt = s.mgt := by simp [State.logMark]
@[simp] theorem State.logMark_nextId (s : State) (c n : Nat) (m : Mark) : (s.logMark c n m).nextId = s.nextId := by simp [State.logMark]
@[simp] theorem State.logMark_pending (s : State) (c n : Nat) (m : Mark) : (s.logMark c n m).pending = s.pending := by simp [State.logMark]

/-! ### event -/

@[simp] theorem State.event_fuses (s : State) (i code : Nat) (b : List Byte) : (s.event i code b).fuses = s.fuses := by
  unfold State.event; dsimp only; split
  · (repeat' split) <;> rfl
  · rw [foldl_proj (π := State.fuses)] <;> intros <;> rfl
@[simp] theorem State.event_clk (s : State) (i code : Nat) (b : List Byte) : (s.event i code b).clk = s.clk := by
  unfold State.event; dsimp only; split
  · (repeat' split) <;> rfl
  · rw [foldl_proj (π := State.clk)] <;> intros <;> rfl
@[simp] theorem State.event_cores (s : State) (i code : Nat) (b : List Byte) : (s.event i code b).cores = s.cores := by
  unfold State.event; dsimp only; split
  · (repeat' split) <;> rfl
  · rw [foldl_proj (π := State.cores)] <;> intros <;> rfl
@[simp] theorem State.event_mem (s : State) (i code : Nat) (b : List Byte) : (s.event i code b).mem = s.mem := by
  unfold State.event; dsimp only; split
  · (repeat' split) <;> rfl
  · rw [foldl_proj (π := State.mem)] <;> intros <;> rfl
@[simp] theorem State.event_ecc (s : State) (i code : Nat) (b : List Byte) : (s.event i code b).ecc = s.ecc := by
  unfold State.event; dsimp only; split
  · (repeat' split) <;> rfl
  · rw [foldl_proj (π := State.ecc)] <;> intros <;> rfl
@[simp] theorem State.event_chans (s : State) (i code : Nat) (b : List Byte) : (s.event i code b).chans = s.chans := by
  unfold State.event; dsimp only; split
  · (repeat' split) <;> rfl
  · rw [foldl_proj (π := State.chans)] <;> intros <;> rfl
@[simp] theorem State.event_unitOwner (s : State) (i code : Nat) (b : List Byte) : (s.event i code b).unitOwner = s.unitOwner := by
  unfold State.event; dsimp only; split
  · (repeat' split) <;> rfl
  · rw [foldl_proj (π := State.unitOwner)] <;> intros <;> rfl
@[simp] theorem State.event_segs (s : State) (i code : Nat) (b : List Byte) : (s.event i code b).segs = s.segs := by
  unfold State.event; dsimp only; split
  · (repeat' split) <;> rfl
  · rw [foldl_proj (π := State.segs)] <;> intros <;> rfl
@[simp] theorem State.event_gens (s : State) (i code : Nat) (b : List Byte) : (s.event i code b).gens = s.gens := by
  unfold State.event; dsimp only; split
  · (repeat' split) <;> rfl
  · rw [foldl_proj (π := State.gens)] <;> intros <;> rfl
@[simp] theorem State.event_parts (s : State) (i code : Nat) (b : List Byte) : (s.event i code b).parts = s.parts := by
  unfold State.event; dsimp only; split
  · (repeat' split) <;> rfl
  · rw [foldl_proj (π := State.parts)] <;> intros <;> rfl
@[simp] theorem State.event_tickets (s : State) (i code : Nat) (b : List Byte) : (s.event i code b).tickets = s.tickets := by
  unfold State.event; dsimp only; split
  · (repeat' split) <;> rfl
  · rw [foldl_proj (π := State.tickets)] <;> intros <;> rfl
@[simp] theorem State.event_slotTables (s : State) (i code : Nat) (b : List Byte) : (s.event i code b).slotTables = s.slotTables := by
  unfold State.event; dsimp only; split
  · (repeat' split) <;> rfl
  · rw [foldl_proj (π := State.slotTables)] <;> intros <;> rfl
@[simp] theorem State.event_xfers (s : State) (i code : Nat) (b : List Byte) : (s.event i code b).xfers = s.xfers := by
  unfold State.event; dsimp only; split
  · (repeat' split) <;> rfl
  · rw [foldl_proj (π := State.xfers)] <;> intros <;> rfl
@[simp] theorem State.event_sigs (s : State) (i code : Nat) (b : List Byte) : (s.event i code b).sigs = s.sigs := by
  unfold State.event; dsimp only; split
  · (repeat' split) <;> rfl
  · rw [foldl_proj (π := State.sigs)] <;> intros <;> rfl
@[simp] theorem State.event_err (s : State) (i code : Nat) (b : List Byte) : (s.event i code b).err = s.err := by
  unfold State.event; dsimp only; split
  · (repeat' split) <;> rfl
  · rw [foldl_proj (π := State.err)] <;> intros <;> rfl
@[simp] theorem State.event_links (s : State) (i code : Nat) (b : List Byte) : (s.event i code b).links = s.links := by
  unfold State.event; dsimp only; split
  · (repeat' split) <;> rfl
  · rw [foldl_proj (π := State.links)] <;> intros <;> rfl
@[simp] theorem State.event_mgt (s : State) (i code : Nat) (b : List Byte) : (s.event i code b).mgt = s.mgt := by
  unfold State.event; dsimp only; split
  · (repeat' split) <;> rfl
  · rw [foldl_proj (π := State.mgt)] <;> intros <;> rfl
@[simp] theorem State.event_nextId (s : State) (i code : Nat) (b : List Byte) : (s.event i code b).nextId = s.nextId := by
  unfold State.event; dsimp only; split
  · (repeat' split) <;> rfl
  · rw [foldl_proj (π := State.nextId)] <;> intros <;> rfl
@[simp] theorem State.event_fresh (s : State) (i code : Nat) (b : List Byte) : (s.event i code b).fresh = s.fresh := by
  unfold State.event; dsimp only; split
  · (repeat' split) <;> rfl
  · rw [foldl_proj (π := State.fresh)] <;> intros <;> rfl
@[simp] theorem State.event_pending (s : State) (i code : Nat) (b : List Byte) : (s.event i code b).pending = s.pending := by
  unfold State.event; dsimp only; split
  · (repeat' split) <;> rfl
  · rw [foldl_proj (π := State.pending)] <;> intros <;> rfl

/-! ### eventBoth -/

@[simp] theorem State.eventBoth_fuses (s : State) (code : Nat) (b : List Byte) (p : Nat → Bool) : (s.eventBoth code b p).fuses = s.fuses := by unfold State.eventBoth; rw [foldl_proj (π := State.fuses)] <;> simp
@[simp] theorem State.eventBoth_clk (s : State) (code : Nat) (b : List Byte) (p : Nat → Bool) : (s.eventBoth code b p).clk = s.clk := by unfold State.eventBoth; rw [foldl_proj (π := State.clk)] <;> simp
@[simp] theorem State.eventBoth_cores (s : State) (code : Nat) (b : List Byte) (p : Nat → Bool) : (s.eventBoth code b p).cores = s.cores := by unfold State.eventBoth; rw [foldl_proj (π := State.cores)] <;> simp
@[simp] theorem State.eventBoth_mem (s : State) (code : Nat) (b : List Byte) (p : Nat → Bool) : (s.eventBoth code b p).mem = s.mem := by unfold State.eventBoth; rw [foldl_proj (π := State.mem)] <;> simp
@[simp] theorem State.eventBoth_ecc (s : State) (code : Nat) (b : List Byte) (p : Nat → Bool) : (s.eventBoth code b p).ecc = s.ecc := by unfold State.eventBoth; rw [foldl_proj (π := State.ecc)] <;> simp
@[simp] theorem State.eventBoth_chans (s : State) (code : Nat) (b : List Byte) (p : Nat → Bool) : (s.eventBoth code b p).chans = s.chans := by unfold State.eventBoth; rw [foldl_proj (π := State.chans)] <;> simp
@[simp] theorem State.eventBoth_unitOwner (s : State) (code : Nat) (b : List Byte) (p : Nat → Bool) : (s.eventBoth code b p).unitOwner = s.unitOwner := by unfold State.eventBoth; rw [foldl_proj (π := State.unitOwner)] <;> simp
@[simp] theorem State.eventBoth_segs (s : State) (code : Nat) (b : List Byte) (p : Nat → Bool) : (s.eventBoth code b p).segs = s.segs := by unfold State.eventBoth; rw [foldl_proj (π := State.segs)] <;> simp
@[simp] theorem State.eventBoth_gens (s : State) (code : Nat) (b : List Byte) (p : Nat → Bool) : (s.eventBoth code b p).gens = s.gens := by unfold State.eventBoth; rw [foldl_proj (π := State.gens)] <;> simp
@[simp] theorem State.eventBoth_parts (s : State) (code : Nat) (b : List Byte) (p : Nat → Bool) : (s.eventBoth code b p).parts = s.parts := by unfold State.eventBoth; rw [foldl_proj (π := State.parts)] <;> simp
@[simp] theorem State.eventBoth_tickets (s : State) (code : Nat) (b : List Byte) (p : Nat → Bool) : (s.eventBoth code b p).tickets = s.tickets := by unfold State.eventBoth; rw [foldl_proj (π := State.tickets)] <;> simp
@[simp] theorem State.eventBoth_slotTables (s : State) (code : Nat) (b : List Byte) (p : Nat → Bool) : (s.eventBoth code b p).slotTables = s.slotTables := by unfold State.eventBoth; rw [foldl_proj (π := State.slotTables)] <;> simp
@[simp] theorem State.eventBoth_xfers (s : State) (code : Nat) (b : List Byte) (p : Nat → Bool) : (s.eventBoth code b p).xfers = s.xfers := by unfold State.eventBoth; rw [foldl_proj (π := State.xfers)] <;> simp
@[simp] theorem State.eventBoth_sigs (s : State) (code : Nat) (b : List Byte) (p : Nat → Bool) : (s.eventBoth code b p).sigs = s.sigs := by unfold State.eventBoth; rw [foldl_proj (π := State.sigs)] <;> simp
@[simp] theorem State.eventBoth_err (s : State) (code : Nat) (b : List Byte) (p : Nat → Bool) : (s.eventBoth code b p).err = s.err := by unfold State.eventBoth; rw [foldl_proj (π := State.err)] <;> simp
@[simp] theorem State.eventBoth_links (s : State) (code : Nat) (b : List Byte) (p : Nat → Bool) : (s.eventBoth code b p).links = s.links := by unfold State.eventBoth; rw [foldl_proj (π := State.links)] <;> simp
@[simp] theorem State.eventBoth_mgt (s : State) (code : Nat) (b : List Byte) (p : Nat → Bool) : (s.eventBoth code b p).mgt = s.mgt := by unfold State.eventBoth; rw [foldl_proj (π := State.mgt)] <;> simp
@[simp] theorem State.eventBoth_nextId (s : State) (code : Nat) (b : List Byte) (p : Nat → Bool) : (s.eventBoth code b p).nextId = s.nextId := by unfold State.eventBoth; rw [foldl_proj (π := State.nextId)] <;> simp
@[simp] theorem State.eventBoth_fresh (s : State) (code : Nat) (b : List Byte) (p : Nat → Bool) : (s.eventBoth code b p).fresh = s.fresh := by unfold State.eventBoth; rw [foldl_proj (π := State.fresh)] <;> simp
@[simp] theorem State.eventBoth_pending (s : State) (code : Nat) (b : List Byte) (p : Nat → Bool) : (s.eventBoth code b p).pending = s.pending := by unfold State.eventBoth; rw [foldl_proj (π := State.pending)] <;> simp

/-! ### cmdDone -/

@[simp] theorem State.cmdDone_fuses (s : State) (scope seq opcode status : Nat) (b : List Byte) : (s.cmdDone scope seq opcode status b).fuses = s.fuses := by simp [State.cmdDone]
@[simp] theorem State.cmdDone_clk (s : State) (scope seq opcode status : Nat) (b : List Byte) : (s.cmdDone scope seq opcode status b).clk = s.clk := by simp [State.cmdDone]
@[simp] theorem State.cmdDone_cores (s : State) (scope seq opcode status : Nat) (b : List Byte) : (s.cmdDone scope seq opcode status b).cores = s.cores := by simp [State.cmdDone]
@[simp] theorem State.cmdDone_mem (s : State) (scope seq opcode status : Nat) (b : List Byte) : (s.cmdDone scope seq opcode status b).mem = s.mem := by simp [State.cmdDone]
@[simp] theorem State.cmdDone_ecc (s : State) (scope seq opcode status : Nat) (b : List Byte) : (s.cmdDone scope seq opcode status b).ecc = s.ecc := by simp [State.cmdDone]
@[simp] theorem State.cmdDone_chans (s : State) (scope seq opcode status : Nat) (b : List Byte) : (s.cmdDone scope seq opcode status b).chans = s.chans := by simp [State.cmdDone]
@[simp] theorem State.cmdDone_unitOwner (s : State) (scope seq opcode status : Nat) (b : List Byte) : (s.cmdDone scope seq opcode status b).unitOwner = s.unitOwner := by simp [State.cmdDone]
@[simp] theorem State.cmdDone_segs (s : State) (scope seq opcode status : Nat) (b : List Byte) : (s.cmdDone scope seq opcode status b).segs = s.segs := by simp [State.cmdDone]
@[simp] theorem State.cmdDone_gens (s : State) (scope seq opcode status : Nat) (b : List Byte) : (s.cmdDone scope seq opcode status b).gens = s.gens := by simp [State.cmdDone]
@[simp] theorem State.cmdDone_parts (s : State) (scope seq opcode status : Nat) (b : List Byte) : (s.cmdDone scope seq opcode status b).parts = s.parts := by simp [State.cmdDone]
@[simp] theorem State.cmdDone_tickets (s : State) (scope seq opcode status : Nat) (b : List Byte) : (s.cmdDone scope seq opcode status b).tickets = s.tickets := by simp [State.cmdDone]
@[simp] theorem State.cmdDone_slotTables (s : State) (scope seq opcode status : Nat) (b : List Byte) : (s.cmdDone scope seq opcode status b).slotTables = s.slotTables := by simp [State.cmdDone]
@[simp] theorem State.cmdDone_xfers (s : State) (scope seq opcode status : Nat) (b : List Byte) : (s.cmdDone scope seq opcode status b).xfers = s.xfers := by simp [State.cmdDone]
@[simp] theorem State.cmdDone_sigs (s : State) (scope seq opcode status : Nat) (b : List Byte) : (s.cmdDone scope seq opcode status b).sigs = s.sigs := by simp [State.cmdDone]
@[simp] theorem State.cmdDone_err (s : State) (scope seq opcode status : Nat) (b : List Byte) : (s.cmdDone scope seq opcode status b).err = s.err := by simp [State.cmdDone]
@[simp] theorem State.cmdDone_links (s : State) (scope seq opcode status : Nat) (b : List Byte) : (s.cmdDone scope seq opcode status b).links = s.links := by simp [State.cmdDone]
@[simp] theorem State.cmdDone_mgt (s : State) (scope seq opcode status : Nat) (b : List Byte) : (s.cmdDone scope seq opcode status b).mgt = s.mgt := by simp [State.cmdDone]
@[simp] theorem State.cmdDone_nextId (s : State) (scope seq opcode status : Nat) (b : List Byte) : (s.cmdDone scope seq opcode status b).nextId = s.nextId := by simp [State.cmdDone]
@[simp] theorem State.cmdDone_fresh (s : State) (scope seq opcode status : Nat) (b : List Byte) : (s.cmdDone scope seq opcode status b).fresh = s.fresh := by simp [State.cmdDone]
@[simp] theorem State.cmdDone_pending (s : State) (scope seq opcode status : Nat) (b : List Byte) : (s.cmdDone scope seq opcode status b).pending = s.pending := by simp [State.cmdDone]

/-! ### longEnd -/

@[simp] theorem State.longEnd_fuses (s : State) (l : LongCmd) (status : Nat) (b : List Byte) : (s.longEnd l status b).fuses = s.fuses := by simp [State.longEnd]
@[simp] theorem State.longEnd_clk (s : State) (l : LongCmd) (status : Nat) (b : List Byte) : (s.longEnd l status b).clk = s.clk := by simp [State.longEnd]
@[simp] theorem State.longEnd_cores (s : State) (l : LongCmd) (status : Nat) (b : List Byte) : (s.longEnd l status b).cores = s.cores := by simp [State.longEnd]
@[simp] theorem State.longEnd_mem (s : State) (l : LongCmd) (status : Nat) (b : List Byte) : (s.longEnd l status b).mem = s.mem := by simp [State.longEnd]
@[simp] theorem State.longEnd_ecc (s : State) (l : LongCmd) (status : Nat) (b : List Byte) : (s.longEnd l status b).ecc = s.ecc := by simp [State.longEnd]
@[simp] theorem State.longEnd_chans (s : State) (l : LongCmd) (status : Nat) (b : List Byte) : (s.longEnd l status b).chans = s.chans := by simp [State.longEnd]
@[simp] theorem State.longEnd_unitOwner (s : State) (l : LongCmd) (status : Nat) (b : List Byte) : (s.longEnd l status b).unitOwner = s.unitOwner := by simp [State.longEnd]
@[simp] theorem State.longEnd_segs (s : State) (l : LongCmd) (status : Nat) (b : List Byte) : (s.longEnd l status b).segs = s.segs := by simp [State.longEnd]
@[simp] theorem State.longEnd_gens (s : State) (l : LongCmd) (status : Nat) (b : List Byte) : (s.longEnd l status b).gens = s.gens := by simp [State.longEnd]
@[simp] theorem State.longEnd_parts (s : State) (l : LongCmd) (status : Nat) (b : List Byte) : (s.longEnd l status b).parts = s.parts := by simp [State.longEnd]
@[simp] theorem State.longEnd_tickets (s : State) (l : LongCmd) (status : Nat) (b : List Byte) : (s.longEnd l status b).tickets = s.tickets := by simp [State.longEnd]
@[simp] theorem State.longEnd_slotTables (s : State) (l : LongCmd) (status : Nat) (b : List Byte) : (s.longEnd l status b).slotTables = s.slotTables := by simp [State.longEnd]
@[simp] theorem State.longEnd_xfers (s : State) (l : LongCmd) (status : Nat) (b : List Byte) : (s.longEnd l status b).xfers = s.xfers := by simp [State.longEnd]
@[simp] theorem State.longEnd_sigs (s : State) (l : LongCmd) (status : Nat) (b : List Byte) : (s.longEnd l status b).sigs = s.sigs := by simp [State.longEnd]
@[simp] theorem State.longEnd_err (s : State) (l : LongCmd) (status : Nat) (b : List Byte) : (s.longEnd l status b).err = s.err := by simp [State.longEnd]
@[simp] theorem State.longEnd_links (s : State) (l : LongCmd) (status : Nat) (b : List Byte) : (s.longEnd l status b).links = s.links := by simp [State.longEnd]
@[simp] theorem State.longEnd_mgt (s : State) (l : LongCmd) (status : Nat) (b : List Byte) : (s.longEnd l status b).mgt = s.mgt := by simp [State.longEnd]
@[simp] theorem State.longEnd_nextId (s : State) (l : LongCmd) (status : Nat) (b : List Byte) : (s.longEnd l status b).nextId = s.nextId := by simp [State.longEnd]
@[simp] theorem State.longEnd_fresh (s : State) (l : LongCmd) (status : Nat) (b : List Byte) : (s.longEnd l status b).fresh = s.fresh := by simp [State.longEnd]
@[simp] theorem State.longEnd_pending (s : State) (l : LongCmd) (status : Nat) (b : List Byte) : (s.longEnd l status b).pending = s.pending := by simp [State.longEnd]

/-! ### alertEvent -/

@[simp] theorem State.alertEvent_fuses (s : State) (kind unit : Nat) (v : Int) (p : Nat → Bool) : (s.alertEvent kind unit v p).fuses = s.fuses := by simp [State.alertEvent]
@[simp] theorem State.alertEvent_clk (s : State) (kind unit : Nat) (v : Int) (p : Nat → Bool) : (s.alertEvent kind unit v p).clk = s.clk := by simp [State.alertEvent]
@[simp] theorem State.alertEvent_cores (s : State) (kind unit : Nat) (v : Int) (p : Nat → Bool) : (s.alertEvent kind unit v p).cores = s.cores := by simp [State.alertEvent]
@[simp] theorem State.alertEvent_mem (s : State) (kind unit : Nat) (v : Int) (p : Nat → Bool) : (s.alertEvent kind unit v p).mem = s.mem := by simp [State.alertEvent]
@[simp] theorem State.alertEvent_ecc (s : State) (kind unit : Nat) (v : Int) (p : Nat → Bool) : (s.alertEvent kind unit v p).ecc = s.ecc := by simp [State.alertEvent]
@[simp] theorem State.alertEvent_chans (s : State) (kind unit : Nat) (v : Int) (p : Nat → Bool) : (s.alertEvent kind unit v p).chans = s.chans := by simp [State.alertEvent]
@[simp] theorem State.alertEvent_unitOwner (s : State) (kind unit : Nat) (v : Int) (p : Nat → Bool) : (s.alertEvent kind unit v p).unitOwner = s.unitOwner := by simp [State.alertEvent]
@[simp] theorem State.alertEvent_segs (s : State) (kind unit : Nat) (v : Int) (p : Nat → Bool) : (s.alertEvent kind unit v p).segs = s.segs := by simp [State.alertEvent]
@[simp] theorem State.alertEvent_gens (s : State) (kind unit : Nat) (v : Int) (p : Nat → Bool) : (s.alertEvent kind unit v p).gens = s.gens := by simp [State.alertEvent]
@[simp] theorem State.alertEvent_parts (s : State) (kind unit : Nat) (v : Int) (p : Nat → Bool) : (s.alertEvent kind unit v p).parts = s.parts := by simp [State.alertEvent]
@[simp] theorem State.alertEvent_tickets (s : State) (kind unit : Nat) (v : Int) (p : Nat → Bool) : (s.alertEvent kind unit v p).tickets = s.tickets := by simp [State.alertEvent]
@[simp] theorem State.alertEvent_slotTables (s : State) (kind unit : Nat) (v : Int) (p : Nat → Bool) : (s.alertEvent kind unit v p).slotTables = s.slotTables := by simp [State.alertEvent]
@[simp] theorem State.alertEvent_xfers (s : State) (kind unit : Nat) (v : Int) (p : Nat → Bool) : (s.alertEvent kind unit v p).xfers = s.xfers := by simp [State.alertEvent]
@[simp] theorem State.alertEvent_sigs (s : State) (kind unit : Nat) (v : Int) (p : Nat → Bool) : (s.alertEvent kind unit v p).sigs = s.sigs := by simp [State.alertEvent]
@[simp] theorem State.alertEvent_err (s : State) (kind unit : Nat) (v : Int) (p : Nat → Bool) : (s.alertEvent kind unit v p).err = s.err := by simp [State.alertEvent]
@[simp] theorem State.alertEvent_links (s : State) (kind unit : Nat) (v : Int) (p : Nat → Bool) : (s.alertEvent kind unit v p).links = s.links := by simp [State.alertEvent]
@[simp] theorem State.alertEvent_mgt (s : State) (kind unit : Nat) (v : Int) (p : Nat → Bool) : (s.alertEvent kind unit v p).mgt = s.mgt := by simp [State.alertEvent]
@[simp] theorem State.alertEvent_nextId (s : State) (kind unit : Nat) (v : Int) (p : Nat → Bool) : (s.alertEvent kind unit v p).nextId = s.nextId := by simp [State.alertEvent]
@[simp] theorem State.alertEvent_fresh (s : State) (kind unit : Nat) (v : Int) (p : Nat → Bool) : (s.alertEvent kind unit v p).fresh = s.fresh := by simp [State.alertEvent]
@[simp] theorem State.alertEvent_pending (s : State) (kind unit : Nat) (v : Int) (p : Nat → Bool) : (s.alertEvent kind unit v p).pending = s.pending := by simp [State.alertEvent]

/-! ### cascadeEvent -/

@[simp] theorem State.cascadeEvent_fuses (s : State) (p kind rank stamp : Nat) : (s.cascadeEvent p kind rank stamp).fuses = s.fuses := by simp [State.cascadeEvent]
@[simp] theorem State.cascadeEvent_clk (s : State) (p kind rank stamp : Nat) : (s.cascadeEvent p kind rank stamp).clk = s.clk := by simp [State.cascadeEvent]
@[simp] theorem State.cascadeEvent_cores (s : State) (p kind rank stamp : Nat) : (s.cascadeEvent p kind rank stamp).cores = s.cores := by simp [State.cascadeEvent]
@[simp] theorem State.cascadeEvent_mem (s : State) (p kind rank stamp : Nat) : (s.cascadeEvent p kind rank stamp).mem = s.mem := by simp [State.cascadeEvent]
@[simp] theorem State.cascadeEvent_ecc (s : State) (p kind rank stamp : Nat) : (s.cascadeEvent p kind rank stamp).ecc = s.ecc := by simp [State.cascadeEvent]
@[simp] theorem State.cascadeEvent_chans (s : State) (p kind rank stamp : Nat) : (s.cascadeEvent p kind rank stamp).chans = s.chans := by simp [State.cascadeEvent]
@[simp] theorem State.cascadeEvent_unitOwner (s : State) (p kind rank stamp : Nat) : (s.cascadeEvent p kind rank stamp).unitOwner = s.unitOwner := by simp [State.cascadeEvent]
@[simp] theorem State.cascadeEvent_segs (s : State) (p kind rank stamp : Nat) : (s.cascadeEvent p kind rank stamp).segs = s.segs := by simp [State.cascadeEvent]
@[simp] theorem State.cascadeEvent_gens (s : State) (p kind rank stamp : Nat) : (s.cascadeEvent p kind rank stamp).gens = s.gens := by simp [State.cascadeEvent]
@[simp] theorem State.cascadeEvent_parts (s : State) (p kind rank stamp : Nat) : (s.cascadeEvent p kind rank stamp).parts = s.parts := by simp [State.cascadeEvent]
@[simp] theorem State.cascadeEvent_tickets (s : State) (p kind rank stamp : Nat) : (s.cascadeEvent p kind rank stamp).tickets = s.tickets := by simp [State.cascadeEvent]
@[simp] theorem State.cascadeEvent_slotTables (s : State) (p kind rank stamp : Nat) : (s.cascadeEvent p kind rank stamp).slotTables = s.slotTables := by simp [State.cascadeEvent]
@[simp] theorem State.cascadeEvent_xfers (s : State) (p kind rank stamp : Nat) : (s.cascadeEvent p kind rank stamp).xfers = s.xfers := by simp [State.cascadeEvent]
@[simp] theorem State.cascadeEvent_sigs (s : State) (p kind rank stamp : Nat) : (s.cascadeEvent p kind rank stamp).sigs = s.sigs := by simp [State.cascadeEvent]
@[simp] theorem State.cascadeEvent_err (s : State) (p kind rank stamp : Nat) : (s.cascadeEvent p kind rank stamp).err = s.err := by simp [State.cascadeEvent]
@[simp] theorem State.cascadeEvent_links (s : State) (p kind rank stamp : Nat) : (s.cascadeEvent p kind rank stamp).links = s.links := by simp [State.cascadeEvent]
@[simp] theorem State.cascadeEvent_mgt (s : State) (p kind rank stamp : Nat) : (s.cascadeEvent p kind rank stamp).mgt = s.mgt := by simp [State.cascadeEvent]
@[simp] theorem State.cascadeEvent_nextId (s : State) (p kind rank stamp : Nat) : (s.cascadeEvent p kind rank stamp).nextId = s.nextId := by simp [State.cascadeEvent]
@[simp] theorem State.cascadeEvent_fresh (s : State) (p kind rank stamp : Nat) : (s.cascadeEvent p kind rank stamp).fresh = s.fresh := by simp [State.cascadeEvent]
@[simp] theorem State.cascadeEvent_pending (s : State) (p kind rank stamp : Nat) : (s.cascadeEvent p kind rank stamp).pending = s.pending := by simp [State.cascadeEvent]

/-! ### dropData -/

@[simp] theorem State.dropData_fuses (s : State) (p : QPair → Bool) : (s.dropData p).fuses = s.fuses := by unfold State.dropData; dsimp only; rw [foldl_proj (π := State.fuses)]; simp
@[simp] theorem State.dropData_clk (s : State) (p : QPair → Bool) : (s.dropData p).clk = s.clk := by unfold State.dropData; dsimp only; rw [foldl_proj (π := State.clk)]; simp
@[simp] theorem State.dropData_cores (s : State) (p : QPair → Bool) : (s.dropData p).cores = s.cores := by unfold State.dropData; dsimp only; rw [foldl_proj (π := State.cores)]; simp
@[simp] theorem State.dropData_mem (s : State) (p : QPair → Bool) : (s.dropData p).mem = s.mem := by unfold State.dropData; dsimp only; rw [foldl_proj (π := State.mem)]; simp
@[simp] theorem State.dropData_ecc (s : State) (p : QPair → Bool) : (s.dropData p).ecc = s.ecc := by unfold State.dropData; dsimp only; rw [foldl_proj (π := State.ecc)]; simp
@[simp] theorem State.dropData_chans (s : State) (p : QPair → Bool) : (s.dropData p).chans = s.chans := by unfold State.dropData; dsimp only; rw [foldl_proj (π := State.chans)]; simp
@[simp] theorem State.dropData_unitOwner (s : State) (p : QPair → Bool) : (s.dropData p).unitOwner = s.unitOwner := by unfold State.dropData; dsimp only; rw [foldl_proj (π := State.unitOwner)]; simp
@[simp] theorem State.dropData_segs (s : State) (p : QPair → Bool) : (s.dropData p).segs = s.segs := by unfold State.dropData; dsimp only; rw [foldl_proj (π := State.segs)]; simp
@[simp] theorem State.dropData_gens (s : State) (p : QPair → Bool) : (s.dropData p).gens = s.gens := by unfold State.dropData; dsimp only; rw [foldl_proj (π := State.gens)]; simp
@[simp] theorem State.dropData_parts (s : State) (p : QPair → Bool) : (s.dropData p).parts = s.parts := by unfold State.dropData; dsimp only; rw [foldl_proj (π := State.parts)]; simp
@[simp] theorem State.dropData_tickets (s : State) (p : QPair → Bool) : (s.dropData p).tickets = s.tickets := by unfold State.dropData; dsimp only; rw [foldl_proj (π := State.tickets)]; simp
@[simp] theorem State.dropData_slotTables (s : State) (p : QPair → Bool) : (s.dropData p).slotTables = s.slotTables := by unfold State.dropData; dsimp only; rw [foldl_proj (π := State.slotTables)]; simp
@[simp] theorem State.dropData_xfers (s : State) (p : QPair → Bool) : (s.dropData p).xfers = s.xfers := by unfold State.dropData; dsimp only; rw [foldl_proj (π := State.xfers)]; simp
@[simp] theorem State.dropData_sigs (s : State) (p : QPair → Bool) : (s.dropData p).sigs = s.sigs := by unfold State.dropData; dsimp only; rw [foldl_proj (π := State.sigs)]; simp
@[simp] theorem State.dropData_err (s : State) (p : QPair → Bool) : (s.dropData p).err = s.err := by unfold State.dropData; dsimp only; rw [foldl_proj (π := State.err)]; simp
@[simp] theorem State.dropData_links (s : State) (p : QPair → Bool) : (s.dropData p).links = s.links := by unfold State.dropData; dsimp only; rw [foldl_proj (π := State.links)]; simp
@[simp] theorem State.dropData_mgt (s : State) (p : QPair → Bool) : (s.dropData p).mgt = s.mgt := by unfold State.dropData; dsimp only; rw [foldl_proj (π := State.mgt)]; simp
@[simp] theorem State.dropData_nextId (s : State) (p : QPair → Bool) : (s.dropData p).nextId = s.nextId := by unfold State.dropData; dsimp only; rw [foldl_proj (π := State.nextId)]; simp
@[simp] theorem State.dropData_fresh (s : State) (p : QPair → Bool) : (s.dropData p).fresh = s.fresh := by unfold State.dropData; dsimp only; rw [foldl_proj (π := State.fresh)]; simp
@[simp] theorem State.dropData_pending (s : State) (p : QPair → Bool) : (s.dropData p).pending = s.pending := by unfold State.dropData; dsimp only; rw [foldl_proj (π := State.pending)]; simp

/-! ### stopCore -/

@[simp] theorem State.stopCore_fuses (s : State) (c : Nat) (b : Bool) : (s.stopCore c b).fuses = s.fuses := by unfold State.stopCore; dsimp only; split <;> simp
@[simp] theorem State.stopCore_clk (s : State) (c : Nat) (b : Bool) : (s.stopCore c b).clk = s.clk := by unfold State.stopCore; dsimp only; split <;> simp
@[simp] theorem State.stopCore_mem (s : State) (c : Nat) (b : Bool) : (s.stopCore c b).mem = s.mem := by unfold State.stopCore; dsimp only; split <;> simp
@[simp] theorem State.stopCore_ecc (s : State) (c : Nat) (b : Bool) : (s.stopCore c b).ecc = s.ecc := by unfold State.stopCore; dsimp only; split <;> simp
@[simp] theorem State.stopCore_chans (s : State) (c : Nat) (b : Bool) : (s.stopCore c b).chans = s.chans := by unfold State.stopCore; dsimp only; split <;> simp
@[simp] theorem State.stopCore_unitOwner (s : State) (c : Nat) (b : Bool) : (s.stopCore c b).unitOwner = s.unitOwner := by unfold State.stopCore; dsimp only; split <;> simp
@[simp] theorem State.stopCore_segs (s : State) (c : Nat) (b : Bool) : (s.stopCore c b).segs = s.segs := by unfold State.stopCore; dsimp only; split <;> simp
@[simp] theorem State.stopCore_gens (s : State) (c : Nat) (b : Bool) : (s.stopCore c b).gens = s.gens := by unfold State.stopCore; dsimp only; split <;> simp
@[simp] theorem State.stopCore_tickets (s : State) (c : Nat) (b : Bool) : (s.stopCore c b).tickets = s.tickets := by unfold State.stopCore; dsimp only; split <;> simp
@[simp] theorem State.stopCore_slotTables (s : State) (c : Nat) (b : Bool) : (s.stopCore c b).slotTables = s.slotTables := by unfold State.stopCore; dsimp only; split <;> simp
@[simp] theorem State.stopCore_sigs (s : State) (c : Nat) (b : Bool) : (s.stopCore c b).sigs = s.sigs := by unfold State.stopCore; dsimp only; split <;> simp
@[simp] theorem State.stopCore_host (s : State) (c : Nat) (b : Bool) : (s.stopCore c b).host = s.host := by unfold State.stopCore; dsimp only; split <;> simp
@[simp] theorem State.stopCore_err (s : State) (c : Nat) (b : Bool) : (s.stopCore c b).err = s.err := by unfold State.stopCore; dsimp only; split <;> simp
@[simp] theorem State.stopCore_links (s : State) (c : Nat) (b : Bool) : (s.stopCore c b).links = s.links := by unfold State.stopCore; dsimp only; split <;> simp
@[simp] theorem State.stopCore_mgt (s : State) (c : Nat) (b : Bool) : (s.stopCore c b).mgt = s.mgt := by unfold State.stopCore; dsimp only; split <;> simp
@[simp] theorem State.stopCore_nextId (s : State) (c : Nat) (b : Bool) : (s.stopCore c b).nextId = s.nextId := by unfold State.stopCore; dsimp only; split <;> simp
@[simp] theorem State.stopCore_fresh (s : State) (c : Nat) (b : Bool) : (s.stopCore c b).fresh = s.fresh := by unfold State.stopCore; dsimp only; split <;> simp
@[simp] theorem State.stopCore_pending (s : State) (c : Nat) (b : Bool) : (s.stopCore c b).pending = s.pending := by unfold State.stopCore; dsimp only; split <;> simp

/-! ### coreFault -/

@[simp] theorem State.coreFault_fuses (s : State) (c : Nat) (f : CFault) : (s.coreFault c f).fuses = s.fuses := by unfold State.coreFault; dsimp only; split <;> simp
@[simp] theorem State.coreFault_clk (s : State) (c : Nat) (f : CFault) : (s.coreFault c f).clk = s.clk := by unfold State.coreFault; dsimp only; split <;> simp
@[simp] theorem State.coreFault_mem (s : State) (c : Nat) (f : CFault) : (s.coreFault c f).mem = s.mem := by unfold State.coreFault; dsimp only; split <;> simp
@[simp] theorem State.coreFault_ecc (s : State) (c : Nat) (f : CFault) : (s.coreFault c f).ecc = s.ecc := by unfold State.coreFault; dsimp only; split <;> simp
@[simp] theorem State.coreFault_chans (s : State) (c : Nat) (f : CFault) : (s.coreFault c f).chans = s.chans := by unfold State.coreFault; dsimp only; split <;> simp
@[simp] theorem State.coreFault_unitOwner (s : State) (c : Nat) (f : CFault) : (s.coreFault c f).unitOwner = s.unitOwner := by unfold State.coreFault; dsimp only; split <;> simp
@[simp] theorem State.coreFault_segs (s : State) (c : Nat) (f : CFault) : (s.coreFault c f).segs = s.segs := by unfold State.coreFault; dsimp only; split <;> simp
@[simp] theorem State.coreFault_gens (s : State) (c : Nat) (f : CFault) : (s.coreFault c f).gens = s.gens := by unfold State.coreFault; dsimp only; split <;> simp
@[simp] theorem State.coreFault_tickets (s : State) (c : Nat) (f : CFault) : (s.coreFault c f).tickets = s.tickets := by unfold State.coreFault; dsimp only; split <;> simp
@[simp] theorem State.coreFault_slotTables (s : State) (c : Nat) (f : CFault) : (s.coreFault c f).slotTables = s.slotTables := by unfold State.coreFault; dsimp only; split <;> simp
@[simp] theorem State.coreFault_sigs (s : State) (c : Nat) (f : CFault) : (s.coreFault c f).sigs = s.sigs := by unfold State.coreFault; dsimp only; split <;> simp
@[simp] theorem State.coreFault_host (s : State) (c : Nat) (f : CFault) : (s.coreFault c f).host = s.host := by unfold State.coreFault; dsimp only; split <;> simp
@[simp] theorem State.coreFault_links (s : State) (c : Nat) (f : CFault) : (s.coreFault c f).links = s.links := by unfold State.coreFault; dsimp only; split <;> simp
@[simp] theorem State.coreFault_mgt (s : State) (c : Nat) (f : CFault) : (s.coreFault c f).mgt = s.mgt := by unfold State.coreFault; dsimp only; split <;> simp
@[simp] theorem State.coreFault_nextId (s : State) (c : Nat) (f : CFault) : (s.coreFault c f).nextId = s.nextId := by unfold State.coreFault; dsimp only; split <;> simp
@[simp] theorem State.coreFault_fresh (s : State) (c : Nat) (f : CFault) : (s.coreFault c f).fresh = s.fresh := by unfold State.coreFault; dsimp only; split <;> simp
@[simp] theorem State.coreFault_pending (s : State) (c : Nat) (f : CFault) : (s.coreFault c f).pending = s.pending := by unfold State.coreFault; dsimp only; split <;> simp

/-! ### increment -/

@[simp] theorem State.increment_fuses (s : State) (c n inc : Nat) (m : Option Mark) (src : IncSrc) : (s.increment c n inc m src).fuses = s.fuses := by unfold State.increment; dsimp only; (repeat' split) <;> simp
@[simp] theorem State.increment_clk (s : State) (c n inc : Nat) (m : Option Mark) (src : IncSrc) : (s.increment c n inc m src).clk = s.clk := by unfold State.increment; dsimp only; (repeat' split) <;> simp
@[simp] theorem State.increment_ecc (s : State) (c n inc : Nat) (m : Option Mark) (src : IncSrc) : (s.increment c n inc m src).ecc = s.ecc := by unfold State.increment; dsimp only; (repeat' split) <;> simp
@[simp] theorem State.increment_chans (s : State) (c n inc : Nat) (m : Option Mark) (src : IncSrc) : (s.increment c n inc m src).chans = s.chans := by unfold State.increment; dsimp only; (repeat' split) <;> simp
@[simp] theorem State.increment_unitOwner (s : State) (c n inc : Nat) (m : Option Mark) (src : IncSrc) : (s.increment c n inc m src).unitOwner = s.unitOwner := by unfold State.increment; dsimp only; (repeat' split) <;> simp
@[simp] theorem State.increment_segs (s : State) (c n inc : Nat) (m : Option Mark) (src : IncSrc) : (s.increment c n inc m src).segs = s.segs := by unfold State.increment; dsimp only; (repeat' split) <;> simp
@[simp] theorem State.increment_gens (s : State) (c n inc : Nat) (m : Option Mark) (src : IncSrc) : (s.increment c n inc m src).gens = s.gens := by unfold State.increment; dsimp only; (repeat' split) <;> simp
@[simp] theorem State.increment_tickets (s : State) (c n inc : Nat) (m : Option Mark) (src : IncSrc) : (s.increment c n inc m src).tickets = s.tickets := by unfold State.increment; dsimp only; (repeat' split) <;> simp
@[simp] theorem State.increment_slotTables (s : State) (c n inc : Nat) (m : Option Mark) (src : IncSrc) : (s.increment c n inc m src).slotTables = s.slotTables := by unfold State.increment; dsimp only; (repeat' split) <;> simp
@[simp] theorem State.increment_sigs (s : State) (c n inc : Nat) (m : Option Mark) (src : IncSrc) : (s.increment c n inc m src).sigs = s.sigs := by unfold State.increment; dsimp only; (repeat' split) <;> simp
@[simp] theorem State.increment_host (s : State) (c n inc : Nat) (m : Option Mark) (src : IncSrc) : (s.increment c n inc m src).host = s.host := by unfold State.increment; dsimp only; (repeat' split) <;> simp
@[simp] theorem State.increment_links (s : State) (c n inc : Nat) (m : Option Mark) (src : IncSrc) : (s.increment c n inc m src).links = s.links := by unfold State.increment; dsimp only; (repeat' split) <;> simp
@[simp] theorem State.increment_mgt (s : State) (c n inc : Nat) (m : Option Mark) (src : IncSrc) : (s.increment c n inc m src).mgt = s.mgt := by unfold State.increment; dsimp only; (repeat' split) <;> simp
@[simp] theorem State.increment_nextId (s : State) (c n inc : Nat) (m : Option Mark) (src : IncSrc) : (s.increment c n inc m src).nextId = s.nextId := by unfold State.increment; dsimp only; (repeat' split) <;> simp
@[simp] theorem State.increment_pending (s : State) (c n inc : Nat) (m : Option Mark) (src : IncSrc) : (s.increment c n inc m src).pending = s.pending := by unfold State.increment; dsimp only; (repeat' split) <;> simp

/-! ### retarget -/

@[simp] theorem State.retarget_fuses (s : State) (t cause : Nat) (b : Bool) : (s.retarget t cause b).fuses = s.fuses := by unfold State.retarget; dsimp only; (repeat' split) <;> simp
@[simp] theorem State.retarget_cores (s : State) (t cause : Nat) (b : Bool) : (s.retarget t cause b).cores = s.cores := by unfold State.retarget; dsimp only; (repeat' split) <;> simp
@[simp] theorem State.retarget_ecc (s : State) (t cause : Nat) (b : Bool) : (s.retarget t cause b).ecc = s.ecc := by unfold State.retarget; dsimp only; (repeat' split) <;> simp
@[simp] theorem State.retarget_chans (s : State) (t cause : Nat) (b : Bool) : (s.retarget t cause b).chans = s.chans := by unfold State.retarget; dsimp only; (repeat' split) <;> simp
@[simp] theorem State.retarget_unitOwner (s : State) (t cause : Nat) (b : Bool) : (s.retarget t cause b).unitOwner = s.unitOwner := by unfold State.retarget; dsimp only; (repeat' split) <;> simp
@[simp] theorem State.retarget_segs (s : State) (t cause : Nat) (b : Bool) : (s.retarget t cause b).segs = s.segs := by unfold State.retarget; dsimp only; (repeat' split) <;> simp
@[simp] theorem State.retarget_gens (s : State) (t cause : Nat) (b : Bool) : (s.retarget t cause b).gens = s.gens := by unfold State.retarget; dsimp only; (repeat' split) <;> simp
@[simp] theorem State.retarget_tickets (s : State) (t cause : Nat) (b : Bool) : (s.retarget t cause b).tickets = s.tickets := by unfold State.retarget; dsimp only; (repeat' split) <;> simp
@[simp] theorem State.retarget_slotTables (s : State) (t cause : Nat) (b : Bool) : (s.retarget t cause b).slotTables = s.slotTables := by unfold State.retarget; dsimp only; (repeat' split) <;> simp
@[simp] theorem State.retarget_xfers (s : State) (t cause : Nat) (b : Bool) : (s.retarget t cause b).xfers = s.xfers := by unfold State.retarget; dsimp only; (repeat' split) <;> simp
@[simp] theorem State.retarget_sigs (s : State) (t cause : Nat) (b : Bool) : (s.retarget t cause b).sigs = s.sigs := by unfold State.retarget; dsimp only; (repeat' split) <;> simp
@[simp] theorem State.retarget_host (s : State) (t cause : Nat) (b : Bool) : (s.retarget t cause b).host = s.host := by unfold State.retarget; dsimp only; (repeat' split) <;> simp
@[simp] theorem State.retarget_links (s : State) (t cause : Nat) (b : Bool) : (s.retarget t cause b).links = s.links := by unfold State.retarget; dsimp only; (repeat' split) <;> simp
@[simp] theorem State.retarget_mgt (s : State) (t cause : Nat) (b : Bool) : (s.retarget t cause b).mgt = s.mgt := by unfold State.retarget; dsimp only; (repeat' split) <;> simp
@[simp] theorem State.retarget_nextId (s : State) (t cause : Nat) (b : Bool) : (s.retarget t cause b).nextId = s.nextId := by unfold State.retarget; dsimp only; (repeat' split) <;> simp
@[simp] theorem State.retarget_pending (s : State) (t cause : Nat) (b : Bool) : (s.retarget t cause b).pending = s.pending := by unfold State.retarget; dsimp only; (repeat' split) <;> simp

@[simp] theorem State.retarget_mem (s : State) (t cause : Nat) (b : Bool) : (s.retarget t cause b).mem = s.mem := by
  unfold State.retarget; dsimp only; (repeat' split) <;> simp

@[simp] theorem State.retarget_parts (s : State) (t cause : Nat) (b : Bool) : (s.retarget t cause b).parts = s.parts := by
  unfold State.retarget; dsimp only; (repeat' split) <;> simp

/-! ### setFwStep -/

@[simp] theorem State.setFwStep_fuses (s : State) (t cause : Nat) : (s.setFwStep t cause).fuses = s.fuses := by unfold State.setFwStep; dsimp only; (repeat' split) <;> simp
@[simp] theorem State.setFwStep_cores (s : State) (t cause : Nat) : (s.setFwStep t cause).cores = s.cores := by unfold State.setFwStep; dsimp only; (repeat' split) <;> simp
@[simp] theorem State.setFwStep_ecc (s : State) (t cause : Nat) : (s.setFwStep t cause).ecc = s.ecc := by unfold State.setFwStep; dsimp only; (repeat' split) <;> simp
@[simp] theorem State.setFwStep_chans (s : State) (t cause : Nat) : (s.setFwStep t cause).chans = s.chans := by unfold State.setFwStep; dsimp only; (repeat' split) <;> simp
@[simp] theorem State.setFwStep_unitOwner (s : State) (t cause : Nat) : (s.setFwStep t cause).unitOwner = s.unitOwner := by unfold State.setFwStep; dsimp only; (repeat' split) <;> simp
@[simp] theorem State.setFwStep_segs (s : State) (t cause : Nat) : (s.setFwStep t cause).segs = s.segs := by unfold State.setFwStep; dsimp only; (repeat' split) <;> simp
@[simp] theorem State.setFwStep_gens (s : State) (t cause : Nat) : (s.setFwStep t cause).gens = s.gens := by unfold State.setFwStep; dsimp only; (repeat' split) <;> simp
@[simp] theorem State.setFwStep_tickets (s : State) (t cause : Nat) : (s.setFwStep t cause).tickets = s.tickets := by unfold State.setFwStep; dsimp only; (repeat' split) <;> simp
@[simp] theorem State.setFwStep_slotTables (s : State) (t cause : Nat) : (s.setFwStep t cause).slotTables = s.slotTables := by unfold State.setFwStep; dsimp only; (repeat' split) <;> simp
@[simp] theorem State.setFwStep_xfers (s : State) (t cause : Nat) : (s.setFwStep t cause).xfers = s.xfers := by unfold State.setFwStep; dsimp only; (repeat' split) <;> simp
@[simp] theorem State.setFwStep_sigs (s : State) (t cause : Nat) : (s.setFwStep t cause).sigs = s.sigs := by unfold State.setFwStep; dsimp only; (repeat' split) <;> simp
@[simp] theorem State.setFwStep_host (s : State) (t cause : Nat) : (s.setFwStep t cause).host = s.host := by unfold State.setFwStep; dsimp only; (repeat' split) <;> simp
@[simp] theorem State.setFwStep_links (s : State) (t cause : Nat) : (s.setFwStep t cause).links = s.links := by unfold State.setFwStep; dsimp only; (repeat' split) <;> simp
@[simp] theorem State.setFwStep_mgt (s : State) (t cause : Nat) : (s.setFwStep t cause).mgt = s.mgt := by unfold State.setFwStep; dsimp only; (repeat' split) <;> simp
@[simp] theorem State.setFwStep_nextId (s : State) (t cause : Nat) : (s.setFwStep t cause).nextId = s.nextId := by unfold State.setFwStep; dsimp only; (repeat' split) <;> simp
@[simp] theorem State.setFwStep_pending (s : State) (t cause : Nat) : (s.setFwStep t cause).pending = s.pending := by unfold State.setFwStep; dsimp only; (repeat' split) <;> simp

/-! ### hardTarget -/

@[simp] theorem State.hardTarget_fuses (s : State) (t cause : Nat) : (s.hardTarget t cause).fuses = s.fuses := by unfold State.hardTarget; split <;> simp
@[simp] theorem State.hardTarget_cores (s : State) (t cause : Nat) : (s.hardTarget t cause).cores = s.cores := by unfold State.hardTarget; split <;> simp
@[simp] theorem State.hardTarget_ecc (s : State) (t cause : Nat) : (s.hardTarget t cause).ecc = s.ecc := by unfold State.hardTarget; split <;> simp
@[simp] theorem State.hardTarget_chans (s : State) (t cause : Nat) : (s.hardTarget t cause).chans = s.chans := by unfold State.hardTarget; split <;> simp
@[simp] theorem State.hardTarget_unitOwner (s : State) (t cause : Nat) : (s.hardTarget t cause).unitOwner = s.unitOwner := by unfold State.hardTarget; split <;> simp
@[simp] theorem State.hardTarget_segs (s : State) (t cause : Nat) : (s.hardTarget t cause).segs = s.segs := by unfold State.hardTarget; split <;> simp
@[simp] theorem State.hardTarget_gens (s : State) (t cause : Nat) : (s.hardTarget t cause).gens = s.gens := by unfold State.hardTarget; split <;> simp
@[simp] theorem State.hardTarget_tickets (s : State) (t cause : Nat) : (s.hardTarget t cause).tickets = s.tickets := by unfold State.hardTarget; split <;> simp
@[simp] theorem State.hardTarget_slotTables (s : State) (t cause : Nat) : (s.hardTarget t cause).slotTables = s.slotTables := by unfold State.hardTarget; split <;> simp
@[simp] theorem State.hardTarget_xfers (s : State) (t cause : Nat) : (s.hardTarget t cause).xfers = s.xfers := by unfold State.hardTarget; split <;> simp
@[simp] theorem State.hardTarget_sigs (s : State) (t cause : Nat) : (s.hardTarget t cause).sigs = s.sigs := by unfold State.hardTarget; split <;> simp
@[simp] theorem State.hardTarget_host (s : State) (t cause : Nat) : (s.hardTarget t cause).host = s.host := by unfold State.hardTarget; split <;> simp
@[simp] theorem State.hardTarget_links (s : State) (t cause : Nat) : (s.hardTarget t cause).links = s.links := by unfold State.hardTarget; split <;> simp
@[simp] theorem State.hardTarget_mgt (s : State) (t cause : Nat) : (s.hardTarget t cause).mgt = s.mgt := by unfold State.hardTarget; split <;> simp
@[simp] theorem State.hardTarget_nextId (s : State) (t cause : Nat) : (s.hardTarget t cause).nextId = s.nextId := by unfold State.hardTarget; split <;> simp
@[simp] theorem State.hardTarget_pending (s : State) (t cause : Nat) : (s.hardTarget t cause).pending = s.pending := by unfold State.hardTarget; split <;> simp

/-! ### alarmHold -/

@[simp] theorem State.alarmHold_fuses (s : State) (cause : Nat) : (s.alarmHold cause).fuses = s.fuses := by unfold State.alarmHold; split <;> simp
@[simp] theorem State.alarmHold_cores (s : State) (cause : Nat) : (s.alarmHold cause).cores = s.cores := by unfold State.alarmHold; split <;> simp
@[simp] theorem State.alarmHold_ecc (s : State) (cause : Nat) : (s.alarmHold cause).ecc = s.ecc := by unfold State.alarmHold; split <;> simp
@[simp] theorem State.alarmHold_chans (s : State) (cause : Nat) : (s.alarmHold cause).chans = s.chans := by unfold State.alarmHold; split <;> simp
@[simp] theorem State.alarmHold_unitOwner (s : State) (cause : Nat) : (s.alarmHold cause).unitOwner = s.unitOwner := by unfold State.alarmHold; split <;> simp
@[simp] theorem State.alarmHold_segs (s : State) (cause : Nat) : (s.alarmHold cause).segs = s.segs := by unfold State.alarmHold; split <;> simp
@[simp] theorem State.alarmHold_gens (s : State) (cause : Nat) : (s.alarmHold cause).gens = s.gens := by unfold State.alarmHold; split <;> simp
@[simp] theorem State.alarmHold_tickets (s : State) (cause : Nat) : (s.alarmHold cause).tickets = s.tickets := by unfold State.alarmHold; split <;> simp
@[simp] theorem State.alarmHold_slotTables (s : State) (cause : Nat) : (s.alarmHold cause).slotTables = s.slotTables := by unfold State.alarmHold; split <;> simp
@[simp] theorem State.alarmHold_xfers (s : State) (cause : Nat) : (s.alarmHold cause).xfers = s.xfers := by unfold State.alarmHold; split <;> simp
@[simp] theorem State.alarmHold_sigs (s : State) (cause : Nat) : (s.alarmHold cause).sigs = s.sigs := by unfold State.alarmHold; split <;> simp
@[simp] theorem State.alarmHold_host (s : State) (cause : Nat) : (s.alarmHold cause).host = s.host := by unfold State.alarmHold; split <;> simp
@[simp] theorem State.alarmHold_links (s : State) (cause : Nat) : (s.alarmHold cause).links = s.links := by unfold State.alarmHold; split <;> simp
@[simp] theorem State.alarmHold_mgt (s : State) (cause : Nat) : (s.alarmHold cause).mgt = s.mgt := by unfold State.alarmHold; split <;> simp
@[simp] theorem State.alarmHold_nextId (s : State) (cause : Nat) : (s.alarmHold cause).nextId = s.nextId := by unfold State.alarmHold; split <;> simp
@[simp] theorem State.alarmHold_pending (s : State) (cause : Nat) : (s.alarmHold cause).pending = s.pending := by unfold State.alarmHold; split <;> simp

/-! ### warned -/

@[simp] theorem State.warned_fuses (s : State) (r m : Nat) : (s.warned r m).fuses = s.fuses := by unfold State.warned; dsimp only; split <;> simp
@[simp] theorem State.warned_cores (s : State) (r m : Nat) : (s.warned r m).cores = s.cores := by unfold State.warned; dsimp only; split <;> simp
@[simp] theorem State.warned_ecc (s : State) (r m : Nat) : (s.warned r m).ecc = s.ecc := by unfold State.warned; dsimp only; split <;> simp
@[simp] theorem State.warned_chans (s : State) (r m : Nat) : (s.warned r m).chans = s.chans := by unfold State.warned; dsimp only; split <;> simp
@[simp] theorem State.warned_unitOwner (s : State) (r m : Nat) : (s.warned r m).unitOwner = s.unitOwner := by unfold State.warned; dsimp only; split <;> simp
@[simp] theorem State.warned_segs (s : State) (r m : Nat) : (s.warned r m).segs = s.segs := by unfold State.warned; dsimp only; split <;> simp
@[simp] theorem State.warned_gens (s : State) (r m : Nat) : (s.warned r m).gens = s.gens := by unfold State.warned; dsimp only; split <;> simp
@[simp] theorem State.warned_tickets (s : State) (r m : Nat) : (s.warned r m).tickets = s.tickets := by unfold State.warned; dsimp only; split <;> simp
@[simp] theorem State.warned_slotTables (s : State) (r m : Nat) : (s.warned r m).slotTables = s.slotTables := by unfold State.warned; dsimp only; split <;> simp
@[simp] theorem State.warned_xfers (s : State) (r m : Nat) : (s.warned r m).xfers = s.xfers := by unfold State.warned; dsimp only; split <;> simp
@[simp] theorem State.warned_sigs (s : State) (r m : Nat) : (s.warned r m).sigs = s.sigs := by unfold State.warned; dsimp only; split <;> simp
@[simp] theorem State.warned_host (s : State) (r m : Nat) : (s.warned r m).host = s.host := by unfold State.warned; dsimp only; split <;> simp
@[simp] theorem State.warned_links (s : State) (r m : Nat) : (s.warned r m).links = s.links := by unfold State.warned; dsimp only; split <;> simp
@[simp] theorem State.warned_mgt (s : State) (r m : Nat) : (s.warned r m).mgt = s.mgt := by unfold State.warned; dsimp only; split <;> simp
@[simp] theorem State.warned_nextId (s : State) (r m : Nat) : (s.warned r m).nextId = s.nextId := by unfold State.warned; dsimp only; split <;> simp
@[simp] theorem State.warned_pending (s : State) (r m : Nat) : (s.warned r m).pending = s.pending := by unfold State.warned; dsimp only; split <;> simp

/-! ### alarmed -/

@[simp] theorem State.alarmed_fuses (s : State) (r m : Nat) : (s.alarmed r m).fuses = s.fuses := by simp [State.alarmed]
@[simp] theorem State.alarmed_cores (s : State) (r m : Nat) : (s.alarmed r m).cores = s.cores := by simp [State.alarmed]
@[simp] theorem State.alarmed_ecc (s : State) (r m : Nat) : (s.alarmed r m).ecc = s.ecc := by simp [State.alarmed]
@[simp] theorem State.alarmed_chans (s : State) (r m : Nat) : (s.alarmed r m).chans = s.chans := by simp [State.alarmed]
@[simp] theorem State.alarmed_unitOwner (s : State) (r m : Nat) : (s.alarmed r m).unitOwner = s.unitOwner := by simp [State.alarmed]
@[simp] theorem State.alarmed_segs (s : State) (r m : Nat) : (s.alarmed r m).segs = s.segs := by simp [State.alarmed]
@[simp] theorem State.alarmed_gens (s : State) (r m : Nat) : (s.alarmed r m).gens = s.gens := by simp [State.alarmed]
@[simp] theorem State.alarmed_tickets (s : State) (r m : Nat) : (s.alarmed r m).tickets = s.tickets := by simp [State.alarmed]
@[simp] theorem State.alarmed_slotTables (s : State) (r m : Nat) : (s.alarmed r m).slotTables = s.slotTables := by simp [State.alarmed]
@[simp] theorem State.alarmed_xfers (s : State) (r m : Nat) : (s.alarmed r m).xfers = s.xfers := by simp [State.alarmed]
@[simp] theorem State.alarmed_sigs (s : State) (r m : Nat) : (s.alarmed r m).sigs = s.sigs := by simp [State.alarmed]
@[simp] theorem State.alarmed_host (s : State) (r m : Nat) : (s.alarmed r m).host = s.host := by simp [State.alarmed]
@[simp] theorem State.alarmed_links (s : State) (r m : Nat) : (s.alarmed r m).links = s.links := by simp [State.alarmed]
@[simp] theorem State.alarmed_mgt (s : State) (r m : Nat) : (s.alarmed r m).mgt = s.mgt := by simp [State.alarmed]
@[simp] theorem State.alarmed_nextId (s : State) (r m : Nat) : (s.alarmed r m).nextId = s.nextId := by simp [State.alarmed]
@[simp] theorem State.alarmed_pending (s : State) (r m : Nat) : (s.alarmed r m).pending = s.pending := by simp [State.alarmed]

/-! ### takeMargin -/

@[simp] theorem State.takeMargin_fuses (s : State) (r m : Nat) : (s.takeMargin r m).fuses = s.fuses := by unfold State.takeMargin; dsimp only; (repeat' split) <;> simp
@[simp] theorem State.takeMargin_cores (s : State) (r m : Nat) : (s.takeMargin r m).cores = s.cores := by unfold State.takeMargin; dsimp only; (repeat' split) <;> simp
@[simp] theorem State.takeMargin_ecc (s : State) (r m : Nat) : (s.takeMargin r m).ecc = s.ecc := by unfold State.takeMargin; dsimp only; (repeat' split) <;> simp
@[simp] theorem State.takeMargin_chans (s : State) (r m : Nat) : (s.takeMargin r m).chans = s.chans := by unfold State.takeMargin; dsimp only; (repeat' split) <;> simp
@[simp] theorem State.takeMargin_unitOwner (s : State) (r m : Nat) : (s.takeMargin r m).unitOwner = s.unitOwner := by unfold State.takeMargin; dsimp only; (repeat' split) <;> simp
@[simp] theorem State.takeMargin_segs (s : State) (r m : Nat) : (s.takeMargin r m).segs = s.segs := by unfold State.takeMargin; dsimp only; (repeat' split) <;> simp
@[simp] theorem State.takeMargin_gens (s : State) (r m : Nat) : (s.takeMargin r m).gens = s.gens := by unfold State.takeMargin; dsimp only; (repeat' split) <;> simp
@[simp] theorem State.takeMargin_tickets (s : State) (r m : Nat) : (s.takeMargin r m).tickets = s.tickets := by unfold State.takeMargin; dsimp only; (repeat' split) <;> simp
@[simp] theorem State.takeMargin_slotTables (s : State) (r m : Nat) : (s.takeMargin r m).slotTables = s.slotTables := by unfold State.takeMargin; dsimp only; (repeat' split) <;> simp
@[simp] theorem State.takeMargin_xfers (s : State) (r m : Nat) : (s.takeMargin r m).xfers = s.xfers := by unfold State.takeMargin; dsimp only; (repeat' split) <;> simp
@[simp] theorem State.takeMargin_sigs (s : State) (r m : Nat) : (s.takeMargin r m).sigs = s.sigs := by unfold State.takeMargin; dsimp only; (repeat' split) <;> simp
@[simp] theorem State.takeMargin_host (s : State) (r m : Nat) : (s.takeMargin r m).host = s.host := by unfold State.takeMargin; dsimp only; (repeat' split) <;> simp
@[simp] theorem State.takeMargin_links (s : State) (r m : Nat) : (s.takeMargin r m).links = s.links := by unfold State.takeMargin; dsimp only; (repeat' split) <;> simp
@[simp] theorem State.takeMargin_mgt (s : State) (r m : Nat) : (s.takeMargin r m).mgt = s.mgt := by unfold State.takeMargin; dsimp only; (repeat' split) <;> simp
@[simp] theorem State.takeMargin_nextId (s : State) (r m : Nat) : (s.takeMargin r m).nextId = s.nextId := by unfold State.takeMargin; dsimp only; (repeat' split) <;> simp
@[simp] theorem State.takeMargin_pending (s : State) (r m : Nat) : (s.takeMargin r m).pending = s.pending := by unfold State.takeMargin; dsimp only; (repeat' split) <;> simp

/-! ### giveTag -/

@[simp] theorem State.giveTag_fuses (s : State) (c : Nat) : (s.giveTag c).fuses = s.fuses := by unfold State.giveTag; (repeat' split) <;> simp
@[simp] theorem State.giveTag_clk (s : State) (c : Nat) : (s.giveTag c).clk = s.clk := by unfold State.giveTag; (repeat' split) <;> simp
@[simp] theorem State.giveTag_cores (s : State) (c : Nat) : (s.giveTag c).cores = s.cores := by unfold State.giveTag; (repeat' split) <;> simp
@[simp] theorem State.giveTag_mem (s : State) (c : Nat) : (s.giveTag c).mem = s.mem := by unfold State.giveTag; (repeat' split) <;> simp
@[simp] theorem State.giveTag_ecc (s : State) (c : Nat) : (s.giveTag c).ecc = s.ecc := by unfold State.giveTag; (repeat' split) <;> simp
@[simp] theorem State.giveTag_chans (s : State) (c : Nat) : (s.giveTag c).chans = s.chans := by unfold State.giveTag; (repeat' split) <;> simp
@[simp] theorem State.giveTag_unitOwner (s : State) (c : Nat) : (s.giveTag c).unitOwner = s.unitOwner := by unfold State.giveTag; (repeat' split) <;> simp
@[simp] theorem State.giveTag_segs (s : State) (c : Nat) : (s.giveTag c).segs = s.segs := by unfold State.giveTag; (repeat' split) <;> simp
@[simp] theorem State.giveTag_gens (s : State) (c : Nat) : (s.giveTag c).gens = s.gens := by unfold State.giveTag; (repeat' split) <;> simp
@[simp] theorem State.giveTag_parts (s : State) (c : Nat) : (s.giveTag c).parts = s.parts := by unfold State.giveTag; (repeat' split) <;> simp
@[simp] theorem State.giveTag_tickets (s : State) (c : Nat) : (s.giveTag c).tickets = s.tickets := by unfold State.giveTag; (repeat' split) <;> simp
@[simp] theorem State.giveTag_slotTables (s : State) (c : Nat) : (s.giveTag c).slotTables = s.slotTables := by unfold State.giveTag; (repeat' split) <;> simp
@[simp] theorem State.giveTag_sigs (s : State) (c : Nat) : (s.giveTag c).sigs = s.sigs := by unfold State.giveTag; (repeat' split) <;> simp
@[simp] theorem State.giveTag_host (s : State) (c : Nat) : (s.giveTag c).host = s.host := by unfold State.giveTag; (repeat' split) <;> simp
@[simp] theorem State.giveTag_err (s : State) (c : Nat) : (s.giveTag c).err = s.err := by unfold State.giveTag; (repeat' split) <;> simp
@[simp] theorem State.giveTag_links (s : State) (c : Nat) : (s.giveTag c).links = s.links := by unfold State.giveTag; (repeat' split) <;> simp
@[simp] theorem State.giveTag_mgt (s : State) (c : Nat) : (s.giveTag c).mgt = s.mgt := by unfold State.giveTag; (repeat' split) <;> simp
@[simp] theorem State.giveTag_nextId (s : State) (c : Nat) : (s.giveTag c).nextId = s.nextId := by unfold State.giveTag; (repeat' split) <;> simp
@[simp] theorem State.giveTag_fresh (s : State) (c : Nat) : (s.giveTag c).fresh = s.fresh := by unfold State.giveTag; (repeat' split) <;> simp
@[simp] theorem State.giveTag_pending (s : State) (c : Nat) : (s.giveTag c).pending = s.pending := by unfold State.giveTag; (repeat' split) <;> simp

/-! ### pump -/

@[simp] theorem State.pump_fuses (l n : Nat) (s : State) : (State.pump l n s).fuses = s.fuses := by
  induction n generalizing s with
  | zero => rfl
  | succ n ih => unfold State.pump; split <;> simp [ih]

@[simp] theorem State.pump_clk (l n : Nat) (s : State) : (State.pump l n s).clk = s.clk := by
  induction n generalizing s with
  | zero => rfl
  | succ n ih => unfold State.pump; split <;> simp [ih]

@[simp] theorem State.pump_cores (l n : Nat) (s : State) : (State.pump l n s).cores = s.cores := by
  induction n generalizing s with
  | zero => rfl
  | succ n ih => unfold State.pump; split <;> simp [ih]

@[simp] theorem State.pump_mem (l n : Nat) (s : State) : (State.pump l n s).mem = s.mem := by
  induction n generalizing s with
  | zero => rfl
  | succ n ih => unfold State.pump; split <;> simp [ih]

@[simp] theorem State.pump_ecc (l n : Nat) (s : State) : (State.pump l n s).ecc = s.ecc := by
  induction n generalizing s with
  | zero => rfl
  | succ n ih => unfold State.pump; split <;> simp [ih]

@[simp] theorem State.pump_chans (l n : Nat) (s : State) : (State.pump l n s).chans = s.chans := by
  induction n generalizing s with
  | zero => rfl
  | succ n ih => unfold State.pump; split <;> simp [ih]

@[simp] theorem State.pump_unitOwner (l n : Nat) (s : State) : (State.pump l n s).unitOwner = s.unitOwner := by
  induction n generalizing s with
  | zero => rfl
  | succ n ih => unfold State.pump; split <;> simp [ih]

@[simp] theorem State.pump_segs (l n : Nat) (s : State) : (State.pump l n s).segs = s.segs := by
  induction n generalizing s with
  | zero => rfl
  | succ n ih => unfold State.pump; split <;> simp [ih]

@[simp] theorem State.pump_gens (l n : Nat) (s : State) : (State.pump l n s).gens = s.gens := by
  induction n generalizing s with
  | zero => rfl
  | succ n ih => unfold State.pump; split <;> simp [ih]

@[simp] theorem State.pump_parts (l n : Nat) (s : State) : (State.pump l n s).parts = s.parts := by
  induction n generalizing s with
  | zero => rfl
  | succ n ih => unfold State.pump; split <;> simp [ih]

@[simp] theorem State.pump_tickets (l n : Nat) (s : State) : (State.pump l n s).tickets = s.tickets := by
  induction n generalizing s with
  | zero => rfl
  | succ n ih => unfold State.pump; split <;> simp [ih]

@[simp] theorem State.pump_slotTables (l n : Nat) (s : State) : (State.pump l n s).slotTables = s.slotTables := by
  induction n generalizing s with
  | zero => rfl
  | succ n ih => unfold State.pump; split <;> simp [ih]

@[simp] theorem State.pump_xfers (l n : Nat) (s : State) : (State.pump l n s).xfers = s.xfers := by
  induction n generalizing s with
  | zero => rfl
  | succ n ih => unfold State.pump; split <;> simp [ih]

@[simp] theorem State.pump_sigs (l n : Nat) (s : State) : (State.pump l n s).sigs = s.sigs := by
  induction n generalizing s with
  | zero => rfl
  | succ n ih => unfold State.pump; split <;> simp [ih]

@[simp] theorem State.pump_err (l n : Nat) (s : State) : (State.pump l n s).err = s.err := by
  induction n generalizing s with
  | zero => rfl
  | succ n ih => unfold State.pump; split <;> simp [ih]

@[simp] theorem State.pump_mgt (l n : Nat) (s : State) : (State.pump l n s).mgt = s.mgt := by
  induction n generalizing s with
  | zero => rfl
  | succ n ih => unfold State.pump; split <;> simp [ih]

@[simp] theorem State.pump_nextId (l n : Nat) (s : State) : (State.pump l n s).nextId = s.nextId := by
  induction n generalizing s with
  | zero => rfl
  | succ n ih => unfold State.pump; split <;> simp [ih]

@[simp] theorem State.pump_fresh (l n : Nat) (s : State) : (State.pump l n s).fresh = s.fresh := by
  induction n generalizing s with
  | zero => rfl
  | succ n ih => unfold State.pump; split <;> simp [ih]

@[simp] theorem State.pump_pending (l n : Nat) (s : State) : (State.pump l n s).pending = s.pending := by
  induction n generalizing s with
  | zero => rfl
  | succ n ih => unfold State.pump; split <;> simp [ih]


/-! ### sendPacket -/

@[simp] theorem State.sendPacket_fuses (s : State) (l cls : Nat) (k : Packet) : (s.sendPacket l cls k).fuses = s.fuses := by simp [State.sendPacket]
@[simp] theorem State.sendPacket_clk (s : State) (l cls : Nat) (k : Packet) : (s.sendPacket l cls k).clk = s.clk := by simp [State.sendPacket]
@[simp] theorem State.sendPacket_cores (s : State) (l cls : Nat) (k : Packet) : (s.sendPacket l cls k).cores = s.cores := by simp [State.sendPacket]
@[simp] theorem State.sendPacket_mem (s : State) (l cls : Nat) (k : Packet) : (s.sendPacket l cls k).mem = s.mem := by simp [State.sendPacket]
@[simp] theorem State.sendPacket_ecc (s : State) (l cls : Nat) (k : Packet) : (s.sendPacket l cls k).ecc = s.ecc := by simp [State.sendPacket]
@[simp] theorem State.sendPacket_chans (s : State) (l cls : Nat) (k : Packet) : (s.sendPacket l cls k).chans = s.chans := by simp [State.sendPacket]
@[simp] theorem State.sendPacket_unitOwner (s : State) (l cls : Nat) (k : Packet) : (s.sendPacket l cls k).unitOwner = s.unitOwner := by simp [State.sendPacket]
@[simp] theorem State.sendPacket_segs (s : State) (l cls : Nat) (k : Packet) : (s.sendPacket l cls k).segs = s.segs := by simp [State.sendPacket]
@[simp] theorem State.sendPacket_gens (s : State) (l cls : Nat) (k : Packet) : (s.sendPacket l cls k).gens = s.gens := by simp [State.sendPacket]
@[simp] theorem State.sendPacket_parts (s : State) (l cls : Nat) (k : Packet) : (s.sendPacket l cls k).parts = s.parts := by simp [State.sendPacket]
@[simp] theorem State.sendPacket_tickets (s : State) (l cls : Nat) (k : Packet) : (s.sendPacket l cls k).tickets = s.tickets := by simp [State.sendPacket]
@[simp] theorem State.sendPacket_slotTables (s : State) (l cls : Nat) (k : Packet) : (s.sendPacket l cls k).slotTables = s.slotTables := by simp [State.sendPacket]
@[simp] theorem State.sendPacket_xfers (s : State) (l cls : Nat) (k : Packet) : (s.sendPacket l cls k).xfers = s.xfers := by simp [State.sendPacket]
@[simp] theorem State.sendPacket_sigs (s : State) (l cls : Nat) (k : Packet) : (s.sendPacket l cls k).sigs = s.sigs := by simp [State.sendPacket]
@[simp] theorem State.sendPacket_err (s : State) (l cls : Nat) (k : Packet) : (s.sendPacket l cls k).err = s.err := by simp [State.sendPacket]
@[simp] theorem State.sendPacket_mgt (s : State) (l cls : Nat) (k : Packet) : (s.sendPacket l cls k).mgt = s.mgt := by simp [State.sendPacket]
@[simp] theorem State.sendPacket_nextId (s : State) (l cls : Nat) (k : Packet) : (s.sendPacket l cls k).nextId = s.nextId := by simp [State.sendPacket]
@[simp] theorem State.sendPacket_fresh (s : State) (l cls : Nat) (k : Packet) : (s.sendPacket l cls k).fresh = s.fresh := by simp [State.sendPacket]
@[simp] theorem State.sendPacket_pending (s : State) (l cls : Nat) (k : Packet) : (s.sendPacket l cls k).pending = s.pending := by simp [State.sendPacket]

/-! ### sendEmpty -/

@[simp] theorem State.sendEmpty_fuses (s : State) (l ty : Nat) : (s.sendEmpty l ty).fuses = s.fuses := by simp [State.sendEmpty]
@[simp] theorem State.sendEmpty_clk (s : State) (l ty : Nat) : (s.sendEmpty l ty).clk = s.clk := by simp [State.sendEmpty]
@[simp] theorem State.sendEmpty_cores (s : State) (l ty : Nat) : (s.sendEmpty l ty).cores = s.cores := by simp [State.sendEmpty]
@[simp] theorem State.sendEmpty_mem (s : State) (l ty : Nat) : (s.sendEmpty l ty).mem = s.mem := by simp [State.sendEmpty]
@[simp] theorem State.sendEmpty_ecc (s : State) (l ty : Nat) : (s.sendEmpty l ty).ecc = s.ecc := by simp [State.sendEmpty]
@[simp] theorem State.sendEmpty_chans (s : State) (l ty : Nat) : (s.sendEmpty l ty).chans = s.chans := by simp [State.sendEmpty]
@[simp] theorem State.sendEmpty_unitOwner (s : State) (l ty : Nat) : (s.sendEmpty l ty).unitOwner = s.unitOwner := by simp [State.sendEmpty]
@[simp] theorem State.sendEmpty_segs (s : State) (l ty : Nat) : (s.sendEmpty l ty).segs = s.segs := by simp [State.sendEmpty]
@[simp] theorem State.sendEmpty_gens (s : State) (l ty : Nat) : (s.sendEmpty l ty).gens = s.gens := by simp [State.sendEmpty]
@[simp] theorem State.sendEmpty_parts (s : State) (l ty : Nat) : (s.sendEmpty l ty).parts = s.parts := by simp [State.sendEmpty]
@[simp] theorem State.sendEmpty_tickets (s : State) (l ty : Nat) : (s.sendEmpty l ty).tickets = s.tickets := by simp [State.sendEmpty]
@[simp] theorem State.sendEmpty_slotTables (s : State) (l ty : Nat) : (s.sendEmpty l ty).slotTables = s.slotTables := by simp [State.sendEmpty]
@[simp] theorem State.sendEmpty_xfers (s : State) (l ty : Nat) : (s.sendEmpty l ty).xfers = s.xfers := by simp [State.sendEmpty]
@[simp] theorem State.sendEmpty_sigs (s : State) (l ty : Nat) : (s.sendEmpty l ty).sigs = s.sigs := by simp [State.sendEmpty]
@[simp] theorem State.sendEmpty_err (s : State) (l ty : Nat) : (s.sendEmpty l ty).err = s.err := by simp [State.sendEmpty]
@[simp] theorem State.sendEmpty_mgt (s : State) (l ty : Nat) : (s.sendEmpty l ty).mgt = s.mgt := by simp [State.sendEmpty]
@[simp] theorem State.sendEmpty_nextId (s : State) (l ty : Nat) : (s.sendEmpty l ty).nextId = s.nextId := by simp [State.sendEmpty]
@[simp] theorem State.sendEmpty_fresh (s : State) (l ty : Nat) : (s.sendEmpty l ty).fresh = s.fresh := by simp [State.sendEmpty]
@[simp] theorem State.sendEmpty_pending (s : State) (l ty : Nat) : (s.sendEmpty l ty).pending = s.pending := by simp [State.sendEmpty]

/-! ### sendOn -/

@[simp] theorem State.sendOn_fuses (s : State) (p : Nat) (k : Packet) : (s.sendOn p k).fuses = s.fuses := by simp [State.sendOn]
@[simp] theorem State.sendOn_clk (s : State) (p : Nat) (k : Packet) : (s.sendOn p k).clk = s.clk := by simp [State.sendOn]
@[simp] theorem State.sendOn_cores (s : State) (p : Nat) (k : Packet) : (s.sendOn p k).cores = s.cores := by simp [State.sendOn]
@[simp] theorem State.sendOn_mem (s : State) (p : Nat) (k : Packet) : (s.sendOn p k).mem = s.mem := by simp [State.sendOn]
@[simp] theorem State.sendOn_ecc (s : State) (p : Nat) (k : Packet) : (s.sendOn p k).ecc = s.ecc := by simp [State.sendOn]
@[simp] theorem State.sendOn_chans (s : State) (p : Nat) (k : Packet) : (s.sendOn p k).chans = s.chans := by simp [State.sendOn]
@[simp] theorem State.sendOn_unitOwner (s : State) (p : Nat) (k : Packet) : (s.sendOn p k).unitOwner = s.unitOwner := by simp [State.sendOn]
@[simp] theorem State.sendOn_segs (s : State) (p : Nat) (k : Packet) : (s.sendOn p k).segs = s.segs := by simp [State.sendOn]
@[simp] theorem State.sendOn_gens (s : State) (p : Nat) (k : Packet) : (s.sendOn p k).gens = s.gens := by simp [State.sendOn]
@[simp] theorem State.sendOn_parts (s : State) (p : Nat) (k : Packet) : (s.sendOn p k).parts = s.parts := by simp [State.sendOn]
@[simp] theorem State.sendOn_tickets (s : State) (p : Nat) (k : Packet) : (s.sendOn p k).tickets = s.tickets := by simp [State.sendOn]
@[simp] theorem State.sendOn_slotTables (s : State) (p : Nat) (k : Packet) : (s.sendOn p k).slotTables = s.slotTables := by simp [State.sendOn]
@[simp] theorem State.sendOn_xfers (s : State) (p : Nat) (k : Packet) : (s.sendOn p k).xfers = s.xfers := by simp [State.sendOn]
@[simp] theorem State.sendOn_sigs (s : State) (p : Nat) (k : Packet) : (s.sendOn p k).sigs = s.sigs := by simp [State.sendOn]
@[simp] theorem State.sendOn_err (s : State) (p : Nat) (k : Packet) : (s.sendOn p k).err = s.err := by simp [State.sendOn]
@[simp] theorem State.sendOn_mgt (s : State) (p : Nat) (k : Packet) : (s.sendOn p k).mgt = s.mgt := by simp [State.sendOn]
@[simp] theorem State.sendOn_nextId (s : State) (p : Nat) (k : Packet) : (s.sendOn p k).nextId = s.nextId := by simp [State.sendOn]
@[simp] theorem State.sendOn_fresh (s : State) (p : Nat) (k : Packet) : (s.sendOn p k).fresh = s.fresh := by simp [State.sendOn]
@[simp] theorem State.sendOn_pending (s : State) (p : Nat) (k : Packet) : (s.sendOn p k).pending = s.pending := by simp [State.sendOn]

/-! ### manage -/

@[simp] theorem State.manage_fuses (s : State) (p dst : Nat) (body : List Byte) : (s.manage p dst body).fuses = s.fuses := by simp [State.manage]
@[simp] theorem State.manage_clk (s : State) (p dst : Nat) (body : List Byte) : (s.manage p dst body).clk = s.clk := by simp [State.manage]
@[simp] theorem State.manage_cores (s : State) (p dst : Nat) (body : List Byte) : (s.manage p dst body).cores = s.cores := by simp [State.manage]
@[simp] theorem State.manage_mem (s : State) (p dst : Nat) (body : List Byte) : (s.manage p dst body).mem = s.mem := by simp [State.manage]
@[simp] theorem State.manage_ecc (s : State) (p dst : Nat) (body : List Byte) : (s.manage p dst body).ecc = s.ecc := by simp [State.manage]
@[simp] theorem State.manage_chans (s : State) (p dst : Nat) (body : List Byte) : (s.manage p dst body).chans = s.chans := by simp [State.manage]
@[simp] theorem State.manage_unitOwner (s : State) (p dst : Nat) (body : List Byte) : (s.manage p dst body).unitOwner = s.unitOwner := by simp [State.manage]
@[simp] theorem State.manage_segs (s : State) (p dst : Nat) (body : List Byte) : (s.manage p dst body).segs = s.segs := by simp [State.manage]
@[simp] theorem State.manage_gens (s : State) (p dst : Nat) (body : List Byte) : (s.manage p dst body).gens = s.gens := by simp [State.manage]
@[simp] theorem State.manage_parts (s : State) (p dst : Nat) (body : List Byte) : (s.manage p dst body).parts = s.parts := by simp [State.manage]
@[simp] theorem State.manage_tickets (s : State) (p dst : Nat) (body : List Byte) : (s.manage p dst body).tickets = s.tickets := by simp [State.manage]
@[simp] theorem State.manage_slotTables (s : State) (p dst : Nat) (body : List Byte) : (s.manage p dst body).slotTables = s.slotTables := by simp [State.manage]
@[simp] theorem State.manage_xfers (s : State) (p dst : Nat) (body : List Byte) : (s.manage p dst body).xfers = s.xfers := by simp [State.manage]
@[simp] theorem State.manage_sigs (s : State) (p dst : Nat) (body : List Byte) : (s.manage p dst body).sigs = s.sigs := by simp [State.manage]
@[simp] theorem State.manage_err (s : State) (p dst : Nat) (body : List Byte) : (s.manage p dst body).err = s.err := by simp [State.manage]
@[simp] theorem State.manage_mgt (s : State) (p dst : Nat) (body : List Byte) : (s.manage p dst body).mgt = s.mgt := by simp [State.manage]
@[simp] theorem State.manage_nextId (s : State) (p dst : Nat) (body : List Byte) : (s.manage p dst body).nextId = s.nextId := by simp [State.manage]
@[simp] theorem State.manage_fresh (s : State) (p dst : Nat) (body : List Byte) : (s.manage p dst body).fresh = s.fresh := by simp [State.manage]
@[simp] theorem State.manage_pending (s : State) (p dst : Nat) (body : List Byte) : (s.manage p dst body).pending = s.pending := by simp [State.manage]

/-! ### spread -/

@[simp] theorem State.spread_fuses (s : State) (p root : Nat) (body : List Byte) : (s.spread p root body).fuses = s.fuses := by unfold State.spread; rw [foldl_proj (π := State.fuses)]; intros; simp
@[simp] theorem State.spread_clk (s : State) (p root : Nat) (body : List Byte) : (s.spread p root body).clk = s.clk := by unfold State.spread; rw [foldl_proj (π := State.clk)]; intros; simp
@[simp] theorem State.spread_cores (s : State) (p root : Nat) (body : List Byte) : (s.spread p root body).cores = s.cores := by unfold State.spread; rw [foldl_proj (π := State.cores)]; intros; simp
@[simp] theorem State.spread_mem (s : State) (p root : Nat) (body : List Byte) : (s.spread p root body).mem = s.mem := by unfold State.spread; rw [foldl_proj (π := State.mem)]; intros; simp
@[simp] theorem State.spread_ecc (s : State) (p root : Nat) (body : List Byte) : (s.spread p root body).ecc = s.ecc := by unfold State.spread; rw [foldl_proj (π := State.ecc)]; intros; simp
@[simp] theorem State.spread_chans (s : State) (p root : Nat) (body : List Byte) : (s.spread p root body).chans = s.chans := by unfold State.spread; rw [foldl_proj (π := State.chans)]; intros; simp
@[simp] theorem State.spread_unitOwner (s : State) (p root : Nat) (body : List Byte) : (s.spread p root body).unitOwner = s.unitOwner := by unfold State.spread; rw [foldl_proj (π := State.unitOwner)]; intros; simp
@[simp] theorem State.spread_segs (s : State) (p root : Nat) (body : List Byte) : (s.spread p root body).segs = s.segs := by unfold State.spread; rw [foldl_proj (π := State.segs)]; intros; simp
@[simp] theorem State.spread_gens (s : State) (p root : Nat) (body : List Byte) : (s.spread p root body).gens = s.gens := by unfold State.spread; rw [foldl_proj (π := State.gens)]; intros; simp
@[simp] theorem State.spread_parts (s : State) (p root : Nat) (body : List Byte) : (s.spread p root body).parts = s.parts := by unfold State.spread; rw [foldl_proj (π := State.parts)]; intros; simp
@[simp] theorem State.spread_tickets (s : State) (p root : Nat) (body : List Byte) : (s.spread p root body).tickets = s.tickets := by unfold State.spread; rw [foldl_proj (π := State.tickets)]; intros; simp
@[simp] theorem State.spread_slotTables (s : State) (p root : Nat) (body : List Byte) : (s.spread p root body).slotTables = s.slotTables := by unfold State.spread; rw [foldl_proj (π := State.slotTables)]; intros; simp
@[simp] theorem State.spread_xfers (s : State) (p root : Nat) (body : List Byte) : (s.spread p root body).xfers = s.xfers := by unfold State.spread; rw [foldl_proj (π := State.xfers)]; intros; simp
@[simp] theorem State.spread_sigs (s : State) (p root : Nat) (body : List Byte) : (s.spread p root body).sigs = s.sigs := by unfold State.spread; rw [foldl_proj (π := State.sigs)]; intros; simp
@[simp] theorem State.spread_err (s : State) (p root : Nat) (body : List Byte) : (s.spread p root body).err = s.err := by unfold State.spread; rw [foldl_proj (π := State.err)]; intros; simp
@[simp] theorem State.spread_mgt (s : State) (p root : Nat) (body : List Byte) : (s.spread p root body).mgt = s.mgt := by unfold State.spread; rw [foldl_proj (π := State.mgt)]; intros; simp
@[simp] theorem State.spread_nextId (s : State) (p root : Nat) (body : List Byte) : (s.spread p root body).nextId = s.nextId := by unfold State.spread; rw [foldl_proj (π := State.nextId)]; intros; simp
@[simp] theorem State.spread_fresh (s : State) (p root : Nat) (body : List Byte) : (s.spread p root body).fresh = s.fresh := by unfold State.spread; rw [foldl_proj (π := State.fresh)]; intros; simp
@[simp] theorem State.spread_pending (s : State) (p root : Nat) (body : List Byte) : (s.spread p root body).pending = s.pending := by unfold State.spread; rw [foldl_proj (π := State.pending)]; intros; simp

/-! ### tellCascade -/

@[simp] theorem State.tellCascade_fuses (s : State) (p kind rank stamp : Nat) : (s.tellCascade p kind rank stamp).fuses = s.fuses := by unfold State.tellCascade; dsimp only; split <;> simp
@[simp] theorem State.tellCascade_clk (s : State) (p kind rank stamp : Nat) : (s.tellCascade p kind rank stamp).clk = s.clk := by unfold State.tellCascade; dsimp only; split <;> simp
@[simp] theorem State.tellCascade_cores (s : State) (p kind rank stamp : Nat) : (s.tellCascade p kind rank stamp).cores = s.cores := by unfold State.tellCascade; dsimp only; split <;> simp
@[simp] theorem State.tellCascade_mem (s : State) (p kind rank stamp : Nat) : (s.tellCascade p kind rank stamp).mem = s.mem := by unfold State.tellCascade; dsimp only; split <;> simp
@[simp] theorem State.tellCascade_ecc (s : State) (p kind rank stamp : Nat) : (s.tellCascade p kind rank stamp).ecc = s.ecc := by unfold State.tellCascade; dsimp only; split <;> simp
@[simp] theorem State.tellCascade_chans (s : State) (p kind rank stamp : Nat) : (s.tellCascade p kind rank stamp).chans = s.chans := by unfold State.tellCascade; dsimp only; split <;> simp
@[simp] theorem State.tellCascade_unitOwner (s : State) (p kind rank stamp : Nat) : (s.tellCascade p kind rank stamp).unitOwner = s.unitOwner := by unfold State.tellCascade; dsimp only; split <;> simp
@[simp] theorem State.tellCascade_segs (s : State) (p kind rank stamp : Nat) : (s.tellCascade p kind rank stamp).segs = s.segs := by unfold State.tellCascade; dsimp only; split <;> simp
@[simp] theorem State.tellCascade_gens (s : State) (p kind rank stamp : Nat) : (s.tellCascade p kind rank stamp).gens = s.gens := by unfold State.tellCascade; dsimp only; split <;> simp
@[simp] theorem State.tellCascade_parts (s : State) (p kind rank stamp : Nat) : (s.tellCascade p kind rank stamp).parts = s.parts := by unfold State.tellCascade; dsimp only; split <;> simp
@[simp] theorem State.tellCascade_tickets (s : State) (p kind rank stamp : Nat) : (s.tellCascade p kind rank stamp).tickets = s.tickets := by unfold State.tellCascade; dsimp only; split <;> simp
@[simp] theorem State.tellCascade_slotTables (s : State) (p kind rank stamp : Nat) : (s.tellCascade p kind rank stamp).slotTables = s.slotTables := by unfold State.tellCascade; dsimp only; split <;> simp
@[simp] theorem State.tellCascade_xfers (s : State) (p kind rank stamp : Nat) : (s.tellCascade p kind rank stamp).xfers = s.xfers := by unfold State.tellCascade; dsimp only; split <;> simp
@[simp] theorem State.tellCascade_sigs (s : State) (p kind rank stamp : Nat) : (s.tellCascade p kind rank stamp).sigs = s.sigs := by unfold State.tellCascade; dsimp only; split <;> simp
@[simp] theorem State.tellCascade_err (s : State) (p kind rank stamp : Nat) : (s.tellCascade p kind rank stamp).err = s.err := by unfold State.tellCascade; dsimp only; split <;> simp
@[simp] theorem State.tellCascade_mgt (s : State) (p kind rank stamp : Nat) : (s.tellCascade p kind rank stamp).mgt = s.mgt := by unfold State.tellCascade; dsimp only; split <;> simp
@[simp] theorem State.tellCascade_nextId (s : State) (p kind rank stamp : Nat) : (s.tellCascade p kind rank stamp).nextId = s.nextId := by unfold State.tellCascade; dsimp only; split <;> simp
@[simp] theorem State.tellCascade_fresh (s : State) (p kind rank stamp : Nat) : (s.tellCascade p kind rank stamp).fresh = s.fresh := by unfold State.tellCascade; dsimp only; split <;> simp
@[simp] theorem State.tellCascade_pending (s : State) (p kind rank stamp : Nat) : (s.tellCascade p kind rank stamp).pending = s.pending := by unfold State.tellCascade; dsimp only; split <;> simp

/-! ### checkDirection -/

@[simp] theorem State.checkDirection_fuses (s : State) (p d : Nat) : (s.checkDirection p d).fuses = s.fuses := by unfold State.checkDirection; split <;> simp
@[simp] theorem State.checkDirection_clk (s : State) (p d : Nat) : (s.checkDirection p d).clk = s.clk := by unfold State.checkDirection; split <;> simp
@[simp] theorem State.checkDirection_cores (s : State) (p d : Nat) : (s.checkDirection p d).cores = s.cores := by unfold State.checkDirection; split <;> simp
@[simp] theorem State.checkDirection_mem (s : State) (p d : Nat) : (s.checkDirection p d).mem = s.mem := by unfold State.checkDirection; split <;> simp
@[simp] theorem State.checkDirection_ecc (s : State) (p d : Nat) : (s.checkDirection p d).ecc = s.ecc := by unfold State.checkDirection; split <;> simp
@[simp] theorem State.checkDirection_chans (s : State) (p d : Nat) : (s.checkDirection p d).chans = s.chans := by unfold State.checkDirection; split <;> simp
@[simp] theorem State.checkDirection_unitOwner (s : State) (p d : Nat) : (s.checkDirection p d).unitOwner = s.unitOwner := by unfold State.checkDirection; split <;> simp
@[simp] theorem State.checkDirection_segs (s : State) (p d : Nat) : (s.checkDirection p d).segs = s.segs := by unfold State.checkDirection; split <;> simp
@[simp] theorem State.checkDirection_gens (s : State) (p d : Nat) : (s.checkDirection p d).gens = s.gens := by unfold State.checkDirection; split <;> simp
@[simp] theorem State.checkDirection_parts (s : State) (p d : Nat) : (s.checkDirection p d).parts = s.parts := by unfold State.checkDirection; split <;> simp
@[simp] theorem State.checkDirection_tickets (s : State) (p d : Nat) : (s.checkDirection p d).tickets = s.tickets := by unfold State.checkDirection; split <;> simp
@[simp] theorem State.checkDirection_slotTables (s : State) (p d : Nat) : (s.checkDirection p d).slotTables = s.slotTables := by unfold State.checkDirection; split <;> simp
@[simp] theorem State.checkDirection_xfers (s : State) (p d : Nat) : (s.checkDirection p d).xfers = s.xfers := by unfold State.checkDirection; split <;> simp
@[simp] theorem State.checkDirection_sigs (s : State) (p d : Nat) : (s.checkDirection p d).sigs = s.sigs := by unfold State.checkDirection; split <;> simp
@[simp] theorem State.checkDirection_err (s : State) (p d : Nat) : (s.checkDirection p d).err = s.err := by unfold State.checkDirection; split <;> simp
@[simp] theorem State.checkDirection_mgt (s : State) (p d : Nat) : (s.checkDirection p d).mgt = s.mgt := by unfold State.checkDirection; split <;> simp
@[simp] theorem State.checkDirection_nextId (s : State) (p d : Nat) : (s.checkDirection p d).nextId = s.nextId := by unfold State.checkDirection; split <;> simp
@[simp] theorem State.checkDirection_fresh (s : State) (p d : Nat) : (s.checkDirection p d).fresh = s.fresh := by unfold State.checkDirection; split <;> simp
@[simp] theorem State.checkDirection_pending (s : State) (p d : Nat) : (s.checkDirection p d).pending = s.pending := by unfold State.checkDirection; split <;> simp

/-! ### reply -/

@[simp] theorem State.reply_fuses (s : State) (p ptype rank core b ref : Nat) (err : Bool) (body : List Byte) : (s.reply p ptype rank core b ref err body).fuses = s.fuses := by simp [State.reply]
@[simp] theorem State.reply_clk (s : State) (p ptype rank core b ref : Nat) (err : Bool) (body : List Byte) : (s.reply p ptype rank core b ref err body).clk = s.clk := by simp [State.reply]
@[simp] theorem State.reply_cores (s : State) (p ptype rank core b ref : Nat) (err : Bool) (body : List Byte) : (s.reply p ptype rank core b ref err body).cores = s.cores := by simp [State.reply]
@[simp] theorem State.reply_mem (s : State) (p ptype rank core b ref : Nat) (err : Bool) (body : List Byte) : (s.reply p ptype rank core b ref err body).mem = s.mem := by simp [State.reply]
@[simp] theorem State.reply_ecc (s : State) (p ptype rank core b ref : Nat) (err : Bool) (body : List Byte) : (s.reply p ptype rank core b ref err body).ecc = s.ecc := by simp [State.reply]
@[simp] theorem State.reply_chans (s : State) (p ptype rank core b ref : Nat) (err : Bool) (body : List Byte) : (s.reply p ptype rank core b ref err body).chans = s.chans := by simp [State.reply]
@[simp] theorem State.reply_unitOwner (s : State) (p ptype rank core b ref : Nat) (err : Bool) (body : List Byte) : (s.reply p ptype rank core b ref err body).unitOwner = s.unitOwner := by simp [State.reply]
@[simp] theorem State.reply_segs (s : State) (p ptype rank core b ref : Nat) (err : Bool) (body : List Byte) : (s.reply p ptype rank core b ref err body).segs = s.segs := by simp [State.reply]
@[simp] theorem State.reply_gens (s : State) (p ptype rank core b ref : Nat) (err : Bool) (body : List Byte) : (s.reply p ptype rank core b ref err body).gens = s.gens := by simp [State.reply]
@[simp] theorem State.reply_parts (s : State) (p ptype rank core b ref : Nat) (err : Bool) (body : List Byte) : (s.reply p ptype rank core b ref err body).parts = s.parts := by simp [State.reply]
@[simp] theorem State.reply_tickets (s : State) (p ptype rank core b ref : Nat) (err : Bool) (body : List Byte) : (s.reply p ptype rank core b ref err body).tickets = s.tickets := by simp [State.reply]
@[simp] theorem State.reply_slotTables (s : State) (p ptype rank core b ref : Nat) (err : Bool) (body : List Byte) : (s.reply p ptype rank core b ref err body).slotTables = s.slotTables := by simp [State.reply]
@[simp] theorem State.reply_xfers (s : State) (p ptype rank core b ref : Nat) (err : Bool) (body : List Byte) : (s.reply p ptype rank core b ref err body).xfers = s.xfers := by simp [State.reply]
@[simp] theorem State.reply_sigs (s : State) (p ptype rank core b ref : Nat) (err : Bool) (body : List Byte) : (s.reply p ptype rank core b ref err body).sigs = s.sigs := by simp [State.reply]
@[simp] theorem State.reply_err (s : State) (p ptype rank core b ref : Nat) (err : Bool) (body : List Byte) : (s.reply p ptype rank core b ref err body).err = s.err := by simp [State.reply]
@[simp] theorem State.reply_mgt (s : State) (p ptype rank core b ref : Nat) (err : Bool) (body : List Byte) : (s.reply p ptype rank core b ref err body).mgt = s.mgt := by simp [State.reply]
@[simp] theorem State.reply_nextId (s : State) (p ptype rank core b ref : Nat) (err : Bool) (body : List Byte) : (s.reply p ptype rank core b ref err body).nextId = s.nextId := by simp [State.reply]
@[simp] theorem State.reply_fresh (s : State) (p ptype rank core b ref : Nat) (err : Bool) (body : List Byte) : (s.reply p ptype rank core b ref err body).fresh = s.fresh := by simp [State.reply]
@[simp] theorem State.reply_pending (s : State) (p ptype rank core b ref : Nat) (err : Bool) (body : List Byte) : (s.reply p ptype rank core b ref err body).pending = s.pending := by simp [State.reply]

/-! ### rehome -/

@[simp] theorem State.rehome_fuses (s : State) (p l : Nat) : (s.rehome p l).fuses = s.fuses := by unfold State.rehome; dsimp only; (repeat rw [foldl_proj (π := State.fuses)]) <;> intros <;> simp
@[simp] theorem State.rehome_clk (s : State) (p l : Nat) : (s.rehome p l).clk = s.clk := by unfold State.rehome; dsimp only; (repeat rw [foldl_proj (π := State.clk)]) <;> intros <;> simp
@[simp] theorem State.rehome_cores (s : State) (p l : Nat) : (s.rehome p l).cores = s.cores := by unfold State.rehome; dsimp only; (repeat rw [foldl_proj (π := State.cores)]) <;> intros <;> simp
@[simp] theorem State.rehome_mem (s : State) (p l : Nat) : (s.rehome p l).mem = s.mem := by unfold State.rehome; dsimp only; (repeat rw [foldl_proj (π := State.mem)]) <;> intros <;> simp
@[simp] theorem State.rehome_ecc (s : State) (p l : Nat) : (s.rehome p l).ecc = s.ecc := by unfold State.rehome; dsimp only; (repeat rw [foldl_proj (π := State.ecc)]) <;> intros <;> simp
@[simp] theorem State.rehome_chans (s : State) (p l : Nat) : (s.rehome p l).chans = s.chans := by unfold State.rehome; dsimp only; (repeat rw [foldl_proj (π := State.chans)]) <;> intros <;> simp
@[simp] theorem State.rehome_unitOwner (s : State) (p l : Nat) : (s.rehome p l).unitOwner = s.unitOwner := by unfold State.rehome; dsimp only; (repeat rw [foldl_proj (π := State.unitOwner)]) <;> intros <;> simp
@[simp] theorem State.rehome_segs (s : State) (p l : Nat) : (s.rehome p l).segs = s.segs := by unfold State.rehome; dsimp only; (repeat rw [foldl_proj (π := State.segs)]) <;> intros <;> simp
@[simp] theorem State.rehome_gens (s : State) (p l : Nat) : (s.rehome p l).gens = s.gens := by unfold State.rehome; dsimp only; (repeat rw [foldl_proj (π := State.gens)]) <;> intros <;> simp
@[simp] theorem State.rehome_parts (s : State) (p l : Nat) : (s.rehome p l).parts = s.parts := by unfold State.rehome; dsimp only; (repeat rw [foldl_proj (π := State.parts)]) <;> intros <;> simp
@[simp] theorem State.rehome_tickets (s : State) (p l : Nat) : (s.rehome p l).tickets = s.tickets := by unfold State.rehome; dsimp only; (repeat rw [foldl_proj (π := State.tickets)]) <;> intros <;> simp
@[simp] theorem State.rehome_slotTables (s : State) (p l : Nat) : (s.rehome p l).slotTables = s.slotTables := by unfold State.rehome; dsimp only; (repeat rw [foldl_proj (π := State.slotTables)]) <;> intros <;> simp
@[simp] theorem State.rehome_xfers (s : State) (p l : Nat) : (s.rehome p l).xfers = s.xfers := by unfold State.rehome; dsimp only; (repeat rw [foldl_proj (π := State.xfers)]) <;> intros <;> simp
@[simp] theorem State.rehome_sigs (s : State) (p l : Nat) : (s.rehome p l).sigs = s.sigs := by unfold State.rehome; dsimp only; (repeat rw [foldl_proj (π := State.sigs)]) <;> intros <;> simp
@[simp] theorem State.rehome_err (s : State) (p l : Nat) : (s.rehome p l).err = s.err := by unfold State.rehome; dsimp only; (repeat rw [foldl_proj (π := State.err)]) <;> intros <;> simp
@[simp] theorem State.rehome_mgt (s : State) (p l : Nat) : (s.rehome p l).mgt = s.mgt := by unfold State.rehome; dsimp only; (repeat rw [foldl_proj (π := State.mgt)]) <;> intros <;> simp
@[simp] theorem State.rehome_nextId (s : State) (p l : Nat) : (s.rehome p l).nextId = s.nextId := by unfold State.rehome; dsimp only; (repeat rw [foldl_proj (π := State.nextId)]) <;> intros <;> simp
@[simp] theorem State.rehome_fresh (s : State) (p l : Nat) : (s.rehome p l).fresh = s.fresh := by unfold State.rehome; dsimp only; (repeat rw [foldl_proj (π := State.fresh)]) <;> intros <;> simp
@[simp] theorem State.rehome_pending (s : State) (p l : Nat) : (s.rehome p l).pending = s.pending := by unfold State.rehome; dsimp only; (repeat rw [foldl_proj (π := State.pending)]) <;> intros <;> simp

/-! ### dropPort -/

@[simp] theorem State.dropPort_fuses (s : State) (p : Nat) : (s.dropPort p).fuses = s.fuses := by unfold State.dropPort; dsimp only; rw [foldl_proj (π := State.fuses)] <;> simp
@[simp] theorem State.dropPort_clk (s : State) (p : Nat) : (s.dropPort p).clk = s.clk := by unfold State.dropPort; dsimp only; rw [foldl_proj (π := State.clk)] <;> simp
@[simp] theorem State.dropPort_cores (s : State) (p : Nat) : (s.dropPort p).cores = s.cores := by unfold State.dropPort; dsimp only; rw [foldl_proj (π := State.cores)] <;> simp
@[simp] theorem State.dropPort_mem (s : State) (p : Nat) : (s.dropPort p).mem = s.mem := by unfold State.dropPort; dsimp only; rw [foldl_proj (π := State.mem)] <;> simp
@[simp] theorem State.dropPort_ecc (s : State) (p : Nat) : (s.dropPort p).ecc = s.ecc := by unfold State.dropPort; dsimp only; rw [foldl_proj (π := State.ecc)] <;> simp
@[simp] theorem State.dropPort_chans (s : State) (p : Nat) : (s.dropPort p).chans = s.chans := by unfold State.dropPort; dsimp only; rw [foldl_proj (π := State.chans)] <;> simp
@[simp] theorem State.dropPort_unitOwner (s : State) (p : Nat) : (s.dropPort p).unitOwner = s.unitOwner := by unfold State.dropPort; dsimp only; rw [foldl_proj (π := State.unitOwner)] <;> simp
@[simp] theorem State.dropPort_segs (s : State) (p : Nat) : (s.dropPort p).segs = s.segs := by unfold State.dropPort; dsimp only; rw [foldl_proj (π := State.segs)] <;> simp
@[simp] theorem State.dropPort_gens (s : State) (p : Nat) : (s.dropPort p).gens = s.gens := by unfold State.dropPort; dsimp only; rw [foldl_proj (π := State.gens)] <;> simp
@[simp] theorem State.dropPort_parts (s : State) (p : Nat) : (s.dropPort p).parts = s.parts := by unfold State.dropPort; dsimp only; rw [foldl_proj (π := State.parts)] <;> simp
@[simp] theorem State.dropPort_tickets (s : State) (p : Nat) : (s.dropPort p).tickets = s.tickets := by unfold State.dropPort; dsimp only; rw [foldl_proj (π := State.tickets)] <;> simp
@[simp] theorem State.dropPort_slotTables (s : State) (p : Nat) : (s.dropPort p).slotTables = s.slotTables := by unfold State.dropPort; dsimp only; rw [foldl_proj (π := State.slotTables)] <;> simp
@[simp] theorem State.dropPort_xfers (s : State) (p : Nat) : (s.dropPort p).xfers = s.xfers := by unfold State.dropPort; dsimp only; rw [foldl_proj (π := State.xfers)] <;> simp
@[simp] theorem State.dropPort_sigs (s : State) (p : Nat) : (s.dropPort p).sigs = s.sigs := by unfold State.dropPort; dsimp only; rw [foldl_proj (π := State.sigs)] <;> simp
@[simp] theorem State.dropPort_err (s : State) (p : Nat) : (s.dropPort p).err = s.err := by unfold State.dropPort; dsimp only; rw [foldl_proj (π := State.err)] <;> simp
@[simp] theorem State.dropPort_links (s : State) (p : Nat) : (s.dropPort p).links = s.links := by unfold State.dropPort; dsimp only; rw [foldl_proj (π := State.links)] <;> simp
@[simp] theorem State.dropPort_mgt (s : State) (p : Nat) : (s.dropPort p).mgt = s.mgt := by unfold State.dropPort; dsimp only; rw [foldl_proj (π := State.mgt)] <;> simp
@[simp] theorem State.dropPort_nextId (s : State) (p : Nat) : (s.dropPort p).nextId = s.nextId := by unfold State.dropPort; dsimp only; rw [foldl_proj (π := State.nextId)] <;> simp
@[simp] theorem State.dropPort_fresh (s : State) (p : Nat) : (s.dropPort p).fresh = s.fresh := by unfold State.dropPort; dsimp only; rw [foldl_proj (π := State.fresh)] <;> simp
@[simp] theorem State.dropPort_pending (s : State) (p : Nat) : (s.dropPort p).pending = s.pending := by unfold State.dropPort; dsimp only; rw [foldl_proj (π := State.pending)] <;> simp

/-! ### forceFloor -/

@[simp] theorem State.forceFloor_fuses (s : State) (a b : Nat) : (s.forceFloor a b).fuses = s.fuses := by simp [State.forceFloor]
@[simp] theorem State.forceFloor_cores (s : State) (a b : Nat) : (s.forceFloor a b).cores = s.cores := by simp [State.forceFloor]
@[simp] theorem State.forceFloor_mem (s : State) (a b : Nat) : (s.forceFloor a b).mem = s.mem := by simp [State.forceFloor]
@[simp] theorem State.forceFloor_ecc (s : State) (a b : Nat) : (s.forceFloor a b).ecc = s.ecc := by simp [State.forceFloor]
@[simp] theorem State.forceFloor_chans (s : State) (a b : Nat) : (s.forceFloor a b).chans = s.chans := by simp [State.forceFloor]
@[simp] theorem State.forceFloor_unitOwner (s : State) (a b : Nat) : (s.forceFloor a b).unitOwner = s.unitOwner := by simp [State.forceFloor]
@[simp] theorem State.forceFloor_segs (s : State) (a b : Nat) : (s.forceFloor a b).segs = s.segs := by simp [State.forceFloor]
@[simp] theorem State.forceFloor_gens (s : State) (a b : Nat) : (s.forceFloor a b).gens = s.gens := by simp [State.forceFloor]
@[simp] theorem State.forceFloor_parts (s : State) (a b : Nat) : (s.forceFloor a b).parts = s.parts := by simp [State.forceFloor]
@[simp] theorem State.forceFloor_tickets (s : State) (a b : Nat) : (s.forceFloor a b).tickets = s.tickets := by simp [State.forceFloor]
@[simp] theorem State.forceFloor_slotTables (s : State) (a b : Nat) : (s.forceFloor a b).slotTables = s.slotTables := by simp [State.forceFloor]
@[simp] theorem State.forceFloor_xfers (s : State) (a b : Nat) : (s.forceFloor a b).xfers = s.xfers := by simp [State.forceFloor]
@[simp] theorem State.forceFloor_sigs (s : State) (a b : Nat) : (s.forceFloor a b).sigs = s.sigs := by simp [State.forceFloor]
@[simp] theorem State.forceFloor_err (s : State) (a b : Nat) : (s.forceFloor a b).err = s.err := by simp [State.forceFloor]
@[simp] theorem State.forceFloor_links (s : State) (a b : Nat) : (s.forceFloor a b).links = s.links := by simp [State.forceFloor]
@[simp] theorem State.forceFloor_nextId (s : State) (a b : Nat) : (s.forceFloor a b).nextId = s.nextId := by simp [State.forceFloor]
@[simp] theorem State.forceFloor_fresh (s : State) (a b : Nat) : (s.forceFloor a b).fresh = s.fresh := by simp [State.forceFloor]
@[simp] theorem State.forceFloor_pending (s : State) (a b : Nat) : (s.forceFloor a b).pending = s.pending := by simp [State.forceFloor]

/-! ### logFallback -/

@[simp] theorem State.logFallback_fuses (s : State) : (s.logFallback).fuses = s.fuses := by unfold State.logFallback; split <;> simp
@[simp] theorem State.logFallback_clk (s : State) : (s.logFallback).clk = s.clk := by unfold State.logFallback; split <;> simp
@[simp] theorem State.logFallback_cores (s : State) : (s.logFallback).cores = s.cores := by unfold State.logFallback; split <;> simp
@[simp] theorem State.logFallback_ecc (s : State) : (s.logFallback).ecc = s.ecc := by unfold State.logFallback; split <;> simp
@[simp] theorem State.logFallback_chans (s : State) : (s.logFallback).chans = s.chans := by unfold State.logFallback; split <;> simp
@[simp] theorem State.logFallback_unitOwner (s : State) : (s.logFallback).unitOwner = s.unitOwner := by unfold State.logFallback; split <;> simp
@[simp] theorem State.logFallback_segs (s : State) : (s.logFallback).segs = s.segs := by unfold State.logFallback; split <;> simp
@[simp] theorem State.logFallback_gens (s : State) : (s.logFallback).gens = s.gens := by unfold State.logFallback; split <;> simp
@[simp] theorem State.logFallback_tickets (s : State) : (s.logFallback).tickets = s.tickets := by unfold State.logFallback; split <;> simp
@[simp] theorem State.logFallback_slotTables (s : State) : (s.logFallback).slotTables = s.slotTables := by unfold State.logFallback; split <;> simp
@[simp] theorem State.logFallback_xfers (s : State) : (s.logFallback).xfers = s.xfers := by unfold State.logFallback; split <;> simp
@[simp] theorem State.logFallback_sigs (s : State) : (s.logFallback).sigs = s.sigs := by unfold State.logFallback; split <;> simp
@[simp] theorem State.logFallback_host (s : State) : (s.logFallback).host = s.host := by unfold State.logFallback; split <;> simp
@[simp] theorem State.logFallback_links (s : State) : (s.logFallback).links = s.links := by unfold State.logFallback; split <;> simp
@[simp] theorem State.logFallback_nextId (s : State) : (s.logFallback).nextId = s.nextId := by unfold State.logFallback; split <;> simp
@[simp] theorem State.logFallback_pending (s : State) : (s.logFallback).pending = s.pending := by unfold State.logFallback; split <;> simp

end Sys2Proof.Machine
end

