-- ==== Sys2Proof/WellFormed.lean ====
section
/-!
DEFINITION. Sys2Proof/WellFormed.lean: which operands a command can carry: an operand lies in the range that the spec gives the thing it
names, and a frame, packet or flit has the widths of its fields.
-/
namespace Sys2Proof

/-- A ZCP frame as it can arrive (spec/15 R365): the header's fields at their widths; the SEND's bytes are the 32 of the header and the
fields; at most 4,096 bytes. -/
def CmdHdr.wf (h : CmdHdr) (body : List Byte) : Bool :=
  h.sendLen == 32 + body.length && decide (h.sendLen ≤ 4096) && decide (h.version < 2 ^ 8) && decide (h.kind < 2 ^ 8)
    && decide (h.scope < 2 ^ 8) && decide (h.flags < 2 ^ 8) && decide (h.status < 2 ^ 16) && decide (h.length < 2 ^ 32)
    && decide (h.reserved < 2 ^ 32) && decide (h.seq < 2 ^ 64) && decide (h.stamp < 2 ^ 64)

/-- Symbol errors of a unit (spec/11 R271, R272): a unit of the module's memory, at least one symbol, and a unit's bytes. -/
def EccErr.wf (e : EccErr) : Bool := decide (e.unit < 2 ^ 38) && decide (1 ≤ e.symbols) && e.wrong.length == 64

/-- A reading of a sensor of the table of spec/18 R433. -/
def Reading.wf (r : Reading) : Bool := decide (r.sensor < 135)

/-- The tag plane of a write to another member: a format's code, block lengths, addresses of tag bytes. -/
def TagSide.wf (t : TagSide) : Bool :=
  decide (t.fmt < 16) && t.blocks.all fun b => decide (b.1 < 4096) && decide (b.2.1 ≤ 64) && decide (b.2.2 < 2 ^ 44)

/-- A flit (spec/16 R394): fields at their widths, 244 bytes of payload. -/
def Flit.wf (f : Flit) : Bool :=
  decide (f.vc < 4) && decide (f.cls < 2) && decide (f.ty < 4) && decide (f.fseq < 4096) && decide (f.ackseq < 4096)
    && decide (f.crvc < 4) && decide (f.crcls < 2) && decide (f.crcnt < 256) && decide (f.valid ≤ 244) && f.payload.length == 244
    && decide (f.crc < 2 ^ 32) && (match f.side with | none => true | some t => t.wf)

/-- The identity that a link's far end gives (spec/16 R399, R403). -/
def PeerId.wf (p : PeerId) : Bool :=
  p.serial.length == 12 && decide (p.link < 8) && decide (p.rank < 2 ^ 13) && decide (p.cascadeId < 2 ^ 64) && decide (p.twinId < 2 ^ 64)
    && decide (p.dimX < 2 ^ 8) && decide (p.dimY < 2 ^ 8) && decide (p.dimZ < 2 ^ 8)

/-- A cascade packet (spec/16 R398): its fields at their widths, and at most 4,128 bytes of body. -/
def Packet.wf (k : Packet) : Bool :=
  decide (k.ptype < 2 ^ 8) && decide (k.flags < 2 ^ 8) && decide (k.dstRank < 2 ^ 13) && decide (k.srcRank < 2 ^ 13)
    && decide (k.dstCore < 2 ^ 9) && decide (k.srcCore < 2 ^ 9) && decide (k.ref < 2 ^ 32) && decide (k.body.length ≤ 4128)
    && (match k.side with | none => true | some t => t.wf)

/-- A core's global index (spec/00 R5). -/
def coreWf (c : Nat) : Bool := decide (c < 288)

/-- A channel of a stack (spec/01 R27). -/
def chanWf (stack channel : Nat) : Bool := decide (stack < 20) && decide (channel < 32)

/-- A unit that can be hedged (spec/15 R373). -/
def unitWf (domain index : Nat) : Bool :=
  match domain with
  | 0 => decide (index < 288) | 1 => decide (index < 16) | 2 => decide (index < 4) | 3 => decide (index < 640)
  | 4 => decide (index < 64) | 5 => decide (index < 8) | _ => false

/-- Is a command's every operand in the range the spec gives it? -/
def Instr.wf : Instr → Bool
  | .matmul c | .matvec c | .attendMaxPhase c | .attendSumPhase c | .rowsum c | .rowsq c | .stockSend c | .stockStore c | .stockAdd c
  | .drain c | .whisk c | .layout c | .convert c | .random c | .tagfill c | .load c | .store c | .gather c | .scatter c | .send c
  | .ticketClaim c | .ticketRead c | .loadprog c | .wait c | .signalPlain c | .signalOpen c | .signalClose c | .loop c | .halt c
  | .illegalOp c | .waitTimeout c | .opCompletionPoint c | .haltDrainComplete c | .cfHaltDrain c | .transferLaunch c
  | .microModeExit c | .abort c | .microTimeLimit c | .add c | .sub c | .and c | .or c | .xor c | .shl c | .shr c | .sar c | .mul c
  | .mulhu c | .slt c | .sltu c | .addi c | .andi c | .ori c | .xori c | .shli c | .shri c | .lui c | .ld c | .lw c | .sd c | .sw c
  | .beq c | .bne c | .blt c | .bltu c | .jal c | .jr c | .msys c | .mhalt c | .vld c | .vst c | .vop c | .vext c | .vins c | .mopen c
  | .mwld c | .mswap c | .mrow c | .mrd c | .mrdx c | .illegalInstruction c => coreWf c
  | .lgLateCompletion c tag => coreWf c && decide (tag < 256)
  | .microModeEnter c _ entry | .go c _ entry => coreWf c && decide (entry < 2 ^ 19)
  | .transferAcknowledgement _ | .negativeAcknowledgement _ | .inboundCommit _ | .remoteWriteHeader _ | .memoryWindowWrite _
  | .attachedIncrementForward _ | .stockWordRowArrival _ | .signalMessage _ | .portFifoMessage _ | .ringMessage _ | .remoteRead _
  | .ticketRequest _ | .rdmaWriteAck _ | .errorRecordArrival _ | .dreq _ => true
  | .staticSlotMismatch _ router output input slot =>
    decide (router < 288) && decide (output < 5) && decide (input < 8) && decide (slot < 64)
  | .stackAccess _ errs | .patrolScrub _ errs => errs.all EccErr.wf
  | .refresh k c | .reqOffSet k c | .reqOffClear k c | .channelClosed k c | .channelOpened k c | .chanPowerDone k c
  | .persistenceCheckEnd k c => chanWf k c
  | .disturbRefresh k c _ => chanWf k c
  | .runStart p | .runEnd p | .runClose p | .partDestroyDone p | .twinDigestSend p => decide (p < 8)
  | .memFreeDone p k => decide (p < 8) && decide (k < 64)
  | .windowCloseComplete p w => decide (p < 8) && decide (w < 256)
  | .progLoadDone p h => decide (p < 8) && decide (h < 16)
  | .identify _ h b | .partCreate _ h b | .partDestroy _ h b | .partSetQuota _ h b | .memAlloc _ h b | .memFree _ h b | .chanPower _ h b
  | .windowOpen _ h b | .windowOpenHandle _ h b | .windowClose _ h b | .progLoad _ h b | .progUnload _ h b | .run _ h b
  | .runStatus _ h b | .runAbort _ h b | .logRead _ h b | .traceRead _ h b | .sensorRead _ h b | .fenceQuery _ h b | .unfence _ h b
  | .powerLimitSet _ h b | .stepCapSet _ h b | .cascadeJoin _ h b | .cascadeLeave _ h b | .attest _ h b | .fwStage _ h b
  | .fwStageRestart _ h b | .fwStageLast _ h b | .fwActivate _ h b => h.wf b
  | .zeUnknownCmd _ opcode h b => decide (opcode < 2 ^ 16) && h.wf b
  | .returnProcedureDone d i _ => unitWf d i
  | .qpConnectRequest port scope ⟨kind, mtu⟩ =>
    decide (port < 9) && decide (scope < 256) && decide (kind < 256) && (mtu == 1024 || mtu == 2048 || mtu == 4096)
  | .rdmaWrite _ va rkey _ rx | .rdmaRead _ va rkey _ rx => decide (va < 2 ^ 64) && decide (rkey < 2 ^ 32) && rx.errs.all EccErr.wf
  | .unsupportedFrame port | .congestionNotificationPacket port | .networkLayerFrame port _ => decide (port < 9)
  | .pcsLockLost port | .lgPortDown port | .pcsRelock port => decide (port < 8)
  | .coreError c struct addr => coreWf c && decide (1 ≤ struct) && decide (struct ≤ 5) && decide (addr < 2 ^ 32)
  | .bridgeSlip die boundary plane column => decide (die < 4) && decide (boundary < 3) && decide (plane < 2) && decide (column < 9)
  | .firmwareStepEvaluation rs ms _ => rs.all Reading.wf && ms.all fun m => decide (m.1 < 16) && decide (m.2 < 256)
  | .marginWarn r m | .marginAlarm r m | .lgRegionFail r m => decide (r < 16) && decide (m < 256)
  | .replicaThresholdWrite r w a => decide (r < 16) && decide (w < 256) && decide (a < 256)
  | .thermalTrip k _ | .lgOvertemp k _ => decide (k < 64)
  | .lgCoolingLost k => decide (k < 135)
  | .timeStep d => decide (-(2 ^ 63) ≤ d) && decide (d < 2 ^ 63)
  | .sidebandChatterEntry i | .sidebandChatterExit i _ => decide (i.pin < 3)
  | .lgSidebandChatter i => decide (i < 3)
  | .keyChange k => decide (k < 8)
  | .kitRecordRead kind serial => decide (kind < 8) && decide (serial < 2 ^ 128)
  | .bootRom k => decide (k < 64)
  | .controllerReady rs key kind serial => rs.all Reading.wf && decide (key.code < 8) && decide (kind < 8) && decide (serial < 2 ^ 128)
  | .builtInTestDone cs rs ds => cs.all coreWf && rs.all (fun r => decide (r < 16)) && ds.all fun d => decide (d < 4)
  | .stackTrainingDone ks => ks.all fun k => decide (k < 20)
  | .linkTrainingDone r => r.failed.all (fun l => decide (l < 64)) && r.cables.all fun c => decide (c.connector < 8) && decide (c.kind < 3)
  | .portTrainingDone es => es.all fun e => decide (e < 8)
  | .thermalTripClear rs => rs.all Reading.wf
  | .page (some v) _ => decide (v < 256)
  | .pmbusUnsupportedCommand code _ => decide (code < 256)
  | .dataFlit l f => decide (l < 64) && f.wf && f.ty == 0
  | .idleFlit l f => decide (l < 64) && f.wf && f.ty == 1
  | .replayRequest l f => decide (l < 64) && f.wf && f.ty == 2
  | .fecLockLost l | .flitTimeout l | .linkTrainOverrun l => decide (l < 64)
  | .linkTrainStep l peer => decide (l < 64) && peer.wf
  | .cascadePacket l k => decide (l < 64) && k.wf
  | .beatArrival rank stamp succ _ => decide (rank < 2 ^ 13) && decide (stamp.value < 10 * 2 ^ 64) && decide (stamp.link < 64) && decide (succ.length ≤ 4)
  | .neighbourLost d => decide (d < 6)
  | .memberLossReport r => decide (r.rank < 2 ^ 13) && decide (r.stamp < 2 ^ 64)
  | .twinDigestArrival _ outcome ds => decide (outcome < 256) && ds.all fun d => d.length == 32
  | .registerWrite a v => decide (a < 2 ^ 44) && decide (v < 2 ^ 64)
  | .tokenRefill | .cascadeComplete | .cascadeJoinTimeout | .fwDeltaVerified | .fwActivateFailback | .errorRecordHandling | .lgLogLost
  | .glideStep | .powerGuard _ | .alarmHoldExpiry | .timeSlew _ | .ppsEdge _ | .lgRefLost | .referenceRestored | .rstNAssert
  | .rstNRelease | .lgResetHeld | .throttleNAssert | .throttleNRelease | .lgThrottle | .presentNChange _ | .lgKitMismatch
  | .coolingRestored | .inputValid _ | .bulkUndervoltage _ | .inputOvervoltage _ | .inputThresholdCrossing _ | .inputBreaker _
  | .hubUp _ | .moduleReady | .lockstepMismatch | .lgMgtRestart _ | .page none _ | .clearFaults _ | .capability _ | .statusByte _
  | .statusWord _ | .statusInput _ | .statusTemperature _ | .statusCml _ | .statusMfrSpecific _ | .readVin _ | .readIin _
  | .readTemperature1 _ | .readTemperature2 _ | .readTemperature3 _ | .readPin _ | .pmbusRevision _ | .mfrId _ | .mfrModel _
  | .mfrRevision _ | .mfrSerial _ | .mfrModuleState _ | .alertResponse | .masterBeat | .beatTimeout | .twinPartnerTimeout
  | .fwActivateDone => true

end Sys2Proof
end

