-- ==== Sys2Proof/Tests/Slice0.lean ====
section
/-!
SUPPORT. Sys2Proof/Tests/Slice0.lean: ill-formed operands are refused; and, for each statement that has hypotheses, concrete states and
operands that meet them (`witness_…`, one for each clause), with a few values worked by hand from spec/ (`test_…`).
-/
namespace Sys2Proof.Tests
set_option Elab.async false
open Sys2Proof.Machine

/-! ## Well-formed commands -/

/-- A ZCP header with a body of `n` bytes. -/
def hdr (n : Nat) (scope : Nat := 255) (seq : Nat := 1) : CmdHdr :=
  { sendLen := 32 + n, version := 1, kind := 0, scope := scope, flags := 0, status := 0, length := n, reserved := 0, seq := seq, stamp := 0 }

/-- A flit. -/
def flit (ty fseq : Nat) : Flit :=
  { vc := 0, cls := 0, ty := ty, sop := true, eop := true, fseq := fseq, ackseq := 4095, crvc := 0, crcls := 0, crcnt := 0, valid := 0,
    payload := List.replicate 244 0, crc := 0, fecOk := true, corr := 0 }

/-- The far end of a link. -/
def peer : PeerId :=
  { serial := List.replicate 12 48, link := 0, cascadeId := 1, rank := 1, dimX := 2, dimY := 1, dimZ := 1, twinId := 0 }

/-- A cascade packet for a rank. -/
def packet (ptype dst : Nat) : Packet :=
  { ptype := ptype, flags := 0, dstRank := dst, srcRank := 1, dstCore := 0, srcCore := 0, ref := 0, body := [] }

theorem test_wf_accepts : (Instr.matmul 0).wf = true ∧ (Instr.identify 0 (hdr 0) []).wf = true ∧ (Instr.idleFlit 0 (flit 1 0)).wf = true ∧
    (Instr.linkTrainStep 0 peer).wf = true ∧ (Instr.cascadePacket 0 (packet 6 0)).wf = true := by decide +kernel
theorem test_wf_core : (Instr.matmul 288).wf = false := by decide +kernel
theorem test_wf_tag : (Instr.lgLateCompletion 0 256).wf = false := by decide +kernel
theorem test_wf_entry : (Instr.go 0 true (2 ^ 19)).wf = false := by decide +kernel
theorem test_wf_router : (Instr.staticSlotMismatch 0 288 0 0 0).wf = false := by decide +kernel
theorem test_wf_ecc : (Instr.patrolScrub 0 [⟨0, 0, []⟩]).wf = false := by decide +kernel
theorem test_wf_channel : (Instr.refresh 20 0).wf = false := by decide +kernel
theorem test_wf_window : (Instr.windowCloseComplete 0 256).wf = false := by decide +kernel
theorem test_wf_header : (Instr.identify 0 { hdr 0 with sendLen := 31 } []).wf = false := by decide +kernel
theorem test_wf_unit : (Instr.returnProcedureDone 6 0 true).wf = false := by decide +kernel
theorem test_wf_port : (Instr.unsupportedFrame 9).wf = false := by decide +kernel
theorem test_wf_structure : (Instr.coreError 0 6 0).wf = false := by decide +kernel
theorem test_wf_bridge : (Instr.bridgeSlip 0 3 0 0).wf = false := by decide +kernel
theorem test_wf_reading : (Instr.thermalTripClear [⟨135, 0⟩]).wf = false := by decide +kernel
theorem test_wf_time : (Instr.timeStep (2 ^ 63)).wf = false := by decide +kernel
theorem test_wf_flit : (Instr.dataFlit 0 (flit 0 4096)).wf = false := by decide +kernel
theorem test_wf_flit_type : (Instr.idleFlit 0 (flit 0 0)).wf = false := by decide +kernel
theorem test_wf_peer : (Instr.linkTrainStep 0 { peer with link := 8 }).wf = false := by decide +kernel
theorem test_wf_packet : (Instr.cascadePacket 0 (packet 256 0)).wf = false := by decide +kernel
theorem test_wf_succession : (Instr.beatArrival 0 ⟨0, 0⟩ [1, 2, 3, 4, 5] 0).wf = false := by decide +kernel
theorem test_wf_beat_link : (Instr.beatArrival 0 ⟨0, 64⟩ [] 0).wf = false := by decide +kernel
theorem test_wf_rank : (Instr.memberLossReport ⟨2 ^ 13, 0⟩).wf = false := by decide +kernel
theorem test_wf_tags : (Instr.cascadePacket 0 { packet 0 0 with side := some ⟨16, []⟩ }).wf = false := by decide +kernel
theorem test_wf_input : (Instr.sidebandChatterEntry ⟨3, []⟩).wf = false := by decide +kernel
theorem test_wf_cable : (Instr.linkTrainingDone ⟨[], [⟨8, 0, true⟩]⟩).wf = false := by decide +kernel
theorem test_wf_register : (Instr.registerWrite (2 ^ 44) 0).wf = false := by decide +kernel

/-! ## A module in service -/

/-- The module in PHASE 7 at a stamp, with every region in partition 0, whose run has started. -/
def up : State :=
  { State.reset with
    clk := { now := 20000000000, ns := 20000000000, edgeAt := 20000000000, cycles := 1000, present := 24, fwStep := 24 }
    mgt := { moduleOn := true, booted := true, phase := 7 }
    host := { qps := [⟨1, 0, 255, 0, 4096⟩, ⟨2, 0, 0, 0, 4096⟩, ⟨3, 0, 0, 1, 4096⟩, ⟨4, 8, 255, 0, 1024⟩], nextQ := 5, locked := 255 }
    segs := [(0, { limit := 255, v := true, rd := true, wr := true, pl := true, units := true })]
    parts := [(0, { exist := true, regions := 0xFFFF, wtCount := 4, memQuota := 960, run := { present := true, started := true, state := 1, cores := [0] } })] }

/-- The module with a core 0. -/
def withCore (k : Core) : State := up.setCore 0 k

/-! ## Issue -/

/-- A tensor descriptor of spec/10 R245, written field by field. -/
def desc (part fmt : Nat) (ext stride : List Nat) (base : Nat) (tag : Option Nat := none) (bind : List Nat := []) : List Byte :=
  let pad (n : Nat) (l : List Nat) := (l ++ List.replicate 6 0).take n
  toLE 8 (part + 4 * fmt + 128 * ext.length + if tag.isSome then 1024 else 0) ++ toLE 8 base ++ toLE 8 (tag.getD 0) ++ toLE 8 0
    ++ (pad 6 ext).flatMap (toLE 4) ++ (pad 6 bind).flatMap (toLE 4) ++ (pad 5 stride).flatMap (toLE 6) ++ List.replicate 18 0

/-- A macro-op of spec/06 R146 without waits and signals. -/
def opBytes (opc var dur opnd : Nat) (drefs : List Nat) : List Byte :=
  toLE 4 (opc + 2 ^ 8 * var + 2 ^ 20 * drefs.length) ++ toLE 4 dur ++ List.replicate 32 0
    ++ ((drefs ++ [0, 0, 0, 0]).take 4).flatMap (toLE 2) ++ toLE 16 opnd

/-- A core whose next op and descriptors are given. -/
def station (op : List Byte) (ds : List (List Byte)) : Core :=
  { running := true, due := 1000, pstore := Memory.write [] 0 op, pvalid := 1, dtable := Memory.write [] 0 ds.flatten, dvalid := 1 }

/-- The next state of core 0 with an op, its descriptors, and a change to the core. -/
def bench (opc var opnd : Nat) (ds : List (List Byte)) (g : Core → Core := id) : State :=
  withCore (g (station (opBytes opc var 16 opnd ((List.range ds.length).map (2 * ·))) ds))

/-- The op issues on core 0. -/
def issuesOp (opc var opnd : Nat) (ds : List (List Byte)) (g : Core → Core := id) : Bool := (bench opc var opnd ds g).issues 0 opc

/-- A core whose row 0 is open, with a route and a handle. -/
def ready (k : Core) : Core :=
  { k with rows := [(0, { isOpen := true, fmt := 8 })], handles := [(0, { v := true })],
           routes := [(0, { tag := 1, v := true, plane := 1, kind := 1, core := 1 })] }

/-- A whisk block of one step at 4,096 of the scratchpad (spec/05 R143): T := X0 + X0; `flags` are further bits of its header. -/
def whiskBlock (k : Core) (flags : Nat := 0) : Core :=
  { k with scratch := Memory.write (Memory.write [] 4096 (toLE 4 (1 + 64 + flags))) 4160 (toLE 4 (1 + 8 * 2 ^ 9 + 8 * 2 ^ 14)) }

theorem witness_OpsIssue_matmul :
    issuesOp 0x01 1 (2 ^ 10 + 2 ^ 21 + 64 * 2 ^ 53 + 64 * 2 ^ 77) [desc 0 8 [64] [] 0, desc 0 8 [1, 64] [1] 4096] = true := by
  decide +kernel
theorem witness_OpsIssue_matvec :
    issuesOp 0x02 1 (2 ^ 10 + 2 ^ 14 + 64 * 2 ^ 62 + 64 * 2 ^ 86) [desc 0 8 [1, 64] [1] 4096] = true := by decide +kernel
theorem witness_OpsIssue_attend : let ds := [desc 0 4 [64] [] 0, desc 0 4 [1, 64] [64] 4096, desc 0 4 [1, 128] [128] 8192 (some 16384),
      desc 0 0 [256] [] 20480]
    issuesOp 0x03 2 (2 ^ 10 + 2 ^ 18 + 64 * 2 ^ 112) ds = true ∧ issuesOp 0x03 3 (2 ^ 10 + 2 ^ 18 + 64 * 2 ^ 112) ds = true := by decide +kernel
theorem witness_OpsIssue_rows :
    issuesOp 0x04 8 (2 ^ 10 + 64 * 2 ^ 28) [desc 0 8 [64] [] 0] = true ∧ issuesOp 0x04 9 (2 ^ 10 + 64 * 2 ^ 28) [desc 0 8 [64] [] 0] = true := by
  decide +kernel
theorem witness_OpsIssue_stock :
    issuesOp 0x04 2 (2 ^ 10 + 2 ^ 28) [] ready = true ∧ issuesOp 0x04 3 (2 ^ 10) [desc 0 8 [2560] [] 0] ready = true ∧
    issuesOp 0x04 4 (2 ^ 10) [desc 0 8 [2560] [] 0] ready = true := by decide +kernel
theorem witness_OpsIssue_drain : issuesOp 0x05 0 (2 ^ 10 + 128 * 2 ^ 21) [desc 0 0 [128] [] 0] ready = true := by decide +kernel
theorem witness_OpsIssue_whisk : issuesOp 0x10 0 4096 [desc 0 0 [64] [] 0, desc 0 0 [64] [] 1024] (whiskBlock ·) = true := by decide +kernel
theorem witness_OpsIssue_layout : issuesOp 0x11 0 40 [desc 0 8 [64] [] 0, desc 0 8 [64] [] 1024] = true := by decide +kernel
theorem witness_OpsIssue_convert : issuesOp 0x12 0 0 [desc 0 0 [64] [] 0, desc 0 1 [64] [] 1024] = true := by decide +kernel
theorem witness_OpsIssue_random : issuesOp 0x13 0 10 [desc 0 10 [64] [] 0] = true := by decide +kernel
theorem witness_OpsIssue_tagfill : issuesOp 0x14 0 0 [desc 0 0 [64] [] 0 (some 1024)] = true := by decide +kernel
theorem witness_OpsIssue_load : issuesOp 0x20 0 0 [desc 1 0 [64] [] 0, desc 0 0 [64] [] 0] = true := by decide +kernel
theorem witness_OpsIssue_store : issuesOp 0x21 0 0 [desc 0 0 [64] [] 0, desc 1 0 [64] [] 0] = true := by decide +kernel
theorem witness_OpsIssue_gather : issuesOp 0x22 0 0 [desc 1 0 [64] [] 0, desc 0 10 [4] [] 0, desc 0 0 [4] [] 512] = true := by decide +kernel
theorem witness_OpsIssue_scatter : issuesOp 0x23 0 0 [desc 0 0 [4] [] 512, desc 0 10 [4] [] 0, desc 1 0 [64] [] 0] = true := by decide +kernel
theorem witness_OpsIssue_send : issuesOp 0x24 0 (1 + 32 * 2 ^ 16) [desc 0 8 [64] [] 0] ready = true := by decide +kernel
theorem witness_OpsIssue_ticket : issuesOp 0x25 0 (2 ^ 8) [] = true ∧ issuesOp 0x25 1 0 [] = true := by decide +kernel
theorem witness_OpsIssue_loadprog : issuesOp 0x26 0 (1 + 2 ^ 7) [desc 1 8 [4096] [] 0] = true := by decide +kernel
theorem witness_OpsIssue_control :
    issuesOp 0x30 0 0 [] = true ∧ issuesOp 0x31 0 0 [] = true ∧ issuesOp 0x31 1 (64 + 5 * 2 ^ 8) [] = true ∧
    issuesOp 0x31 2 64 [] (fun k => { k with cnts := [(0, { value := 5, isOpen := true, ceil := 5 })] }) = true ∧
    issuesOp 0x32 0 (2 + 2 ^ 24) [] = true ∧ issuesOp 0x3F 0 0 [] = true := by decide +kernel

theorem witness_OpsIssue_wait : let s := bench 0x30 0 0 []
    s.issues 0 0x30 = true ∧ (s.core 0).nextOp.sigs = [] ∧ (s.core 0).nextOp.trace = false := by decide +kernel

theorem witness_NoIssue : let s (k : Core) := withCore { k with running := true }
    (s { due := 1001 }).issuing 0 = true ∧ (s { due := 1001 }).cyc < ((s { due := 1001 }).core 0).due ∧
    (s { tried := 1001 }).issuing 0 = true ∧ ((s { tried := 1001 }).core 0).tried = (s {}).cyc + 1 ∧
    ({ s {} with err := { up.err with hedges := [⟨0, 0, 1, 0, {}, none⟩] } } : State).coreHedged 0 = true ∧
    ((s { micro := { on := true } }).core 0).micro.on = true ∧
    ({ s {} with err := { up.err with slipped := 1 } } : State).slipped ((s {}).dieOf 0) = true := by decide +kernel

/-- An op that waits for counter 0 to reach 5, with a timeout of 1 µs. -/
def waiting : List Byte :=
  toLE 4 (0x30 + 2 ^ 16) ++ toLE 4 16 ++ toLE 8 (5 * 2 ^ 8 + 2 ^ 32) ++ List.replicate 48 0

theorem witness_IllegalOpIsSkipped : let s := bench 0xFF 0 0 []
    let h := withCore { station waiting [] with illDue := true, cnts := [(0, { isOpen := true, ceil := 5 })] }
    s.dueIllegal 0 1 = true ∧ (s.core 0).illCount + 1 < 2 ^ 32 ∧
    h.offered 0 = true ∧ (h.core 0).blockValid (h.core 0).next = true ∧ (h.core 0).illDue = true ∧
    ((h.look 0).core 0).waits (h.core 0).nextOp h.cyc h.coreNow = .held := by decide +kernel

theorem witness_IncrementAtCounter : let s (x : Counter) := withCore { running := true, cnts := [(0, x)] }
    let a := s { isOpen := true, value := 2, ceil := 5 }
    a.runOf 0 = some 0 ∧ (a.core 0).ringOf 0 = none ∧ ((a.core 0).cnt 0).isOpen = true ∧ ((a.core 0).cnt 0).value + 3 ≤ ((a.core 0).cnt 0).ceil ∧
    ((a.core 0).cnt 0).ceil < ((a.core 0).cnt 0).value + 4 ∧ (a.core 0).running = true ∧ (((s {}).core 0).cnt 0).isOpen = false ∧
    ((a.core 0).cnt 0).barred ≠ a.cyc + 1 ∧ (((s { barred := 1001 }).core 0).cnt 0).barred = a.cyc + 1 := by
  decide +kernel

/-- An increment at the ceiling is counted; one more faults the core (spec/12 R299). -/
theorem test_increment : let s := withCore { running := true, cnts := [(0, { isOpen := true, value := 2, ceil := 5 })] }
    let a := s.increment 0 0 3 none ⟨1, 0, 7⟩
    ((a.core 0).cnt 0).value = 5 ∧ (a.core 0).faulted = false ∧ ((a.increment 0 0 1 none ⟨1, 0, 7⟩).core 0).faulted = true := by decide +kernel

theorem witness_StationEvents_timeout :
    let s := withCore { station waiting [] with dueStamp := some 0, cnts := [(0, { isOpen := true, ceil := 5 })] }
    s.offered 0 = true ∧ (s.core 0).blockValid (s.core 0).next = true ∧ ((s.core 0).expired (s.core 0).nextOp s.coreNow).isSome = true ∧
    (s.core 0).nextOp.waits.findSome? ((s.core 0).waitFault (s.core 0).nextOp.addr) = none ∧
    (legality (planFor (s.core 0).nextOp) (s.look 0) 0 (s.core 0).nextOp).isOk = true := by decide +kernel
theorem witness_StationEvents_complete : let s (g : List Sig) := withCore { pend := [⟨1, 0, false, some 900, 0, g, none⟩] }
    ((s []).core 0).complete (s []).cyc = some ⟨1, 0, false, some 900, 0, [], none⟩ ∧ (s []).clk.settled ≠ (s []).cyc + 1 ∧
    ((s []).core 0).micro.on = false ∧ (⟨3, false, false, 0, 1⟩ : Sig).remote = false ∧
    ((s [⟨3, false, false, 0, 1⟩]).core 0).complete (s []).cyc = some ⟨1, 0, false, some 900, 0, [⟨3, false, false, 0, 1⟩], none⟩ := by
  decide +kernel
theorem witness_StationEvents_drained : let s := withCore { halting := some (0, 9), pvalid := 1 }
    (s.core 0).halting = some (0, 9) ∧ s.drained 0 = true ∧ (s.core 0).haltFault 9 = none ∧ (s.core 0).haltSigs = [] := by decide +kernel
theorem witness_StationEvents_stuck : let s := withCore { halting := some (0, 9), sieve := [(0, { v := true, len := 1 })] }
    (s.core 0).halting = some (0, 9) ∧ s.haltOver (0, 9) = true ∧ 0 + 2000000000 ≤ s.coreNow ∧ s.drained 0 = false := by decide +kernel

/-- The module with a core 0 and one transfer. -/
def withX (x : Xfer) (k : Core := {}) : State := { withCore k with xfers := [x] }

theorem witness_StationEvents_late :
    (withX { id := 1, late := some 3 }).xfers.find? (fun x => x.core == 0 && !x.foreign && x.late == some 3) =
      some { id := 1, late := some 3 } := by decide +kernel

/-! ## Ops of the row -/

/-- No product breaches in exact mode. -/
theorem witness_keepsAnchor (x : Elem) (ks : List Nat) (a b : Nat → Dec × Arith) : keepsAnchor .exact x ks a b := fun _ _ => rfl

/-- The tensors that the op of core 0 names satisfy a test. -/
def namesOk (s : State) (n : Nat) (wr : List Nat) (p : Core → Op → List Desc → Bool) : Bool :=
  match (s.core 0).refs (s.core 0).nextOp n wr with
  | .ok ds => (s.dueIssue 0).isSome && ds.length == n && p (s.core 0) (s.core 0).nextOp ds
  | .error _ => false

/-- The n-th tensor of a list. -/
def nth (ds : List Desc) (n : Nat) : Desc := ds.getD n planMatmul.default_desc

/-- The planes of a tensor share no byte. -/
def apart (d : Desc) : Bool := decide (d.hulls.Pairwise fun x y => overlap x y = false)

theorem witness_MatmulSums :
    let s (bind : List Nat) := bench 0x01 1 (2 ^ 10 + 2 ^ 21 + 64 * 2 ^ 53 + 64 * 2 ^ 77) [desc 0 8 [64] [] 0 none bind, desc 0 8 [1, 64] [1] 4096]
    let live (k : Core) (o : Op) (ds : List Desc) : Bool := rowLive (nth ds 0) (k.rt (nth ds 0)) ((nth ds 0).rowIdx 0) &&
      min (o.fld 28 21) (dim (k.rt (nth ds 1)) 0) != 0 && decide (o.fld 52 29 < min (o.fld 52 29 + o.fld 76 53) (dim (k.rt (nth ds 0)) 0))
    namesOk (s []) 2 [] (fun k o ds => live k o ds && accModeOf (nth ds 0).fmt (nth ds 0).scaleV == .exact) = true ∧
    namesOk (s [1]) 2 [] (fun k o ds => !live k o ds) = true := by decide +kernel
theorem witness_MatvecSums :
    let s (bind : List Nat) := bench 0x02 1 (2 ^ 10 + 2 ^ 14 + 64 * 2 ^ 62 + 64 * 2 ^ 86) [desc 0 8 [1, 64] [1] 4096 none bind]
    let a (k : Core) (o : Op) (ds : List Desc) := k.matvecArgs o (nth ds 0) (nth ds 1) 0 1000
    namesOk (s []) 1 [] (fun k o ds => decide (0 < (a k o ds).n) && decide ((a k o ds).k0 < (a k o ds).kEnd) && (a k o ds).isOpen &&
      accModeOf (nth ds 0).fmt (nth ds 0).scaleV == .exact) = true ∧
    namesOk (s [1]) 1 [] (fun k o ds => (a k o ds).n == 0) = true := by decide +kernel
theorem witness_RowReductions :
    let s (v : Nat) (bind : List Nat) := bench 0x04 v (2 ^ 10 + 64 * 2 ^ 28) [desc 0 8 [64, 1] [64] 0 none bind]
    let none_ (k : Core) (ds : List Desc) : Bool := ((((k.rt (nth ds 0)).take (nth ds 0).rank).drop 1).any (· == 0))
    (∀ v ∈ [8, 9], namesOk (s v []) 1 [] (fun k o ds => o.var % 8 == v - 8 && !none_ k ds && accModeOf (nth ds 0).fmt false == .exact) = true ∧
      namesOk (s v [0, 1]) 1 [] (fun k _ ds => none_ k ds) = true) ∧
    ∀ v ∈ [3, 4], let s := bench 0x04 v (2 ^ 10) [desc 0 8 [2560] [] 0] ready
      (s.dueIssue 0).isSome = true ∧ (match (s.core 0).ref (s.core 0).nextOp 0 false with
        | .ok d => (List.range 128).all fun j =>
            !(((wordsOf (Memory.read (s.core 0).scratch d.base 2560)).getD j ⟨0, 0⟩).clashes ((s.core 0).elem 0 j))
        | .error _ => false) = true := by decide +kernel
theorem witness_AttentionPhases :
    let s (v : Nat) := bench 0x03 v (2 ^ 10 + 2 ^ 18 + 64 * 2 ^ 112)
      [desc 0 4 [64] [] 0, desc 0 4 [1, 64] [64] 4096, desc 0 4 [1, 128] [128] 8192 (some 16384), desc 0 0 [256] [] 20480]
    ∀ v ∈ [2, 3], namesOk (s v) 4 [] (fun k o ds =>
      let a := k.attendArgs o (nth ds 0) (nth ds 1) (nth ds 2) (nth ds 3)
      bit o.var 0 == (v == 3) && !a.rows.isEmpty && apart (nth ds 3) && a.mode == .exact &&
        (a.rows.all fun r => ((List.range a.nkc).filter (a.visible r)).all fun j => (a.sacc k r j).breach.isNone) &&
        (((nth ds 0).hulls ++ (nth ds 1).panelHulls (ceilDiv (dim (nth ds 1).ext 1) 64) ++
          (nth ds 2).panelHulls (ceilDiv (dim (nth ds 2).ext 1) 64) ++ (nth ds 3).hulls).all fun h =>
            !overlap (512 * a.pline, 1024 * a.mc) h)) = true := by decide +kernel
theorem witness_ElementOps_drain : let s := bench 0x05 0 (2 ^ 10 + 128 * 2 ^ 21) [desc 0 0 [128] [] 0] ready
    (s.dueIssue 0).isSome = true ∧ (s.core 0).nextOp.opc = 0x05 ∧ (s.core 0).nextOp.var % 4 = 0 ∧
    (match (s.core 0).ref (s.core 0).nextOp 0 with | .ok d => apart d && !d.scaleV | .error _ => false) = true := by decide +kernel
theorem witness_ElementOps_whisk :
    let good (ds : List (List Byte)) (n flags : Nat) : Bool := namesOk (bench 0x10 0 4096 ds (whiskBlock · flags)) n [0] fun k o ds =>
      match k.whiskBlock o (o.fld 23 0) (dim (nth ds 0).ext 0) (nth ds 0).rows with
      | .ok w => let a := k.whiskArgs o ds w 0
        !w.random && o.nd == n && apart a.out && w.fifo == (flags != 0) && !a.out.masked a.rt
      | .error _ => false
    good [desc 0 0 [64] [] 0, desc 0 0 [64] [] 1024] 2 0 = true ∧ good [desc 0 0 [64] [] 1024] 1 2048 = true := by decide +kernel
theorem witness_ElementOps_convert : ∀ f ∈ [0, 256], namesOk (bench 0x12 0 f [desc 0 0 [64] [] 0, desc 0 1 [64] [] 1024]) 2 [1] (fun k o ds =>
    match LCtl.parse (o.fld 31 0) with
    | .ok ctl => tableOk (k.convertArgs o (nth ds 0) (nth ds 1) ctl).tab && apart (nth ds 1) && ctl.fifo == (f == 256) &&
        !(nth ds 1).masked (k.rt (nth ds 1))
    | .error _ => false) = true := by decide +kernel
theorem witness_ElementOps_other :
    namesOk (bench 0x13 0 10 [desc 0 10 [64] [] 0]) 1 [0] (fun k o ds => o.nd == 1 && (k.seed (o.fld 10 0)).isOk && apart (nth ds 0)) = true ∧
    namesOk (bench 0x14 0 0 [desc 0 0 [64] [] 0 (some 1024)]) 1 [] (fun _ o _ => o.opc == 0x14) = true := by decide +kernel
theorem witness_LayoutOps :
    let good (f : Nat) (bind : List Nat) (p : LayoutArgs → Bool) : Bool :=
      namesOk (bench 0x11 0 (40 + f) [desc 0 8 [64] [] 0, desc 0 8 [64] [] 1024 none bind]) 2 [1] fun k o ds =>
        match LCtl.parse (o.fld 31 0) with
        | .ok ctl => o.nd != 3 && o.fld 2 0 != 3 && tableOk (k.layoutArgs o (nth ds 0) (nth ds 1) none ctl).tab &&
            p (k.layoutArgs o (nth ds 0) (nth ds 1) none ctl)
        | .error _ => false
    good 0 [] (fun a => !a.dst.masked a.drt && !a.ctl.fifo && a.ctl.mode == 0 && a.src.fmt == a.dst.fmt && a.src.ext == a.dst.ext) = true ∧
    good 256 [] (fun a => !a.dst.masked a.drt && a.ctl.fifo) = true ∧ good 0 [1] (fun a => a.dst.masked a.drt) = true := by decide +kernel

theorem witness_LayoutOps_transpose :
    let plan := toLE 4 0 ++ toLE 2 128 ++ toLE 2 128 ++ toLE 2 1 ++ toLE 14 0 ++ toLE 4 4 ++ toLE 4 4 ++ toLE 4 1 ++ toLE 92 0
    namesOk (bench 0x11 0 (2 + 40) [desc 0 8 [4, 4] [4] 0, desc 0 8 [4, 4] [4] 1024, plan]) 2 [1] (fun k o ds =>
      match LCtl.parse (o.fld 31 0), Plan.parse (Memory.read k.dtable (64 * o.drefs.getD 2 0) 64) with
      | .ok ctl, .ok p => o.nd == 3 && ctl.mode == 2 && !ctl.fifo && (nth ds 0).fmt.width == widthBits ctl.width &&
          (nth ds 1).fmt.width == widthBits ctl.width && !(nth ds 1).masked (k.rt (nth ds 1)) &&
          (p.tiles ctl k.shape (nth ds 0)).ek != 0 && decide (0 < (p.tiles ctl k.shape (nth ds 0)).en) &&
          rowLive (nth ds 1) (k.rt (nth ds 1)) ((nth ds 1).rowIdx 0) && decide (0 < (p.tiles ctl k.shape (nth ds 0)).em)
      | _, _ => false) = true := by decide +kernel

/-! ## Transfers -/

theorem witness_SegmentAccess_bounds : up.translate 0 0x1000 0xFF000 .wr = some 0x1000 ∧ up.translate 0 0x1000 0xFF001 .wr = none ∧
    up.translate 0 0 1 .rm = none ∧ up.translate 0 (2 ^ 38) 1 .rd = none := by decide +kernel
theorem witness_SegmentAccess_faults :
    let bad (opc : Nat) (ds : List (List Byte)) (plan : PlanFn) (right : Need) (n : Nat) : Bool :=
      let s := bench opc 0 0 ds
      let u := s.look 0
      let o := (s.core 0).nextOp
      s.clear 0 && o.opc == opc && match legality plan u 0 o, (u.core 0).refs o 2 [1] with
        | .ok l, .ok ds => decide (l.tags ≤ (u.freeTags 0).length) && ds.length == 2 &&
            (s.translate (s.partNo 0) (nth ds n).base (nth ds n).span right).isNone
        | _, _ => false
    bad 0x20 [desc 1 0 [64] [] (2 ^ 38), desc 0 0 [64] [] 0] planLoad .rd 0 = true ∧
    bad 0x21 [desc 0 0 [64] [] 0, desc 1 0 [64] [] (2 ^ 38)] planStore .wr 1 = true := by decide +kernel

theorem witness_TransferLaunches :
    let x : Xfer := { id := 1, len := 64, counted := 64 }
    let s (rate : Nat) := (withX x { rateNow := rate }).modPart 0 fun p => { p with buckets := [(0, (1, 64))] }
    (withX x).oldest 0 = some x ∧ (withX x).mayLaunch x = false ∧ x.xrank = none ∧ x.tagless = false ∧
    (s 1).oldest 0 = some x ∧ (s 1).mayLaunch x = true ∧ ((s 1).core 0).rateNow ≠ 0 ∧
    (s 0).oldest 0 = some x ∧ (s 0).mayLaunch x = true ∧ ((s 0).core 0).rateNow = 0 := by decide +kernel

/-- Partition 0 with window 2 open over the first 512 bytes of memory. -/
def opened (x : Xfer) (k : Core := {}) : State := (withX x k).modPart 0 fun p => { p with windows := [(2, { isOpen := true, epoch := 7 })] }

/-- A remote write under window 2. -/
def write (epoch : Nat) : Xfer :=
  { id := 1, core := 1, kind := .store, remote := true, stage := .launched, len := 1, data := [1], win := 2, epoch := epoch,
    launch := 20000000000 % 2 ^ 32, dst := 0 }

theorem witness_WindowWriteChecked : let s := opened (write 7)
    s.xfer 1 = some (write 7) ∧ (write 7).arriving = true ∧ (write 7).remote = true ∧ (write 7).kind = .store ∧
    s.inMemory (write 7).dst = true ∧ s.windowCheck (write 7) = 0 ∧ (s.window 0 2).isOpen = true ∧
    (opened (write 6)).xfer 1 = some (write 6) ∧ (write 6).arriving = true ∧ (opened (write 6)).windowCheck (write 6) = 2 ∧
    (s.part 0).run.trace = none := by decide +kernel

/-- The reasons of spec/11 R292: closed, stale, too old, out of range. -/
theorem test_window_reasons : let s := opened (write 7)
    (withX (write 7)).windowCheck (write 7) = 1 ∧ s.windowCheck (write 8) = 2 ∧
    s.windowCheck { write 7 with launch := (20000000000 - 1000001) % 2 ^ 32 } = 3 ∧
    s.windowCheck { write 7 with launch := (20000000000 - 1000000) % 2 ^ 32 } = 0 ∧
    s.windowCheck { write 7 with dst := 511 } = 0 ∧ s.windowCheck { write 7 with dst := 512 } = 4 := by decide +kernel

/-- A remote write into the scratchpad of core 0, and the window over it. -/
def scratchWrite : Xfer := { write 7 with dst := 0x10000000000 }
def openedScratch (x : Xfer) (epoch : Nat) (k : Core := {}) : State :=
  (withX x k).modPart 0 fun p => { p with windows := [(2, { isOpen := true, epoch := epoch, base := 0x10000000000 })] }

theorem witness_RemoteWriteAtCore : let s := openedScratch scratchWrite 7
    let st : Xfer := { scratchWrite with static := true }
    s.inFlight s.writesCore 1 = some scratchWrite ∧ scratchWrite.lost = false ∧ scratchWrite.static = false ∧
    (s.core scratchWrite.dstCore).micro.on = false ∧ scratchWrite.kind ≠ .stockRow ∧ (openedScratch st 7).inFlight s.writesCore 1 = some st ∧
    s.scratchWindow scratchWrite.dstCore scratchWrite = 0 ∧ scratchWrite.data ≠ [] ∧ s.locate scratchWrite.dst = .scratch 0 0 ∧
    (s.header scratchWrite.dstCore scratchWrite.id (s.window 0 2).slot (s.inboundRange scratchWrite)).isOk = true ∧
    (openedScratch scratchWrite 8).scratchWindow scratchWrite.dstCore scratchWrite = 2 := by decide +kernel
theorem witness_RemoteWriteAtCore_row : let x : Xfer := { write 7 with kind := .stockRow, stage := .accepted, data := [] }
    let s := withX x
    s.xfer 1 = some x ∧ x.stage = .accepted ∧ x.kind = .stockRow ∧ (s.core x.dstCore).micro.on = false ∧ s.coreHedged x.dstCore = false ∧
    x.att = [] ∧ ((s.core x.dstCore).addRow (inboundOp s) x.place (wordsOf x.data)).isOk = true := by decide +kernel

theorem witness_DueAtCore_commit : let x : Xfer := { scratchWrite with stage := .accepted, att := [⟨3, false, true, 0, 1⟩] }
    let u := (withX x).settle
    (withX x).xfer 1 = some x ∧ u.xfer 1 = some x ∧ x.kind = .store ∧ x.static = false ∧ x.nib = none ∧ u.locate x.dst = .scratch x.dstCore 0 ∧
    (u.core x.dstCore).micro.on = false ∧ u.coreHedged x.dstCore = false ∧ x.att.length = 1 ∧ x.foreign = false := by decide +kernel
theorem witness_DueAtCore_due :
    let s (n : Nat) := withCore { later := [(n, .inc false 3 1 none ⟨1, 0, 7⟩)], cnts := [(3, { isOpen := true, ceil := 5 })] }
    (s 1001).coresWith Core.awaits = [0] ∧ ((s 1001).core 0).wp0 = [] ∧ ((s 1001).core 0).wp1 = [] ∧ ((s 1001).core 0).pend = [] ∧
    ((s 1001).core 0).halting = none ∧ (s 1001).runOf 0 = some 0 ∧ ((s 1001).core 0).ringOf 3 = none ∧ (s 1001).cyc < 1001 ∧
    (s 1000).coresWith Core.awaits = [0] ∧ 1000 ≤ (s 1000).cyc ∧ ((s 1000).core 0).cnt 3 = { isOpen := true, ceil := 5 } := by decide +kernel
theorem witness_DueAtCore_clash : let s := withCore { running := true, wp0 := [(1000, 5, 9)], wp1 := [(1000, 5)] }
    (s.core 0).clash s.cyc = some (1000, 5, 9) ∧ (s.core 0).running = true := by decide +kernel

theorem witness_TransferData_stack : let rd : Xfer := { id := 1, kind := .load, stage := .launched, len := 1 }
    (withX rd).xfer 1 = some rd ∧ (withX rd).atStack rd = some true ∧
    let wr : Xfer := { id := 1, kind := .store, stage := .launched, len := 1, data := [1] }
    (withX wr).xfer 1 = some wr ∧ (withX wr).atStack wr = some false ∧ wr.tagFmt = none ∧ wr.nib = none := by decide +kernel
theorem witness_TransferData_other :
    let rd : Xfer := { id := 1, kind := .load, stage := .launched, len := 1, src := 0x10000000000 }
    (withX rd).xfer 1 = some rd ∧ (withX rd).locate rd.src = .scratch 0 0 ∧ (withX rd).coreShut 0 = false ∧ rd.stage = .launched ∧ rd.kind = .load ∧
    let cl : Xfer := { id := 1, kind := .ticketClaim, stage := .launched, len := 8 }
    (withX cl).xfer 1 = some cl ∧ cl.stage = .launched ∧ cl.kind = .ticketClaim ∧
    (withX { cl with kind := .ticketRead }).xfer 1 = some { cl with kind := .ticketRead } ∧
    let dn : Xfer := { id := 1, kind := .ticketClaim, stage := .accepted, len := 8, data := toLE 8 5 }
    let u := (withX dn).settle
    ((withX dn).xfer 1).any (fun x => x.stage == .accepted && !x.static) = true ∧ u.xfer 1 = some dn ∧ dn.late = none ∧ dn.tagFmt = none ∧
    dn.nib = none ∧ u.coreHedged dn.core = false := by decide +kernel

theorem witness_TransferEnds : let x : Xfer := { id := 1, kind := .store, stage := .committed }
    let r : Xfer := { x with stage := .refused }
    let s := withX r { running := true }
    (withX x).xfer 1 = some x ∧ x.stage = .committed ∧ x.late = none ∧ x.foreign = false ∧ x.kind ≠ .program ∧ x.kind ≠ .descriptors ∧
    x.att = [] ∧ s.xfer 1 = some r ∧ r.stage = .refused ∧ (s.core r.core).running = true ∧
    let a : Xfer := { x with att := [⟨0, true, true, 1, 2⟩], attCores := [5], remote := true }
    let b : Xfer := { x with att := [⟨0, true, true, 1, 2⟩, ⟨1, true, true, 2, 3⟩], attCores := [5, 6], remote := true }
    (withX a).xfer 1 = some a ∧ a.remote = true ∧ (withX a).inMemory a.dst = true ∧ (withX b).xfer 1 = some b ∧
    (withX b).inMemory b.dst = true ∧
    let l : Xfer := { x with static := true, lost := true, stage := .launched }
    (withX l).xfer 1 = some l ∧ (withX l).slot (placeOfRouter 0).1 (placeOfRouter 0).2 0 (0 % 64) ≠ 5 ∧ l.static = true ∧ l.lost = true ∧
    l.stage = .launched ∧ (withX l).clk.settled ≠ (withX l).cyc + 1 ∧ l.ready ≤ (withX l).cyc ∧ 1 < ({ withX l with nextId := 2 } : State).nextId ∧
    (∀ y ∈ (withX l).xfers, y.id = 1 → y = l) := by decide +kernel

/-! ## Messages -/

theorem witness_MessagesArrive_signal :
    let g : SigMsg := { id := 4, srcCore := 0, srcRank := 0, opAddr := 0, tag := 0, static := false, dstCore := 0, cnt := 3, inc := 1, mark := none,
                        ready := 0, seq := 0, stamp := 0, attached := false }
    let s : State := { up with sigs := [g] }
    s.sigs.find? (fun g => g.id == 4) = some g ∧ g.lost = false ∧ g.static = false ∧
    s.inOrder g.srcCore g.tag g.order g.foreign g.srcRank = true ∧ s.coreShut g.dstCore = false ∧ (s.runOf g.dstCore).isSome = true ∧
    ({ up with sigs := [{ g with static := true }] } : State).sigs.find? (fun g => g.id == 4) = some { g with static := true } := by
  decide +kernel

/-- A message of 32 bytes on its way to a port (1) or a ring (2) of core 0. -/
def message (kind : Nat) : Xfer :=
  { id := 1, core := 1, kind := .message, stage := .launched, len := 32, data := List.replicate 32 7,
    route := { tag := 1, v := true, plane := 1, kind := kind } }

theorem witness_MessagesArrive_port : let s := withX (message 1)
    let st : Xfer := { message 1 with static := true }
    s.inFlight (fun x => x.kind == .message && x.route.kind == 1) 1 = some (message 1) ∧
    (withX st).inFlight (fun x => x.kind == .message && x.route.kind == 1) 1 = some st ∧
    s.inOrder (message 1).core (message 1).route.tag (message 1).id (message 1).foreign 0 = true ∧ (message 1).lost = false ∧
    s.deaf 0 = false ∧ (message 1).route.kind = 1 ∧ (padded (message 1).data).length ≤ ((s.core 0).port 0).free ∧
    let f := withX (message 1) { ports := [(0, { queue := [(2, List.replicate 32768 0, false)] })] }
    f.deaf 0 = false ∧ ((f.core 0).port 0).free < (padded (message 1).data).length ∧ (withX (message 1) { micro := { on := true } }).deaf 0 = true := by
  decide +kernel
theorem witness_MessagesArrive_ring : let s := withX (message 2) { rings := [(0, { size := 0, v := true })] }
    s.inFlight (fun x => x.kind == .message && x.route.kind == 2) 1 = some (message 2) ∧ s.deaf 0 = false ∧ (message 2).route.kind = 2 ∧
    (match ((s.core 0).ring 0).place (32 + 32 * ceilDiv 32 32) with
      | .ok p => (s.header 0 1 0 ⟨((s.core 0).ring 0).base + p.1, 32 + 32 * ceilDiv 32 32, 0, 3, none⟩).isOk
      | .error _ => false) = true ∧
    (match ((withX (message 2)).core 0).ring 0 |>.place (32 + 32 * ceilDiv 32 32) with | .ok _ => false | .error _ => true) = true := by
  decide +kernel

/-! ## Stacks -/

theorem witness_EccUnitRead : let n (k : Nat) := (⟨0, k, []⟩ : EccErr)
    up.symbols [n 1] 0 ≤ 1 ∧ 2 ≤ up.symbols [n 3] 0 ∧ up.symbols [n 3] 0 ≤ 3 ∧ 4 ≤ up.symbols [n 4] 0 := by decide +kernel

/-- A channel 3 of stack 2 in a state. -/
def chanState (state : Nat) (req : Bool) : State := up.modChan (chanNo 2 3) fun _ => { state := state, reqOff := req }

theorem witness_StackUpkeep_scrub : let n (k : Nat) := (⟨0, k, []⟩ : EccErr)
    up.mgt.moduleOn = true ∧ up.chanOn (64 * 0) = true ∧ up.symbols [n 1] 0 = 1 ∧ up.symbols [n 2] 0 = 2 ∧
    up.symbols [] 0 = 0 ∧ 3 < up.symbols [n 4] 0 := by decide +kernel
theorem witness_StackUpkeep_trace (p : Nat) : (up.part p).run.trace = none := by
  by_cases h : p = 0
  · subst h; rfl
  · simp [up, State.part, Tab.get, Ne.symm h]
theorem witness_StackUpkeep_channel : up.chanAbsent 2 = false ∧ up.mgt.moduleOn = true ∧
    (up.chan (chanNo 2 3)).reqOff = false ∧ (up.chan (chanNo 2 3)).state = 0 ∧
    ((chanState 2 true).chan (chanNo 2 3)).reqOff = true ∧ ((chanState 2 true).chan (chanNo 2 3)).state = 2 ∧
    ((chanState 1 true).chan (chanNo 2 3)).state = 1 ∧ ((chanState 1 true).chan (chanNo 2 3)).reqOff = true ∧
    ((chanState 3 false).chan (chanNo 2 3)).state = 3 ∧ ((chanState 3 false).chan (chanNo 2 3)).reqOff = false := by decide +kernel

theorem witness_BucketsRefill : up.mgt.moduleOn = true ∧ up.now % 100 = 0 ∧ up.clk.lastRefill ≠ some up.now := by decide +kernel

/-! ## Runs -/

/-- Partition 0 with a run. -/
def withRun (r : Run) (k : Core := {}) : State := (withCore k).modRun 0 fun _ => r

theorem witness_RunsStartAndEnd :
    let a : Run := { present := true, ts := 19000000000, cores := [0] }
    let b : Run := { present := true, started := true, aborted := some 0, cores := [0] }
    let d : Run := { present := true, started := true, cores := [0] }
    ((withRun a).part 0).run = a ∧ a.started = false ∧ a.aborted = none ∧ a.ts ≤ (withRun a).clk.edgeAt ∧
    (withRun a).clk.settled ≠ (withRun a).cyc + 1 ∧ 0 ∈ a.cores ∧
    a.cores.filter (fun c => c == 0) = [0] ∧ (withRun a).coreHedged 0 = false ∧ a.diag = false ∧ ({ a with diag := true } : Run).diag = true ∧
    ((withRun b).part 0).run = b ∧ b.closed = false ∧ (withRun b).runForced b = true ∧ (withRun b).runQuiet b = true ∧
    (∀ c ∈ b.cores, (withRun b).heldTags c = []) ∧ b.lastStop + 2000000000 ≤ (withRun b).ns ∧
    ((withRun d).part 0).run = d ∧ (withRun d).runQuiet d = true ∧ (withRun d).runForced d = false ∧ (withRun d).faultWaits 0 = false ∧
    (withRun d).mgt.paused = false ∧ (withRun d).mailboxes 0 ≠ [] ∧ (withRun d).longAll 0 0x003A = [] ∧ ((withRun d).cas 0).joined = false ∧
    let f := withRun { d with closed := true } { faulted := true }
    f.runFaulty (f.part 0).run = true ∧ f.runQuiet (f.part 0).run = true ∧ (f.part 0).run.closed = true ∧ f.faultWaits 0 = false := by
  decide +kernel

/-! ## ZCP commands -/

/-- The module without a run. -/
def idle : State := up.modRun 0 fun _ => {}

/-- A command on mailbox `q` of scope `sc` with a body is accepted. -/
def takesIt (s : State) (q sc : Nat) (spec : CmdSpec) (b : List Byte) : Bool := s.accepts q (hdr b.length sc) b spec

theorem witness_CommandAnswers_partitions :
    takesIt up 1 255 identifySpec [] = true ∧
    takesIt { up with parts := [] } 1 255 partCreateSpec
      ([0, 0] ++ toLE 2 1 ++ toLE 12 0 ++ toLE 4 960 ++ toLE 4 100 ++ toLE 2 0 ++ toLE 2 64 ++ toLE 4 0) = true ∧
    takesIt up 1 255 partDestroySpec [0, 1] = true ∧
    takesIt up 1 255 partSetQuotaSpec (toLE 16 0 ++ toLE 4 960 ++ toLE 4 100 ++ toLE 2 0 ++ toLE 2 64 ++ toLE 4 0) = true := by
  decide +kernel
theorem witness_CommandAnswers_memory :
    takesIt up 2 0 memAllocSpec [1, 0, 3, 0, 1, 0, 0, 0] = true ∧ takesIt idle 2 0 memFreeSpec [0] = true ∧
    takesIt { up with unitOwner := (List.range 12).map fun u => (u, 1) } 2 0 chanPowerSpec [0, 0, 0] = true := by decide +kernel
theorem witness_CommandAnswers_windows :
    takesIt up 2 0 windowOpenSpec ([0, 3, 0, 0] ++ toLE 16 0) = true ∧ fld ([0, 3, 0, 0] ++ toLE 16 0) 0 1 ≠ 1 ∧
    takesIt up 2 0 windowOpenSpec ([1, 3, 0, 0] ++ toLE 16 0) = true ∧ fld ([1, 3, 0, 0] ++ toLE 16 0) 0 1 = 1 ∧
    takesIt (opened (write 7)) 2 0 windowCloseSpec [2] = true := by decide +kernel

/-- A binary for one core: a manifest, one bucket and one entry of the core table (spec/06 R169 to R172). -/
def binary : Memory := Memory.write (Memory.write (Memory.write [] 20 [1, 0, 1, 0]) 72 (toLE 8 256 ++ toLE 8 320)) 323 [1]

/-- Partition 0 idle with a loaded binary in slot 0. -/
def loaded : State := { idle with mem := binary }.setProg 0 0 { kind := 2, len := 4096 }

theorem witness_CommandAnswers_programs :
    takesIt idle 2 0 progLoadSpec (toLE 8 0 ++ toLE 8 0 ++ toLE 8 4096 ++ toLE 12 0) = true ∧
    takesIt loaded 2 0 progUnloadSpec [0] = true := by decide +kernel
theorem witness_CommandAnswers_run : takesIt loaded 2 0 runSpec (List.replicate 52 0) = true := by decide +kernel
theorem witness_CommandAnswers_runs :
    takesIt up 2 0 runStatusSpec [] = true ∧ takesIt up 2 0 runAbortSpec [] = true ∧ takesIt up 1 255 logReadSpec (toLE 8 0 ++ [1]) = true ∧
    takesIt up 2 0 traceReadSpec (toLE 8 0 ++ [1]) = true ∧ takesIt up 1 255 sensorReadSpec [0, 0, 1, 0] = true ∧
    takesIt up 1 255 fenceQuerySpec [0, 0] = true ∧
    takesIt { up with err := { hedges := [⟨5, 0, 1, 0, {}, none⟩] } } 1 255 unfenceSpec [5, 0, 0, 0] = true ∧
    takesIt up 1 255 powerLimitSetSpec (toLE 4 1100) = true ∧ takesIt up 1 255 stepCapSetSpec [20] = true := by decide +kernel
theorem witness_CommandAnswers_cascade :
    takesIt idle 2 0 cascadeJoinSpec (toLE 8 1 ++ toLE 2 0 ++ [1, 1, 1] ++ toLE 19 0) = true ∧ takesIt idle 2 0 cascadeLeaveSpec [] = true := by
  decide +kernel
theorem witness_CommandAnswers_firmware : let b (f : Byte) := toLE 4 0 ++ [f] ++ toLE 27 0
    takesIt up 1 255 attestSpec (toLE 32 0) = true ∧
    takesIt up 4 255 fwStageSpec (b 0) = true ∧ stageLast (b 0) = false ∧ stageRestart (b 0) = false ∧
    takesIt up 4 255 fwStageSpec (b 2) = true ∧ stageLast (b 2) = false ∧ stageRestart (b 2) = true ∧
    takesIt up 4 255 fwStageSpec (b 1) = true ∧ stageLast (b 1) = true ∧
    takesIt { up with mgt := { up.mgt with stagedOk := true } } 1 255 fwActivateSpec [] = true := by decide +kernel
theorem witness_CommandAnswers_unknown : (specOf 0x7777).isNone = true ∧ up.takes 1 0x7777 (hdr 0) = some ⟨1, 0, 255, 0, 4096⟩ := by decide +kernel

theorem witness_CommandAnswers_rejected :
    up.takes 1 0x7777 (hdr 0) = some ⟨1, 0, 255, 0, 4096⟩ ∧
    (match up.judge ⟨1, 0, 255, 0, 4096⟩ 0x7777 (hdr 0) [] none with | .reject e => e == 0x0103 | _ => false) = true := by decide +kernel

theorem witness_CommandAnswers_repeated : let f : Frame := ⟨1, 255, 0, 1, 0, 1, 0, []⟩
    let s := up.setScope 8 { smax := 1, recorded := [f] }
    let e := up.setScope 8 { smax := 1 }
    s.mailbox 1 = some ⟨1, 0, 255, 0, 4096⟩ ∧ s.mustWait 1 = false ∧ frameCheck ⟨1, 0, 255, 0, 4096⟩ (hdr 0) = none ∧
    (hdr 0).seq ≤ (s.scope (scopeIndex 255)).smax ∧ (s.scope (scopeIndex 255)).recorded.find? (fun f => f.seq == 1) = some f ∧
    e.mailbox 1 = some ⟨1, 0, 255, 0, 4096⟩ ∧ (hdr 0).seq ≤ (e.scope (scopeIndex 255)).smax ∧
    (e.scope (scopeIndex 255)).recorded.find? (fun f => f.seq == 1) = none := by decide +kernel

theorem witness_ServicePortBeforeReady : (⟨4, 8, 255, 0, 1024⟩ : QPair).port = 8 ∧ State.reset.mgt.phase < 7 ∧ 0x0010 ≠ 0x0001 ∧ 0x0010 ≠ 0x0040 ∧
    0x0010 ≠ 0x0042 ∧ 0x0010 ≠ 0x0048 ∧ (hdr 9).scope = 255 ∧ logReadSpec.lenOk (hdr 9).length = true := by decide +kernel

theorem witness_StepCapSet : fld [20] 0 1 ≤ 24 ∧ fld [20] 0 1 < up.clk.present ∧ 24 < fld [25] 0 1 := by decide +kernel

/-- A command's own part accepts a body. -/
def grants (spec : CmdSpec) (p : Nat) (b : List Byte) (s : State) : Bool := (spec.run p 1 b s).accepts

theorem witness_CommandEffects_partitions :
    let b (n : Byte) := [n, 0] ++ toLE 2 1 ++ toLE 12 0 ++ toLE 4 960 ++ toLE 4 100 ++ toLE 2 0 ++ toLE 2 64 ++ toLE 4 0
    (up.part (fld (b 0) 0 1)).exist = true ∧ grants partCreateSpec 8 (b 1) { up with parts := [] } = true := by decide +kernel
theorem witness_CommandEffects_memory : let b : List Byte := [1, 0, 3, 0, 1, 0, 0, 0]
    fld b 1 1 = 0 ∧ grants memAllocSpec 0 b up = true := by decide +kernel
theorem witness_CommandEffects_windows : let b : List Byte := [0, 3, 0, 0] ++ toLE 16 0
    fld b 0 1 = 0 ∧ (up.cas 0).joined = false ∧ grants windowOpenSpec 0 b up = true ∧
    (up.window 0 (fld [2] 0 1)).isOpen = false ∧ ((opened (write 7)).window 0 (fld [2] 0 1)).isOpen = true := by decide +kernel
theorem witness_CommandEffects_runs : let b : List Byte := List.replicate 52 0
    let r : Run := { present := true, started := true, cores := [0] }
    let s := withRun r { running := true }
    grants runSpec 0 b loaded = true ∧ (idle.part 0).run.present = false ∧ (s.part 0).run.present = true ∧ 0 ∈ (s.part 0).run.cores ∧
    (s.part 0).run.aborted = none ∧ (s.core 0).working = true ∧ (up.core 0).running = false := by decide +kernel
theorem witness_CommandEffects_power : fld (toLE 4 1099) 0 4 < 1100 ∧ 1100 ≤ fld (toLE 4 1100) 0 4 := by decide +kernel

/-- The module with one long command in progress. -/
def withLong (scope op a b : Nat) (s : State := idle) : State := s.longStart scope 1 op a b

theorem witness_LongCommandsEnd : let l (scope op a b : Nat) : LongCmd := ⟨scope, 1, op, a, b, 20000000000, idle.nextId⟩
    (withLong 8 0x11 0 0).longFind 8 0x11 (fun l => l.a == 0) = some (l 8 0x11 0 0) ∧ ((withLong 8 0x11 0 0).part 0).run.present = false ∧
    (withLong 8 0x11 0 0).host.long.any (fun m => m.scope == 0) = false ∧ (withLong 8 0x11 0 0).windowBusy 0 none = false ∧
    (withLong 0 0x21 1 1).longFind 0 0x21 (fun l => l.a == 1) = some (l 0 0x21 1 1) ∧
    (withLong 0 0x21 1 1).host.rdma.any (fun r => r.part == 0 && r.seg == 1 && decide (r.id < idle.nextId)) = false ∧
    (withLong 0 0x22 67 0 (chanState 2 true)).host.long.find? (fun l => l.opcode == 0x22 && l.a == chanNo 2 3) = some (l 0 0x22 67 0) ∧
    ((withLong 0 0x22 67 0 (chanState 2 true)).chan (chanNo 2 3)).state = 2 ∧
    (withLong 0 0x22 67 1 (chanState 0 false)).host.long.find? (fun l => l.opcode == 0x22 && l.a == chanNo 2 3) = some (l 0 0x22 67 1) ∧
    ((withLong 0 0x22 67 1 (chanState 0 false)).chan (chanNo 2 3)).state = 0 := by decide +kernel
theorem witness_LongCommandsEnd_windows : let l : LongCmd := ⟨0, 1, 0x29, 2, 0, 20000000000, idle.nextId⟩
    let s := (withLong 0 0x29 2 0).modWindow 0 2 fun w => { w with kept := [(0, 5)] }
    (withLong 0 0x29 2 0).longFind 0 0x29 (fun l => l.a == 2) = some l ∧ (withLong 0 0x29 2 0).windowBusy 0 (some 2) = false ∧
    ((withLong 0 0x29 2 0).window 0 2).kept = [] ∧
    s.longFind 0 0x29 (fun l => l.a == 2) = some l ∧ s.windowBusy 0 (some 2) = false ∧ (s.window 0 2).kept ≠ [] := by decide +kernel
theorem witness_LongCommandsEnd_rest : let l (scope op a b : Nat) : LongCmd := ⟨scope, 1, op, a, b, 20000000000, idle.nextId⟩
    let g : Hedge := ⟨5, 0, 1, 0, {}, some (8, 1)⟩
    let s : State := { withLong 8 0x49 5 0 with err := { hedges := [g] } }
    (withLong 0 0x30 0 0).longFind 0 0x30 (fun l => l.a == 0) = some (l 0 0x30 0 0) ∧
    (withLong 0 0x30 0 0).segmentBusy 0 ((withLong 0 0x30 0 0).prog 0 0).seg = false ∧
    s.err.hedges.find? (fun h => h.domain == 5 && h.index == 0 && h.returning.isSome) = some g ∧
    s.longFind 8 0x49 (fun l => l.a == 5 && l.b == 0) = some (l 8 0x49 5 0) := by decide +kernel

/-! ## Firmware, ports, errors -/

/-- The module with the slots and mode of an activation. -/
def activation (x : Slot) : State :=
  { withLong 8 0x69 0 0 with mgt := { up.mgt with activating := true, paused := true, slots := [(1, x)] } }

theorem witness_FirmwareUpdate : let l (op : Nat) : LongCmd := ⟨8, 1, op, 0, 0, 20000000000, idle.nextId⟩
    let a (n : Nat) (x : Slot) : State := { activation x with mgt := { (activation x).mgt with actStep := n } }
    (withLong 8 0x68 0 0).longFind 8 0x68 (fun _ => true) = some (l 0x68) ∧ (withLong 8 0x68 0 0).controllerRuns = true ∧
    (a 0 {}).longFind 8 0x69 (fun _ => true) = some (l 0x69) ∧ (a 0 {}).mgt.activating = true ∧ (a 0 {}).mgt.actStep < 3 ∧
    (a 0 {}).host.waiting = [] ∧ (a 0 {}).controllerRuns = true ∧ (a 3 {}).mgt.actStep = 3 ∧ (a 3 {}).mgt.moduleOn = true ∧
    (((a 3 {}).slotOf (a 3 {}).mgt.activeSlot).unfit (a 3 {}).fuses.svMin).isNone = true ∧
    (a 4 {}).controllerRuns = true ∧ (a 4 {}).mgt.actStep = 4 ∧
    (({ a 3 {} with mgt := { (a 3 {}).mgt with activeSlot := 1, slots := [(1, { sigOk := false })] } } : State).slotOf 1).unfit 0 ≠ none ∧
    ({ a 0 {} with clk := { ns := 22000000000 } } : State).longFind 8 0x69 (fun _ => true) = some (l 0x69) ∧
    (l 0x69).stamp + 2000000000 ≤ ({ a 0 {} with clk := { ns := 22000000000 } } : State).ns := by decide +kernel
theorem witness_FirmwareUpdate_ready : (⟨0, true⟩ : KeyRead).started = true := by decide
theorem witness_FirmwareUpdate_lockstep : let s (l : Tab Slot) : State := { up with mgt := { up.mgt with slots := l } }
    up.controllerRuns = true ∧ ((up.slotOf 0).fails 0).isSome = false ∧
    (s [(0, { certOk := false })]).controllerRuns = true ∧
    (((s [(0, { certOk := false })]).slotOf 0).fails 0).isSome = true ∧ (((s [(0, { certOk := false })]).slotOf 1).fails 0).isSome = false ∧
    (((s [(0, { certOk := false }), (1, { certOk := false })]).slotOf 1).fails 0).isSome = true ∧
    let r : State := { up with mgt := { up.mgt with restarting := true, restartAt := 19900000000 } }
    r.mgt.restarting = true ∧ r.mgt.phase ≠ 15 ∧ r.ns ≤ r.mgt.restartAt + 500000000 ∧ r.host.waiting = [] := by decide +kernel

theorem witness_PortsAndQps : up.portUp 0 = true ∧ up.refusesQp 0 9 0 = true ∧ up.refusesQp 0 0 0 = false ∧
    up.host.qps.any (fun p => p.q == 1) = true ∧ (up.portAddresses 0).contains (0xFE80 * 2 ^ 112 + up.interfaceId 0) = true ∧
    (up.portAddresses 0).contains 1 = false ∧ bit up.host.locked 0 = true ∧
    let l : State := { up with host := { up.host with locked := 254, lostAt := [(0, 1)] } }
    Tab.get 0 l.host.lostAt 0 ≠ 0 ∧ Tab.get 0 l.host.lostAt 0 + 1000000000 ≤ l.ns + 1 ∧ bit l.host.locked 0 = false ∧ l.mgt.phase = 7 := by
  decide +kernel

/-- Segment 0 with the right RM. -/
def rmSegment : State := up.modSeg 0 0 fun g => { g with rm := true }

theorem witness_Rdma : up.dataQp 3 = some ⟨3, 0, 0, 1, 4096⟩ ∧
    up.rdmaAddress 0 0 1 8 .wr = none ∧ up.rdmaAddress 0 0 0 8 .wr = some 0 ∧ (up.seg 0 0).rm = false ∧
    (up.writePackets 0 (toLE 8 7) [] (rdmaPackets 8 4096)).2 = false ∧
    rmSegment.dataQp 3 = some ⟨3, 0, 0, 1, 4096⟩ ∧ rmSegment.rdmaAddress 0 0 0 8 .wr = some 0 ∧ (rmSegment.seg 0 0).rm = true ∧
    rmSegment.openFor 0 0 8 = false ∧ (rmSegment.part 0).run.trace = none ∧
    [(⟨5, 3, 0, 0⟩ : RdmaReq)].find? (fun x => x.id == 5) = some ⟨5, 3, 0, 0⟩ ∧
    up.rdmaAddress 0 0 1 8 .rd = none ∧ up.rdmaAddress 0 0 0 8 .rd = some 0 ∧ (up.readPackets 0 [] (rdmaPackets 8 4096)).2.2 = false := by
  decide +kernel

theorem witness_ErrorQueue : let r : LogRec := { domain := 5 }
    let s (e : Errors) : State := { up with err := e }
    (s { transit := [r] }).err.transit.drop 0 = [r] ∧ (s { transit := [r] }).err.queue.length < 256 ∧
    256 ≤ (s { queue := List.replicate 256 r }).err.queue.length ∧ up.sourceDie r = none ∧ up.sourceDie {} = some 0 ∧
    takeLeast up.now [r] = some (r, []) ∧ (∀ x ∈ [({ r with stamp := 19999999999 } : LogRec)], up.now < x.stamp + 1000) ∧
    takeLeast up.now (s { transit := [r] }).arriveDue.err.queue = some (r, []) ∧ (s { transit := [r] }).arriveDue.mgt.paused = false ∧
    [(⟨3, chanNo 2 3, 0, none⟩ : Recovery)].find? (fun x => x.domain == 3 && x.index == chanNo 2 3 && x.stop.isNone) =
      some ⟨3, chanNo 2 3, 0, none⟩ ∧ 0 + 40000 ≤ up.now ∧ (s { lost := 2 }).err.lost ≠ 0 ∧ 0 < up.nCores ∧ up.mgt.moduleOn = true ∧
    (up.core 0).running = false ∧ (up.core 0).halting = none ∧ up.dieOf 0 = 0 := by decide +kernel

/-! ## Clocks, power and heat -/

theorem witness_StepChoice_glide : let s : State := { up with clk := { up.clk with gliding := true, heading := 23, target := 20, glideAt := 5 } }
    s.clk.gliding = true ∧ s.clk.glideAt ≤ s.ns := by decide +kernel

theorem witness_StepChoice : up.ctlDown = false ∧ 2 ≤ up.mgt.phase ∧ up.mgt.phase ≤ 7 ∧ up.mgt.moduleOn = true ∧ 15 < (up.replica 0).warnTh ∧
    7 < (up.replica 0).alarmTh ∧ up.clk.evalAt = none ∧ up.clk.present ≠ 0 ∧ up.clk.gliding = false ∧
    ({ up with mgt := { up.mgt with restarting := true } } : State).ctlDown = true ∧
    let e (n : Nat) : State := { up with clk := { up.clk with evalAt := some n } }
    (e 0).clk.evalAt = some 0 ∧ 0 + 100000 ≤ (e 0).ns ∧ (e 19999999999).clk.evalAt = some 19999999999 ∧ (e 19999999999).ns < 19999999999 + 100000 ∧
    let l := up.modReplica 0 fun x => { x with margin := 9 }
    l.marginsOk = false ∧ 2 ≤ l.mgt.phase ∧ l.ctlDown = false ∧ (l.replica 0).margin < (l.replica 0).warnTh ∧
    let h (n : Nat) : State := { up with clk := { up.clk with alarmHold := some (20, n), gliding := true } }
    (h 19999999999).clk.alarmHold = some (20, 19999999999) ∧ (h 19999999999).ns < 19999999999 + 10000000 ∧ (h 0).clk.alarmHold = some (20, 0) ∧
    0 + 10000000 ≤ (h 0).ns ∧ (h 0).clk.gliding = true := by decide +kernel
theorem witness_StepChoice_floor : let f : State := { up with clk := { ns := 20000000000, badSince := [(0, 1)] } }
    7 < (f.replica 0).alarmTh ∧ Tab.get 0 f.clk.badSince 0 ≠ 0 ∧ f.clk.present = 0 ∧ f.clk.gliding = false ∧
    max (Tab.get 0 f.clk.badSince 0 - 1) f.clk.f0Since + 1000000 ≤ f.ns := by decide +kernel

theorem witness_PowerAndHeat : up.mgt.moduleOn = true ∧ up.ceilingMw < 10000000 ∧ up.clk.present ≠ 0 ∧ up.clk.gliding = false ∧
    (110000 : Int) ≤ 110000 ∧ (120000 : Int) ≤ 120000 ∧ ({ up with clk := {} } : State).clk.present = 0 ∧
    ({ up with clk := { up.clk with gliding := true } } : State).clk.gliding = true ∧
    let h : State := { up with clk := { up.clk with thermalHold := true } }
    h.mgt.moduleOn = true ∧ h.clk.thermalHold = true ∧ (h.sample [⟨0, 99999⟩]).regionHot 100000 = false := by decide +kernel

theorem witness_TimeBase : idle.anyRun = false ∧ up.anyRun = true ∧ up.mgt.moduleOn = true ∧ idle.mgt.moduleOn = true ∧ up.err.inSecond < 2000000 ∧
    let s (n : Nat) : State := { up with clk := { up.clk with source := n, toGo := 4, ppsStamp := 19000000000, ppsAt := some 19000000000 } }
    (s 1).clk.source ≠ 0 ∧ (s 1).clk.slewAt = none ∧ (s 2).clk.source = 2 ∧ (s 1).clk.source ≠ 2 ∧ (4 : Int) = (s 1).clk.toGo ∧
    (-3 : Int) ≠ (s 1).clk.toGo ∧ (s 1).clk.ppsAt.isSome = true ∧ (s 1).clk.ppsStamp + 999900000 ≤ (s 1).now ∧
    (s 1).now ≤ (s 1).clk.ppsStamp + 1000100000 ∧ (s 2).clk.source ≠ 1 ∧
    let c : State := { up with clk := { up.clk with ppsCands := [18000000000, 19000000000] } }
    c.clk.ppsAt = none ∧ ppsFits 18000000000 19000000000 = true ∧ ppsFits 19000000000 c.now = true ∧
    let e : State := { up with clk := { up.clk with ppsStamp := 18000000000, ppsAt := some 18000000000, slewAt := some 19999999999, refLost := true } }
    e.clk.slewAt = some 19999999999 ∧ e.ns < 19999999999 + 5000 ∧ e.clk.ppsStamp + 1000100000 < e.now ∧
    e.ns < 18000000000 + 3000000000 ∧ up.clk.refLost = false ∧ e.clk.refLost = true ∧ e.clk.gliding = false ∧
    e.clk.refLostAt + 10000000 ≤ e.ns := by decide +kernel

/-! ## Sideband, kit, input and start-up -/

/-- The module with its three inputs at some levels. -/
def pins (a b c : Pin) : State := { up with err := { rstN := a, throttleN := b, presentN := c } }

theorem witness_ResetInput : up.err.rstN.high = true ∧ up.err.rstN.chatter = false ∧ up.mgt.moduleOn = true ∧ 2 ≤ up.mgt.phase ∧ up.mgt.phase ≠ 15 ∧
    State.reset.err.rstN.high = true ∧ State.reset.mgt.moduleOn = false ∧
    let lo := pins { high := false } {} {}
    lo.err.rstN.high = false ∧ lo.err.rstN.chatter = false ∧ lo.mgt.moduleOn = true ∧ lo.err.rstN.changed = 0 ∧
    lo.err.rstN.asserted = true ∧ lo.controllerRuns = true ∧
    lo.err.rstN.noted + 10000000000 ≤ lo.ns ∧ lo.err.inSecond < 2000000 ∧
    let q := pins { high := false, changed := 19999950000 } {} {}
    ¬ (q.err.rstN.changed = 0 ∨ q.err.rstN.changed + 100000 < q.ns + 1) ∧
    (pins { chatter := true } {} {}).err.rstN.high = true ∧ (pins { chatter := true } {} {}).err.rstN.chatter = true ∧
    (pins { high := false, chatter := true } {} {}).err.rstN.high = false ∧ (pins { high := false, chatter := true } {} {}).err.rstN.chatter = true := by
  decide +kernel

theorem witness_SidebandInputs_throttle : up.err.throttleN.high = true ∧ up.err.throttleN.chatter = false ∧ up.mgt.moduleOn = true ∧
    up.clk.present ≠ 0 ∧ up.clk.gliding = false ∧ ({ up with clk := { up.clk with gliding := true } } : State).clk.gliding = true ∧
    (pins {} { chatter := true } {}).err.throttleN.high = true ∧ (pins {} { chatter := true } {}).err.throttleN.chatter = true ∧
    let lo := pins {} { high := false } {}
    lo.err.throttleN.high = false ∧ lo.err.throttleN.chatter = false ∧ lo.err.throttleN.changed = 0 ∧ lo.err.throttleN.asserted = true ∧
    lo.err.rstN.asserted = false ∧ lo.controllerRuns = true ∧
    lo.err.throttleN.noted + 1000000000 ≤ lo.ns ∧ lo.err.inSecond < 2000000 ∧
    let q := pins {} { high := false, changed := 19999950000 } {}
    ¬ (q.err.throttleN.changed = 0 ∨ q.err.throttleN.changed + 100000 < q.ns + 1) := by decide +kernel

theorem witness_SidebandInputs_others : up.err.presentN.high ≠ false ∧ (up.pin 2).chatter = false ∧ (up.pin 0).high = true ∧
    up.mgt.moduleOn = true ∧ up.mgt.booted = true ∧ 2 ≤ up.mgt.phase ∧ up.mgt.phase ≠ 15 ∧ up.err.inSecond < 2000000 ∧
    20000000000 ≤ up.ns ∧ 20000000000 ≤ 19999800000 + 200000 ∧
    let c := pins {} {} { chatter := true }
    c.controllerRuns = true ∧ (c.pin 2).chatter = true ∧ (c.pin 2).rawAt ≤ 19990000000 ∧ 19990000000 + 10000000 ≤ c.ns ∧
    (c.pin 2).chatNoted + 1000000000 ≤ c.ns := by decide +kernel

/-- The module with a kit. -/
def kit (key kind forced : Nat) (ss : Tab (Int × Bool) := []) : State :=
  { up with mgt := { up.mgt with key := key, kitKind := kind, sensors := ss }, clk := { up.clk with floorForced := forced } }

theorem witness_KitAndCooling : up.controllerRuns = true ∧ (kit 1 1 0).mgt.key ≠ 2 % 8 ∧ (kit 1 2 0).kitMismatch = true ∧
    bit (kit 1 2 0).clk.floorForced 0 = false ∧ profileOfKey (kit 1 1 0).mgt.key ≠ 0 ∧ bit (kit 1 1 0).clk.floorForced 1 = false ∧
    (kit 1 1 0).coolingLost = true ∧ (kit 1 1 0).mgt.key ≠ 2 ∧ (kit 2 2 0).mgt.key = 2 ∧
    let r : State := { kit 1 1 1 with mgt := { (kit 1 1 1).mgt with inletAt := 20000000000 } }
    r.controllerRuns = true ∧ r.clk.floorForced ≠ 0 ∧ r.kitMismatch = false ∧ r.coolingLost = false ∧
    r.kitGoodSince + 10000000000 ≤ r.ns := by decide +kernel

theorem witness_InputRail : damaging 100001 = true ∧ damaging 100000 = false ∧ (60000 : Int) ≤ 60000 ∧ (80000 : Int) ≤ 80000 ∧
    State.reset.mgt.moduleOn = false ∧ State.reset.mgt.latched = false ∧ damaging 55999 = false ∧ (55999 : Int) < 56000 ∧ up.mgt.moduleOn = true ∧
    damaging 85001 = false ∧ up.mgt.booted = true ∧ 2 ≤ up.mgt.phase ∧ 120000 < 120001 := by decide +kernel

theorem witness_StartUp : let s (n : Nat) : State := { State.reset with mgt := { moduleOn := true, booted := true, phase := n } }
    let o : State := { State.reset with mgt := { moduleOn := true } }
    o.mgt.moduleOn = true ∧ o.mgt.booted = false ∧ o.mgt.phase = 0 ∧ ((o.slotOf 0).fails o.fuses.svMin).isSome = false ∧
    (s 1).controllerRuns = true ∧ (s 1).mgt.phase = 1 ∧ (s 2).controllerRuns = true ∧ (s 2).mgt.phase = 2 ∧ (s 2).mgt.failed = false ∧
    ((s 2).slotOf 0).partsOk = true ∧ ((s 2).slotOf 1).unfit (s 2).fuses.svMin ≠ none ∧ (s 3).mgt.phase = 3 ∧ (s 4).mgt.phase = 4 ∧
    (s 5).mgt.phase = 5 ∧ (s 6).mgt.phase = 6 ∧ (s 6).mgt.portsDone = false ∧
    ({ s 6 with mgt := { (s 6).mgt with portsDone := true } } : State).mgt.portsDone = true ∧
    let bad : Slot := { ctlOk := false }
    let b1 : State := { State.reset with mgt := { moduleOn := true, slots := [(0, bad)] } }
    let b2 : State := { State.reset with mgt := { moduleOn := true, slots := [(0, bad), (1, bad)] } }
    ((b1.slotOf 0).fails b1.fuses.svMin).isSome = true ∧ ((b1.slotOf 1).fails b1.fuses.svMin).isSome = false ∧
    ((b2.slotOf 0).fails b2.fuses.svMin).isSome = true ∧ ((b2.slotOf 1).fails b2.fuses.svMin).isSome = true ∧
    let c (x : Slot) : State := { s 2 with mgt := { (s 2).mgt with slots := [(0, { partsOk := false }), (1, x)] } }
    (c {}).controllerRuns = true ∧ ((c {}).slotOf 0).partsOk = false ∧ ((c {}).slotOf 1).unfit (c {}).fuses.svMin = none ∧
    ((c bad).slotOf 1).unfit (c bad).fuses.svMin ≠ none := by decide +kernel
theorem witness_StartUp_links : let s (x : Link) : State := { State.reset with
      mgt := { moduleOn := true, booted := true, phase := 5 }, links := (List.range 64).map fun l => (l, x) }
    (∀ l, l < 64 → ((s { state := 2 }).link l).step = 0 ∧ ((s { state := 2 }).link l).state ≠ 0) ∧
    (∀ l, l < 64 → ((s {}).link l).step = 0 ∧ l ∈ List.range 64 ∧ ((s {}).link l).state = 0) := by decide +kernel

/-! ## PMBus -/

theorem witness_Linear11 : (72000 : Int).natAbs ≤ 1023 * 1000 * 2 ^ 15 := by decide +kernel

/-- 72 V is Y = 576, N = −3 in LINEAR11 (spec/18 R435). -/
theorem test_linear11 : leNat (linear11 72000) = 576 + 2048 * (32 - 3) := by decide +kernel

theorem witness_PmbusCommands : up.pmServed = true ∧ up.fuses.moduleSerial.length = 12 ∧ pmCodes.contains 0x21 = false ∧ up.alertN = false ∧
    ({ up with mgt := { up.mgt with stCml := 1 } } : State).alertN = true ∧
    (let s : State := { up with mgt := { up.mgt with sensors := [(3, (50000, true))] } }
     s.sensorValue 3 = (50000, true)) := by decide +kernel

/-! ## Micro mode -/

/-- Core 0 in micro mode at PC 0, with an instruction word there (spec/09 R237). -/
def micro (w : Nat) (g : Tab Nat := []) (k : Core := {}) : State :=
  withCore { k with pstore := Memory.write [] 0 (toLE 4 w), pvalid := 1, micro := { k.micro with on := true, running := true, limit := 0, g := g } }

/-- A word of format R, with D in 25:21, A in 20:16 and B in 15:11. -/
def wordR (opc d a b : Nat) : Nat := opc * 2 ^ 26 + d * 2 ^ 21 + a * 2 ^ 16 + b * 2 ^ 11
/-- A word of format I. -/
def wordI (opc d a imm : Nat) : Nat := opc * 2 ^ 26 + d * 2 ^ 21 + a * 2 ^ 16 + imm

theorem witness_MicroControl :
    let on : Micro := { on := true, running := true }
    up.nCores = 288 ∧ up.mgt.moduleOn = true ∧ (up.core 0).working = false ∧ up.heldTags 0 = [] ∧ (up.core 0).micro.on = false ∧
    ((withCore { running := true }).core 0).working = true ∧ ((withCore { micro := on }).core 0).micro.running = true ∧
    ((withCore { micro := on }).core 0).micro.overtime up.now = true ∧
    ((withCore { micro := { on with limit := 0 } }).core 0).micro.overtime up.now = false ∧
    (micro 0).microTakes 0 = true ∧ (micro 0).microLegal 0 ((micro 0).microWord 0) = false := by decide +kernel

theorem witness_MicroRegisterOps :
    (∀ o ∈ [0x01, 0x02, 0x03, 0x04, 0x05, 0x06, 0x07, 0x08, 0x09, 0x0A, 0x0B, 0x0C], (micro (wordR o 1 2 3)).microReady 0 o = true) ∧
    ∀ o ∈ [0x10, 0x11, 0x12, 0x13, 0x14, 0x15, 0x16], (micro (wordI o 1 0 63)).microReady 0 o = true := by decide +kernel

/-- The value of G1 after an instruction on G2 = −8 and G3 = 3. -/
def g1 (i : Instr) (w : Nat) : Nat :=
  match exec i (micro w [(2, 2 ^ 64 - 8), (3, 3)]) with
  | .next t => (t.core 0).micro.reg 1
  | _ => 2 ^ 64

/-- Worked by hand from R238. -/
theorem test_micro_arithmetic : g1 (.add 0) (wordR 0x01 1 2 3) = 2 ^ 64 - 5 ∧ g1 (.sub 0) (wordR 0x02 1 3 2) = 11 ∧
    g1 (.sar 0) (wordR 0x08 1 2 3) = 2 ^ 64 - 1 ∧ g1 (.shr 0) (wordR 0x07 1 2 3) = 2 ^ 61 - 1 ∧ g1 (.mulhu 0) (wordR 0x0A 1 2 3) = 2 ∧
    g1 (.slt 0) (wordR 0x0B 1 2 3) = 1 ∧ g1 (.sltu 0) (wordR 0x0C 1 2 3) = 0 ∧ g1 (.addi 0) (wordI 0x10 1 3 0xFFFF) = 2 ∧
    g1 (.andi 0) (wordI 0x11 1 2 0xFFFF) = 0xFFF8 ∧ g1 (.lui 0) (wordI 0x16 1 0 0x8000) = 2 ^ 64 - 2 ^ 31 := by decide +kernel

theorem witness_MicroMemory :
    (∀ o ∈ [0x18, 0x19, 0x1A, 0x1B], (micro (wordI o 1 0 8)).microReady 0 o = true ∧
      ((micro (wordI o 1 0 8)).core 0).micro.ea ((micro (wordI o 1 0 8)).microWord 0) = 8) ∧
    (∀ o ∈ [0x38, 0x39], (micro (o * 2 ^ 26)).microReady 0 o = true ∧
      ((micro (o * 2 ^ 26)).core 0).micro.reg (mGA ((micro (o * 2 ^ 26)).microWord 0)) = 0) ∧
    (∀ o ∈ [0x18, 0x19, 0x1A, 0x1B], (micro (wordI o 1 0 2)).microReady 0 o = true ∧
      ((micro (wordI o 1 0 2)).core 0).micro.ea ((micro (wordI o 1 0 2)).microWord 0) % 4 ≠ 0) ∧
    (∀ o ∈ [0x38, 0x39], let s := micro (o * 2 ^ 26 + 2 ^ 9) [(1, 8)]
      s.microReady 0 o = true ∧ ((s.core 0).micro.reg (mGA (s.microWord 0))) % 512 ≠ 0) ∧
    let s := micro (wordR 0x18 1 2 0) [(2, 2 ^ 62)]
    s.microReady 0 0x18 = true ∧ s.mayPay 0 (s.microCounted 0 (wordR 0x18 1 2 0) 0) = false := by decide +kernel

theorem witness_MicroRegisterOps_flow :
    (∀ o ∈ [0x20, 0x21, 0x22, 0x23, 0x28, 0x3F], (micro (wordI o 0 0 5)).microReady 0 o = true) ∧ (micro (wordR 0x29 1 2 0)).microReady 0 0x29 = true ∧
    ∀ i ∈ [0, 1, 2, 3], (micro (wordI 0x30 1 0 i)).microReady 0 0x30 = true ∧ (micro (wordI 0x30 1 0 i)).microWord 0 % 65536 = i := by
  decide +kernel

/-- A branch back by one instruction from PC 0 goes round the program store (R237). -/
theorem test_micro_branch : (match exec (.beq 0) (micro (wordI 0x20 0 0 0xFFFF)) with
    | .next t => (t.core 0).micro.pc
    | _ => 0) = 0x7FFFC := by decide +kernel

theorem witness_MicroVector : (micro (0x3A * 2 ^ 26 + 2 ^ 22 + 2 * 2 ^ 5)).microReady 0 0x3A = true ∧
    (micro (0x3B * 2 ^ 26 + 2 ^ 21)).microReady 0 0x3B = true ∧ (micro (0x3C * 2 ^ 26 + 2 ^ 21)).microReady 0 0x3C = true := by decide +kernel

theorem witness_MicroMatrix : let openRow : Core := { rows := [(0, { isOpen := true, fmt := 8 })] }
    (micro (wordR 0x34 0 1 2) [(2, 8 * 2 ^ 16)]).microReady 0 0x34 = true ∧
    (micro (0x35 * 2 ^ 26)).microReady 0 0x35 = true ∧ ((micro (0x35 * 2 ^ 26)).core 0).micro.shadowBeats < ((micro (0x35 * 2 ^ 26)).core 0).micro.planeBeats ∧
    (micro (0x36 * 2 ^ 26)).microReady 0 0x36 = true ∧
    (micro (0x37 * 2 ^ 26) [] openRow).microReady 0 0x37 = true ∧ (((micro (0x37 * 2 ^ 26) [] openRow).core 0).row 0).isOpen = true ∧
    Fmt.ofCode 8 = some .int8 ∧ (micro (wordR 0x3D 2 0 0) [] openRow).microReady 0 0x3D = true ∧
    (micro (wordR 0x3E 2 0 0) [] openRow).microReady 0 0x3E = true ∧ (micro (wordR 0x3D 2 0 0)).microReady 0 0x3D = true ∧
    (micro (wordR 0x3E 2 0 0)).microReady 0 0x3E = true ∧ (((micro (wordR 0x3E 2 0 0)).core 0).row 0).isOpen = false := by decide +kernel
theorem witness_MicroMatrix_mrow : let k : Core := (micro (0x37 * 2 ^ 26) [] { rows := [(0, { isOpen := true, fmt := 8 })] }).core 0
    (({ k with micro := k.micro.past } : Core).addTerms (opAddrOf k.micro.pc) 0 0 128 (List.range Fmt.int8.kp)
      (fun i => decodeA .int8 (loadElem k.micro.v .int8 0 i)) (fun i j => decodeA .int8 (planeElem k.active .int8 i j))).isOk = true := by
  decide +kernel

/-! ## Links and cascades -/

/-- The module with link 0. -/
def withLink (x : Link) : State := { up with links := [(0, x)] }

/-- A good flit: its CRC is that of its bytes. -/
def goodFlit (ty : Nat) : Flit := { flit ty 0 with crc := crc32c (flit ty 0).bytes }

theorem witness_LinkFlits_data : (withLink { state := 3 }).receives 0 = true ∧ (goodFlit 0).ty = 0 ∧ badFlit (goodFlit 0) = false ∧
    (goodFlit 0).fseq = ((withLink { state := 3 }).link 0).rxSeq ∧ badFlit { goodFlit 0 with fecOk := false } = true ∧
    (goodFlit 1).ty = 1 ∧ (goodFlit 2).ty = 2 ∧ badFlit (goodFlit 2) = false := by decide +kernel
theorem witness_LinkFlits_training : let w (st up : Nat) (role : Nat := 7) : State := withLink { state := 1, step := st, upto := up, role := role }
    ((withLink { state := 3 }).link 0).state = 3 ∧ ((withLink { state := 3 }).link 0).since + 10000 ≤ up.ns ∧ ((withLink { state := 2 }).link 0).state = 2 ∧
    ((w 1 4).link 0).step < ((w 1 4).link 0).upto ∧ ((w 4 6).link 0).step < ((w 4 6).link 0).upto ∧
    ((w 5 6).link 0).step = 5 ∧ ((w 5 6).link 0).identityFits peer = true ∧
    ((w 4 4).link 0).step = 4 ∧ ((w 4 4).link 0).upto = 4 ∧ ((w 4 4).link 0).role = 7 ∧ ((w 4 4 0).link 0).role ≠ 7 ∧
    ((w 6 6).link 0).step = 6 ∧ ((w 6 6).link 0).upto = 6 ∧ ((w 1 4).link 0).since + stepLimit 1 ≤ up.ns ∧
    ((w 1 4).link 0).attempt < 3 ∧ 3 ≤ ((withLink { step := 1, attempt := 3 }).link 0).attempt ∧ (w 4 4).unitPart 4 0 = none := by decide +kernel

/-- Partition 0 with links and a cascade. -/
def inCascade (k : Cascade) (ls : Tab Link := []) (s : State := idle) : State :=
  { s.modPart 0 fun p => { p with links := 2 ^ 64 - 1, cascade := k } with links := ls }

/-- Member 1 of a torus of 2 by 1 by 1, which holds link 0 in the direction +X. -/
def member : Cascade := { joined := true, rank := 1, dimX := 2, dimY := 1, dimZ := 1, links := 1, succession := [1] }

theorem witness_LinkFlits_joins : let s := inCascade { member with joined := false, joining := true } [(0, { step := 4 })]
    s.unitPart 4 0 = some 0 ∧ (s.cas 0).joining = true ∧ bit (s.cas 0).links 0 = true ∧ (s.cas 0).twinOwn = none := by decide +kernel

theorem witness_CascadeJoin : let k : Cascade := { joining := true, rank := 0, dimX := 1, dimY := 1, dimZ := 1, arrived := [0] }
    let m : Cascade := { member with joined := false, joining := true, links := 3 }
    let ls : Tab Link := [(0, { state := 3, role := 0 }), (1, { state := 3, role := 1 })]
    (inCascade k).lowest (fun k => k.joining) = some 0 ∧ (∀ l, l < 64 → bit k.links l = true → ((inCascade k).link l).step = 0) ∧
    (inCascade k).joinLacks 0 = false ∧ (∀ r, r < k.size → r ∈ k.arrived) ∧
    (inCascade m ls).lowest (fun k => k.joining) = some 0 ∧ (∀ l, l < 64 → bit m.links l = true → ((inCascade m ls).link l).step = 0) ∧
    (inCascade m ls).joinLacks 0 = false ∧ m.rank ≠ 0 ∧
    let c : LongCmd := ⟨0, 1, 0x58, 0, 0, 0, 0⟩
    let s : State := { inCascade m with host := { up.host with long := [c] }, clk := { ns := 60000000000 } }
    s.lowest (fun k => k.joining) = some 0 ∧ s.longFind 0 0x58 (fun _ => true) = some c ∧ c.stamp + 60000000000 ≤ s.ns := by decide +kernel
theorem witness_CascadeJoin_exchange : let m : Cascade := { member with joined := false, joining := true, links := 3, ident := 1 }
    let s := inCascade m [(0, { step := 5, upto := 5 }), (1, { step := 4, upto := 4 })]
    let good : PeerId := { peer with rank := 0 }
    s.lowest (fun k => k.joining) = some 0 ∧ (s.link 0).step = 5 ∧ (s.link 0).upto = 5 ∧ (s.link 0).identityFits good = true ∧
    (s.link 0).identityFits { good with link := 3 } = true ∧ s.unitPart 4 0 = some 0 ∧ (s.cas 0).twin = false ∧
    bit (s.cas 0).links 1 = true ∧ (s.link 1).step ≠ 0 ∧
    good.cascadeId = (s.cas 0).ident ∧ good.dimX = (s.cas 0).dimX ∧ good.dimY = (s.cas 0).dimY ∧ good.dimZ = (s.cas 0).dimZ ∧
    good.link % 8 = 0 % 8 ∧ good.rank = (s.cas 0).neighbour (0 / 8) ∧ ({ good with link := 3 } : PeerId).link % 8 ≠ 0 % 8 := by decide +kernel

theorem witness_CascadeTraffic_packet : let pk := packet 6 1
    let x (r : Nat) (p : Packet) : Link := { state := 3, role := r, buf := [(2 * p.vc, p.flits 0)] }
    let s (r : Nat) (p : Packet) := inCascade member [(0, x r p)]
    (s 0 pk).unitPart 4 0 = some 0 ∧ (((s 0 pk).link 0).takePacket pk).isSome = true ∧ ((s 0 pk).link 0).state = 3 ∧
    pk.dstRank = ((s 0 pk).cas 0).rank ∧ pk.ptype = 6 ∧ ({ pk with dstCore := 0x1FF } : Packet).dstCore = 0x1FF ∧
    (((s 0 { pk with dstCore := 0x1FF }).link 0).takePacket { pk with dstCore := 0x1FF }).isSome = true ∧
    (packet 6 0).dstRank ≠ ((s 0 (packet 6 0)).cas 0).rank ∧ (((s 0 (packet 6 0)).link 0).takePacket (packet 6 0)).isSome = true ∧
    ((s 0 (packet 6 0)).link 0).role ≠ 6 ∧ (((s 6 (packet 6 0)).link 0).takePacket (packet 6 0)).isSome = true ∧
    ((s 6 (packet 6 0)).link 0).role = 6 := by decide +kernel
theorem witness_CascadeTraffic_beats : let master : Cascade := { member with rank := 0, master := true }
    let s := inCascade member [(0, { state := 3, role := 0 })]
    let h : HostIf := { up.host with parked := [⟨2, 0, hdr 0, [], 2, false⟩] }
    (inCascade master).lowest (fun k => k.joined && k.master) = some 0 ∧ ((inCascade master).cas 0).lastBeat + 100000 ≤ up.ns ∧
    s.lowest (fun k => k.joined && !k.master) = some 0 ∧ s.unitPart 4 0 = some 0 ∧ (s.cas 0).joined = true ∧ (s.link 0).state = 3 ∧
    (s.cas 0).accepts 0 = true ∧ 0 ≠ (s.cas 0).rank ∧ (s.cas 0).accepts 5 = false ∧ (s.cas 0).accepts 1 = true ∧ 1 = (s.cas 0).rank ∧
    (s.cas 0).master = false ∧ s.clk.source ≠ 3 ∧ ((inCascade { master with succession := [1] }).cas 0).accepts 1 = true ∧
    (s.cas 0).lastBeat + 300000 ≤ s.ns ∧ (s.cas 0).nextChoice = some (s.cas 0).rank ∧
    ((inCascade { member with succession := [3, 1] }).cas 0).nextChoice = some 3 ∧
    ((inCascade { member with succession := [] }).cas 0).nextChoice = none ∧
    (∃ x ∈ h.parked, x.part = 0 ∧ x.answered = false) ∧
    1 < ((inCascade master).cas 0).size ∧ 1 ∉ ((inCascade master).cas 0).lost ∧
    1 ∈ ((inCascade { master with lost := [1] }).cas 0).lost := by decide +kernel
theorem witness_CascadeTraffic_lost : let s := inCascade member [(0, { state := 0, role := 0, peerRank := 0 })]
    s.lowest (fun k => k.joined && k.needs 0) = some 0 ∧ (s.cas 0).neighbour 0 ∉ (s.cas 0).lost ∧
    bit (s.cas 0).links 0 = true ∧ (s.link 0).role < 6 ∧ (s.link 0).peerRank = (s.cas 0).neighbour 0 ∧
    ∀ l, l < 64 → bit (s.cas 0).links l = true → (s.link l).state ≠ 3 ∧ (s.link l).outAt + 300000 ≤ s.ns := by decide +kernel

theorem witness_TwinExchange : let t : Cascade := { member with twin := true }
    let d : State := inCascade { t with twinDue := some 0 }
    let e : State := inCascade { t with twinDue := some 2 } [(62, { state := 3, twin := true })]
    let s := inCascade t [(62, { state := 3, twin := true })]
    let o : State := inCascade { t with twinOwn := some (1, 0, []) } [(62, { state := 3, twin := true })]
    (d.cas 0).twinDue = some 0 ∧ (d.part 0).exist = true ∧ (d.cas 0).joined = true ∧ d.writesDone 0 = true ∧
    (e.cas 0).twinDue = some 2 ∧ e.twinUp = true ∧ e.writesDone 0 = true ∧ (e.cas 0).twinOther = none ∧
    s.lowest (fun k => k.joined && k.twin) = some 0 ∧ s.twinUp = true ∧ (s.cas 0).twinOwn = none ∧ (s.cas 0).twinOrdinal < 1 ∧
    (s.cas 0).twinDue = none ∧ 0 ≤ (s.cas 0).twinOrdinal ∧
    o.lowest (fun k => k.joined && k.twin) = some 0 ∧ o.twinUp = true ∧ (o.cas 0).twinOwn = some (1, 0, []) ∧ d.twinUp = false ∧
    o.lowest (fun k => k.joined && k.twinOwn.isSome) = some 0 ∧ (o.cas 0).twinSince + 1000000000 ≤ o.ns ∧ o.err.inSecond < 2000000 := by decide +kernel

/-! ## Registers, the block and exact sums -/

theorem witness_RegisterWrites : up.mgt.moduleOn = true ∧ up.readReg 0 = none ∧ 2 ^ 33 < 2 ^ 64 ∧ 0x08 < 0x10 ∧
    (8 * 2 ^ 32 + 16 * 2 ^ 24) / 2 ^ 32 % 256 < (8 * 2 ^ 32 + 16 * 2 ^ 24) / 2 ^ 24 % 256 ∧ 0 < up.nCores ∧
    (up.core 0).working = false ∧ ((withCore { running := true }).core 0).working = true ∧ bit 1 3 = false ∧ bit 1 0 = true ∧
    (up.core 0).micro.on = false ∧ (withX { id := 1, tag := some 0 }).heldTags 0 ≠ [] := by decide +kernel

theorem witness_IdleStepIsTick : up.pending = [] ∧ up.now + 2 < 2 ^ 64 ∧ State.reset.mgt.moduleOn = false ∧ up.mgt.moduleOn = true ∧
    up.clk.slew = 0 ∧ ({ up.clk with slew := -1 } : Clocks).slew < 0 ∧ 0 < ({ up.clk with slew := 1 } : Clocks).slew := by decide +kernel

theorem witness_StepKeepsFuses : up.fuses.Kept up.fuses ∧ ∃ t, step up = .next t := ⟨⟨rfl, Nat.le_refl _⟩, ⟨_, rfl⟩⟩

theorem witness_StepKeepsMemoryForm : up.MemWf ∧ ∃ t, step up = .next t := ⟨⟨rfl, rfl⟩, ⟨_, rfl⟩⟩

/-- The module out of service holds no resource twice, and steps. -/
theorem witness_OwnershipKept : State.reset.OneOwner ∧ ∃ t, step State.reset = .next t :=
  ⟨⟨(by intro u p h; cases h), (by intro p h; cases h), (by intro p q _ h; cases h)⟩, ⟨_, rfl⟩⟩

theorem witness_ExecLeavesQueue : exec (.unsupportedFrame 0) up = .next { up with host := { up.host with drops := [(0, 1)] } } := rfl

theorem witness_StockpotOrderFree : ([⟨.finite, false, 1, 0⟩, ⟨.finite, true, 3, 0⟩] : List Dec).Perm [⟨.finite, true, 3, 0⟩, ⟨.finite, false, 1, 0⟩] ∧
    (-0x8000 : Int) ≤ 0 ∧ (0 : Int) ≤ 0x7FFC := ⟨.swap .., by decide, by decide⟩

end Sys2Proof.Tests
end

section
/-!
# Writes of register words (spec/00 R16, spec/01 R27, R32)

What a write of a register word does: first how an address is taken apart, then what a whole-word write of a register of the hub
or of a core comes down to, then each register of the statement.
-/
namespace Sys2Proof.Machine

/-! ## A write of all 64 bits -/

theorem mergeWord_allOnes (old : Nat) {v : Nat} (hv : v < 2 ^ 64) : mergeWord old v (2 ^ 64 - 1) = v := by
  have clear : BitVec.ofNat 64 old &&& ~~~ BitVec.ofNat 64 (2 ^ 64 - 1) = 0#64 := BitVec.and_zero
  have keep : BitVec.ofNat 64 v &&& BitVec.ofNat 64 (2 ^ 64 - 1) = BitVec.ofNat 64 v := BitVec.and_allOnes
  simp only [mergeWord, clear, keep, BitVec.zero_or, BitVec.toNat_ofNat, Nat.mod_eq_of_lt hv]

theorem onesOf_allOnes {v : Nat} (hv : v < 2 ^ 64) : onesOf v (2 ^ 64 - 1) = v := by
  have keep : BitVec.ofNat 64 v &&& BitVec.ofNat 64 (2 ^ 64 - 1) = BitVec.ofNat 64 v := BitVec.and_allOnes
  simp only [onesOf, keep, BitVec.toNat_ofNat, Nat.mod_eq_of_lt hv]

/-! ## Arrays of registers and lists of answers -/

theorem arrayAt_of_lt {base n count a : Nat} (h : a < base) : arrayAt base n count a = none := if_neg (by omega)

theorem arrayAt_of_ge {base n count a : Nat} (h : base + n * count ≤ a) : arrayAt base n count a = none := if_neg (by omega)

/-- Word `w` of entry `i`. -/
theorem arrayAt_entry {base n count i w : Nat} (hi : i < count) (hw : 8 * w < n) :
    arrayAt base n count (base + (n * i + 8 * w)) = some (i, w) := by
  have inside : n * i + 8 * w < n * count := by
    calc n * i + 8 * w < n * (i + 1) := by rw [Nat.mul_succ]; omega
      _ ≤ n * count := Nat.mul_le_mul_left n hi
  rw [arrayAt, if_pos (by omega), Nat.add_sub_cancel_left, Nat.mul_add_div (by omega), Nat.mul_add_mod,
    Nat.div_eq_of_lt hw, Nat.mod_eq_of_lt hw]
  simp

theorem firstSome_isSome {α : Type} {l : List (Option α)} {o : Option α} (hmem : o ∈ l) (ho : o.isSome = true) :
    (firstSome l).isSome = true := by
  induction l with
  | nil => cases hmem
  | cons x l ih =>
    cases x with
    | some y => rfl
    | none =>
      obtain rfl | h := List.mem_cons.mp hmem
      · cases ho
      · exact ih h

/-! ## Core register addresses -/

theorem State.perDie_bounds (s : State) : 0 < s.perDie ∧ s.perDie ≤ 72 := by
  unfold State.perDie; split <;> decide

theorem State.dieOf_lt {s : State} {c : Nat} (hc : c < s.nCores) : s.dieOf c < 4 :=
  Nat.div_lt_of_lt_mul (by rw [Nat.mul_comm]; exact hc)

theorem State.localOf_lt (s : State) (c : Nat) : s.localOf c < s.perDie := Nat.mod_lt _ s.perDie_bounds.1

theorem State.perDie_mul_dieOf_add_localOf (s : State) (c : Nat) : s.perDie * s.dieOf c + s.localOf c = c := Nat.div_add_mod ..

section
variable {s : State} {c off : Nat}

theorem State.coreRegAddr_lt_hub (hc : c < s.nCores) (ho : off < 0x4000000) : s.coreRegAddr c off < 0x90000000000 := by
  have hd := State.dieOf_lt hc
  have hl := s.localOf_lt c
  have hp := s.perDie_bounds
  unfold State.coreRegAddr; omega

theorem State.coreRegAddr_mod (h : off % 8 = 0) : s.coreRegAddr c off % 8 = 0 := by unfold State.coreRegAddr; omega

theorem slotOfReg_coreRegAddr (hc : c < s.nCores) (ho : off < 0x4000000) :
    slotOfReg (s.coreRegAddr c off) = some (s.dieOf c, s.localOf c, off) := by
  have hd := State.dieOf_lt hc
  have hl := s.localOf_lt c
  have hp := s.perDie_bounds
  unfold slotOfReg State.coreRegAddr
  rw [if_pos (by omega)]
  simp only [Option.some.injEq, Prod.mk.injEq]
  omega

theorem State.coreOfReg_of_slotOfReg {a d n : Nat} (h : slotOfReg a = some (d, n, off)) (hn : n < s.perDie) :
    s.coreOfReg a = some (s.perDie * d + n, off) := by
  rw [State.coreOfReg, h]; exact if_pos hn

/-- Below 0x6000 a slot holds no word of the slot tables. -/
theorem State.slotByte_of_slotOfReg {a d n : Nat} (h : slotOfReg a = some (d, n, off)) (ho : off < 0x6000) : s.slotByte a = none := by
  rw [State.slotByte, h]; exact if_neg (by omega)

theorem State.coreOfReg_coreRegAddr (hc : c < s.nCores) (ho : off < 0x4000000) :
    s.coreOfReg (s.coreRegAddr c off) = some (c, off) := by
  rw [State.coreOfReg_of_slotOfReg (slotOfReg_coreRegAddr hc ho) (s.localOf_lt c), s.perDie_mul_dieOf_add_localOf]

end

/-! ## What a write of a whole word comes down to -/

section
variable {s : State} {v : Nat}

theorem exec_registerWrite (a : Nat) (hon : s.mgt.moduleOn = true) :
    exec (.registerWrite a v) s = .next (s.writeReg a v (2 ^ 64 - 1)) := if_pos hon

theorem State.writeReg_of_readReg_none {a : Nat} (mask : Nat) (h : s.readReg a = none) : s.writeReg a v mask = s := by
  simp only [State.writeReg, h]

/-- A hub address at which a single register or an entry of an array answers has a register. -/
theorem State.readReg_hub_isSome {a : Nat} (h8 : a % 8 = 0) (ha : 0x90000000000 ≤ a) {o : Option Nat}
    (hmem : o ∈ s.hubWord a :: s.hubArrays a) (ho : o.isSome = true) : (s.readReg a).isSome = true := by
  rw [State.readReg, if_neg (by omega), if_pos ha]
  exact firstSome_isSome hmem ho

theorem exec_registerWrite_hub (hv : v < 2 ^ 64) (hon : s.mgt.moduleOn = true) {a : Nat} (h8 : a % 8 = 0) (ha : 0x90000000000 ≤ a)
    {o : Option Nat} (hmem : o ∈ s.hubWord a :: s.hubArrays a) (ho : o.isSome = true) :
    exec (.registerWrite a v) s = .next (s.writeHub a v v) := by
  obtain ⟨old, hold⟩ := Option.isSome_iff_exists.mp (State.readReg_hub_isSome h8 ha hmem ho)
  rw [exec_registerWrite a hon]
  simp only [State.writeReg, hold, if_pos ha, mergeWord_allOnes old hv, onesOf_allOnes hv]

/-- A word of a core's slot that is one of its single registers. -/
theorem State.writeReg_of_coreOfReg {a c off : Nat} (hv : v < 2 ^ 64) (h8 : a % 8 = 0) (ha : a < 0x90000000000) (hslot : s.slotByte a = none)
    (hcore : s.coreOfReg a = some (c, off)) (hw : (s.coreWord c off).isSome = true) :
    s.writeReg a v (2 ^ 64 - 1) = s.writeCore c off v v := by
  have below : ¬ 0x90000000000 ≤ a := Nat.not_le.mpr ha
  have hread : (s.readReg a).isSome = true := by
    rw [State.readReg, if_neg (not_not.mpr h8), if_neg below, hslot, hcore]
    exact firstSome_isSome List.mem_cons_self hw
  obtain ⟨old, hold⟩ := Option.isSome_iff_exists.mp hread
  simp only [State.writeReg, hold, if_neg below, hslot, hcore, mergeWord_allOnes old hv, onesOf_allOnes hv]

theorem exec_registerWrite_core (hv : v < 2 ^ 64) (hon : s.mgt.moduleOn = true) {c off : Nat} (hc : c < s.nCores) (h8 : off % 8 = 0)
    (hoff : off < 0x6000) (hw : (s.coreWord c off).isSome = true) :
    exec (.registerWrite (s.coreRegAddr c off) v) s = .next (s.writeCore c off v v) := by
  have inSlot : off < 0x4000000 := by omega
  rw [exec_registerWrite _ hon, State.writeReg_of_coreOfReg hv (State.coreRegAddr_mod h8) (State.coreRegAddr_lt_hub hc inSlot)
    (State.slotByte_of_slotOfReg (slotOfReg_coreRegAddr hc inSlot) hoff) (State.coreOfReg_coreRegAddr hc inSlot) hw]

end

/-! ## Registers of the hub, the links and the clocks -/

@[simp] theorem State.writeDiscarded_clk (s : State) (a : Nat) : (s.writeDiscarded a).clk = s.clk := State.logEntry_clk ..

@[simp] theorem State.writeDiscarded_cores (s : State) (a : Nat) : (s.writeDiscarded a).cores = s.cores := State.logEntry_cores ..

theorem bits_zero (v hi : Nat) : bits v hi 0 = v % 2 ^ (hi + 1) := by rw [bits, Nat.pow_zero, Nat.div_one, Nat.sub_zero]

/-- CAP of CLK_STEP is written by STEP_CAP_SET alone. -/
theorem State.writeHub_clkStep (s : State) (v ones : Nat) :
    s.writeHub 0x90300000000 v ones = s.writeDiscarded 0x90300000000 := if_pos rfl

theorem State.writeHub_timeCtl (s : State) (v ones : Nat) :
    s.writeHub 0x90300010008 v ones = { s with clk := { s.clk with
      source := v % 4, ownSource := if v % 4 = 3 then s.clk.ownSource else v % 4, toGo := if v % 4 = s.clk.source then s.clk.toGo else 0 } } := by
  rw [State.writeHub, if_neg (by decide), if_pos rfl, bits_zero]
  rfl

theorem State.writeHub_timeStep (s : State) (v ones : Nat) : s.writeHub 0x90300010018 v ones = s.timeStep (signed 64 ones) := by
  rw [State.writeHub, if_neg (by decide), if_neg (by decide), if_pos rfl]

theorem arrayAt_linkStat {l : Nat} (hl : l < 64) : arrayAt 0x90100000000 8 64 (0x90100000000 + 8 * l) = some (l, 0) :=
  arrayAt_entry (w := 0) hl (by omega)

theorem arrayAt_replica {r : Nat} (hr : r < 16) : arrayAt 0x90300000100 8 16 (0x90300000100 + 8 * r) = some (r, 0) :=
  arrayAt_entry (w := 0) hr (by omega)

/-- The writable arrays of the hub lie below the link registers. -/
theorem hubArrays_below_links {a : Nat} (ha : 0x90100000000 ≤ a) :
    arrayAt 0x90000100000 16 2048 a = none ∧ arrayAt 0x90000200000 8 640 a = none ∧ arrayAt 0x90000280000 8 32 a = none ∧
      arrayAt 0x90000300800 8 8 a = none :=
  ⟨arrayAt_of_ge (by omega), arrayAt_of_ge (by omega), arrayAt_of_ge (by omega), arrayAt_of_ge (by omega)⟩

/-- LNK_STAT is RO. -/
theorem State.writeHub_linkStat (s : State) {l : Nat} (hl : l < 64) (v ones : Nat) : s.writeHub (0x90100000000 + 8 * l) v ones = s := by
  obtain ⟨hwin, hchan, hbucket, hwt⟩ := hubArrays_below_links (Nat.le_add_right 0x90100000000 (8 * l))
  have hrep : arrayAt 0x90300000100 8 16 (0x90100000000 + 8 * l) = none := arrayAt_of_lt (by omega)
  rw [State.writeHub, if_neg (by omega), if_neg (by omega), if_neg (by omega), hwin, hchan, hbucket, hwt, hrep]

theorem State.writeHub_replica (s : State) {r : Nat} (hr : r < 16) (v ones : Nat) :
    s.writeHub (0x90300000100 + 8 * r) v ones = s.writeReplica r v ones := by
  obtain ⟨hwin, hchan, hbucket, hwt⟩ := hubArrays_below_links (a := 0x90300000100 + 8 * r) (by omega)
  rw [State.writeHub, if_neg (by omega), if_neg (by omega), if_neg (by omega), hwin, hchan, hbucket, hwt, arrayAt_replica hr]

theorem State.replica_writeReplica {s : State} {r v ones : Nat} (h : bits v 39 32 < bits v 31 24) :
    (s.writeReplica r v ones).replica r = { s.replica r with
      warnTh := bits v 31 24, alarmTh := bits v 39 32, warn := (s.replica r).warn && !bit ones 16,
      alarm := (s.replica r).alarm && !bit ones 17 } := by
  rw [State.writeReplica, if_neg (Nat.not_le.mpr h), State.replica_modReplica, if_pos rfl]

theorem arrayAt_window {p w word : Nat} (hp : p < 8) (hw : w < 256) (hword : word < 2) :
    arrayAt 0x90000100000 16 2048 (0x90000100000 + 16 * (256 * p + w) + 8 * word) = some (256 * p + w, word) := by
  rw [Nat.add_assoc]; exact arrayAt_entry (by omega) (by omega)

theorem windowNumber_split (p : Nat) {w : Nat} (hw : w < 256) : (256 * p + w) / 256 = p ∧ (256 * p + w) % 256 = w := by omega

theorem State.writeHub_window (s : State) {p w word : Nat} (hp : p < 8) (hw : w < 256) (hword : word < 2) (v ones : Nat) :
    s.writeHub (0x90000100000 + 16 * (256 * p + w) + 8 * word) v ones = s.modWindow p w fun x => x.write word v := by
  obtain ⟨hpart, hidx⟩ := windowNumber_split p hw
  rw [State.writeHub, if_neg (by omega), if_neg (by omega), if_neg (by omega), arrayAt_window hp hw hword]
  simp only [hpart, hidx]

theorem Window.write_base (x : Window) (v : Nat) : x.write 0 v = { x with base := v % 2 ^ 44 } := by
  rw [Window.write, if_pos rfl, bits_zero]

theorem Window.write_control (x : Window) {v : Nat} (hv : v < 2 ^ 64) :
    x.write 1 v = { x with epoch := v % 2 ^ 16, isOpen := bit v 16, kind := bits v 17 17, core := bits v 26 18, slot := bits v 31 27,
                           len := v / 2 ^ 32 } := by
  have hlen : bits v 63 32 = v / 2 ^ 32 := Nat.mod_eq_of_lt (Nat.div_lt_of_lt_mul hv)
  rw [Window.write, if_neg (by decide), bits_zero, hlen]

/-- A write of a word of HUB_WIN writes that word of the window; the cores and memory stand as they did. -/
theorem leads_registerWrite_window {s : State} {v : Nat} (hv : v < 2 ^ 64) (hon : s.mgt.moduleOn = true) {p w word : Nat} (hp : p < 8)
    (hw : w < 256) (hword : word < 2) :
    Leads (exec (.registerWrite (0x90000100000 + 16 * (256 * p + w) + 8 * word) v) s) fun t =>
      t.window p w = (s.window p w).write word v ∧ t.cores = s.cores ∧ t.mem = s.mem := by
  have hmem : some (half (s.window p w).reg word) ∈ s.hubArrays (0x90000100000 + 16 * (256 * p + w) + 8 * word) := by
    obtain ⟨hpart, hidx⟩ := windowNumber_split p hw
    simp [State.hubArrays, arrayAt_window hp hw hword, hpart, hidx, State.window]
  refine ⟨_, exec_registerWrite_hub hv hon (by omega) (by omega) (List.mem_cons_of_mem _ hmem) rfl, ?_⟩
  rw [State.writeHub_window s hp hw hword]
  exact ⟨by simp [State.window_modWindow], rfl, rfl⟩

/-! ## Registers of a core -/

theorem State.coreEffect_modCore (s : State) (c : Nat) (f : Core → Core) : s.CoreEffect (s.modCore c f) c (f (s.core c)) :=
  ⟨by simp, fun d hd => by simp [hd.symm], rfl⟩

section
variable (s : State) (c v ones : Nat)

/-- CORE_CYCLE is RO. -/
theorem State.writeCore_cycle : s.writeCore c 0x0C0 v ones = s := rfl

theorem State.writeCore_arith : s.writeCore c 0x180 v ones = s.modCore c fun k => { k with arith := k.arith.w1c ones } := if_pos rfl

theorem State.writeCore_rate :
    s.writeCore c 0x500 v ones = s.modCore c fun k => { k with rate := v % 2 ^ 12, burst := v / 2 ^ 16 % 2 ^ 16 } := by
  rw [State.writeCore, if_neg (by decide), if_neg (by decide), if_neg (by decide), if_pos rfl, bits_zero]
  rfl

theorem State.writeCore_microLimit : s.writeCore c 0x408 v ones = s.writeMicroLimit c (v % 2 ^ 32) := by
  rw [State.writeCore, if_neg (by decide), if_neg (by decide), if_pos rfl, bits_zero]

theorem State.writeCore_microCtl :
    s.writeCore c 0x400 v ones = s.writeMicroCtl c (bit v 0) (bit v 1) (bit ones 2) (bit ones 3) (bits v 50 32) := by
  rw [State.writeCore, if_neg (by decide), if_pos rfl]

end

theorem State.writeMicroCtl_of_working {s : State} {c : Nat} (h : (s.core c).working = true) (micro priv go : Bool) (entry : Nat) :
    s.writeMicroCtl c micro priv go false entry = s.writeDiscarded (s.coreRegAddr c 0x400) := by
  simp [State.writeMicroCtl, h]

theorem State.writeMicroCtl_of_heldTags {s : State} {c : Nat} (hidle : (s.core c).working = false) (hoff : (s.core c).micro.on = false)
    (htags : s.heldTags c ≠ []) (priv go abort : Bool) (entry : Nat) :
    s.writeMicroCtl c true priv go abort entry = s.writeDiscarded (s.coreRegAddr c 0x400) := by
  simp [State.writeMicroCtl, hidle, hoff, htags]

theorem State.writeMicroLimit_of_idle {s : State} {c : Nat} (h : (s.core c).working = false) (us : Nat) :
    s.writeMicroLimit c us = s.modCore c fun k => { k with micro := { k.micro with limit := us } } := by
  simp [State.writeMicroLimit, h]

/-! ## The statement -/

/-- Settles O59: each clause is the write lemma of its register's block (hub or core), followed by the lemma of that register. -/
theorem registerWrites : Obligations.RegisterWrites := by
  intro s v hv hon
  have hub (a : Nat) (h8 : a % 8 = 0) (ha : 0x90000000000 ≤ a) (hw : (s.hubWord a).isSome = true) :=
    exec_registerWrite_hub hv hon h8 ha List.mem_cons_self hw
  refine ⟨?absent, ?linkStat, ?clkStep, ?discard, ?timeCtl, ?timeStep, ?replica, ?window, ?core⟩
  case absent =>
    intro a ha
    rw [exec_registerWrite a hon, State.writeReg_of_readReg_none _ ha]
  case linkStat =>
    intro l hl
    have hmem : some (s.linkStat l) ∈ s.hubArrays (0x90100000000 + 8 * l) := by
      simp [State.hubArrays, arrayAt_linkStat hl]
    rw [exec_registerWrite_hub hv hon (by omega) (by omega) (List.mem_cons_of_mem _ hmem) rfl, State.writeHub_linkStat s hl]
  case clkStep => exact (hub _ rfl (by decide) rfl).trans (congrArg _ (s.writeHub_clkStep v v))
  case timeCtl => exact (hub _ rfl (by decide) rfl).trans (congrArg _ (s.writeHub_timeCtl v v))
  case timeStep => exact (hub _ rfl (by decide) rfl).trans (congrArg _ (s.writeHub_timeStep v v))
  case discard => exact fun a => ⟨s.writeDiscarded_clk a, s.writeDiscarded_cores a⟩
  case replica =>
    intro r hr hth
    have hmem : some (s.replica r).reg ∈ s.hubArrays (0x90300000100 + 8 * r) := by
      simp [State.hubArrays, arrayAt_replica hr]
    refine ⟨_, exec_registerWrite_hub hv hon (by omega) (by omega) (List.mem_cons_of_mem _ hmem) rfl, ?_⟩
    rw [State.writeHub_replica s hr]
    exact State.replica_writeReplica hth
  case window =>
    intro p w hp hw
    constructor
    · obtain ⟨t, ht, hwin, hcores, hmem⟩ := leads_registerWrite_window (word := 0) hv hon hp hw (by decide)
      exact ⟨t, ht, hwin.trans (Window.write_base ..), hcores, hmem⟩
    · obtain ⟨t, ht, hwin, -, -⟩ := leads_registerWrite_window (word := 1) hv hon hp hw (by decide)
      rw [Window.write_control _ hv] at hwin
      refine ⟨t, ht, ?_⟩
      beta_reduce
      rw [hwin]
      exact ⟨rfl, rfl, rfl, rfl, rfl⟩
  case core =>
    intro c hc
    have core (off : Nat) := exec_registerWrite_core (off := off) hv hon hc
    refine ⟨?arith, ?rate, (core 0x0C0 rfl (by decide) rfl).trans (congrArg _ (s.writeCore_cycle c v v)), ?limit, ?working, ?held⟩
    case arith =>
      refine ⟨_, core 0x180 rfl (by decide) rfl, ?_⟩
      rw [State.writeCore_arith]
      exact s.coreEffect_modCore c _
    case rate =>
      refine ⟨_, core 0x500 rfl (by decide) rfl, ?_⟩
      rw [State.writeCore_rate]
      exact s.coreEffect_modCore c _
    case limit =>
      intro hidle
      refine ⟨_, core 0x408 rfl (by decide) rfl, ?_⟩
      rw [State.writeCore_microLimit, State.writeMicroLimit_of_idle hidle]
      exact s.coreEffect_modCore c _
    case working =>
      intro hwork habort
      rw [core 0x400 rfl (by decide) rfl, State.writeCore_microCtl, habort, State.writeMicroCtl_of_working hwork]
    case held =>
      intro hidle hoff htags hmicro
      rw [core 0x400 rfl (by decide) rfl, State.writeCore_microCtl, hmicro, State.writeMicroCtl_of_heldTags hidle hoff htags]

end Sys2Proof.Machine
end

section
/-!
# Exact sums (spec/02 R66 to R70)

The elements of one L form a commutative monoid under `Elem.plus`: V adds modulo 2^128 and S merges (R66). A product or a stock word adds
to an element as the element that holds that term alone, so neither the order of the terms nor the way a sum is split can be seen.
-/
namespace Sys2Proof.Machine

/-! ## Classes -/

theorem mergeCls_comm (a b : Cls) : mergeCls a b = mergeCls b a := by
  cases a <;> cases b <;> rfl

theorem mergeCls_assoc (a b c : Cls) : mergeCls (mergeCls a b) c = mergeCls a (mergeCls b c) := by
  cases a <;> cases b <;> cases c <;> rfl

@[simp] theorem mergeCls_finite_left (a : Cls) : mergeCls .finite a = a := rfl

@[simp] theorem mergeCls_finite_right (a : Cls) : mergeCls a .finite = a := by
  cases a <;> rfl

theorem mergeCls_eq_finite_iff {a b : Cls} : mergeCls a b = .finite ↔ a = .finite ∧ b = .finite := by
  cases a <;> cases b <;> decide

/-! ## Sums of elements -/

/-- The sum of two elements that share L (R66). -/
def Elem.plus (x y : Elem) : Elem := { x with v := x.v + y.v, s := mergeCls x.s y.s }

theorem Elem.plus_assoc (x y z : Elem) : (x.plus y).plus z = x.plus (y.plus z) := by
  simp only [Elem.plus, BitVec.add_assoc, mergeCls_assoc]

theorem Elem.plus_right_comm (x y z : Elem) : (x.plus y).plus z = (x.plus z).plus y := by
  simp only [Elem.plus, BitVec.add_assoc, mergeCls_assoc, BitVec.add_comm y.v, mergeCls_comm y.s]

/-- An element as it is opened (R59). -/
def Elem.opened (l : Int) : Elem := { v := 0, l := l, s := .finite }

@[simp] theorem Elem.opened_l (l : Int) : (Elem.opened l).l = l := rfl

@[simp] theorem Elem.plus_opened (x : Elem) (l : Int) : x.plus (.opened l) = x := by
  simp [Elem.plus, Elem.opened]

/-! ## Products added to an element -/

@[simp] theorem addProduct_l (x : Elem) (d : Dec) : (addProduct x d).l = x.l := by
  unfold addProduct
  split <;> rfl

theorem addProduct_eq_plus (x : Elem) (d : Dec) : addProduct x d = x.plus (addProduct (.opened x.l) d) := by
  unfold addProduct
  split
  case isTrue special => simp [Elem.plus, Elem.opened]
  case isFalse finite => simp [Elem.plus, Elem.opened]

theorem addProduct_addProduct (x : Elem) (d e : Dec) :
    addProduct (addProduct x d) e = (x.plus (addProduct (.opened x.l) d)).plus (addProduct (.opened x.l) e) := by
  rw [addProduct_eq_plus (addProduct x d) e, addProduct_l, ← addProduct_eq_plus x d]

theorem addProduct_right_comm (x : Elem) (d e : Dec) : addProduct (addProduct x d) e = addProduct (addProduct x e) d := by
  rw [addProduct_addProduct, Elem.plus_right_comm, ← addProduct_addProduct]

theorem foldl_addProduct_perm {ds es : List Dec} (h : ds.Perm es) (x : Elem) : ds.foldl addProduct x = es.foldl addProduct x :=
  h.foldl_eq' (fun d _ e _ y => addProduct_right_comm y d e) x

@[simp] theorem foldl_addProduct_l (ds : List Dec) (x : Elem) : (ds.foldl addProduct x).l = x.l := by
  induction ds generalizing x with
  | nil => rfl
  | cons d ds ih => rw [List.foldl_cons, ih, addProduct_l]

/-- Adding products one by one adds their sum. -/
theorem foldl_addProduct_eq_plus (es : List Dec) (x : Elem) :
    es.foldl addProduct x = x.plus (es.foldl addProduct (.opened x.l)) := by
  induction es generalizing x with
  | nil => exact (Elem.plus_opened ..).symm
  | cons e es ih =>
    let term := addProduct (.opened x.l) e
    calc es.foldl addProduct (addProduct x e)
        = (addProduct x e).plus (es.foldl addProduct (.opened x.l)) := by rw [ih, addProduct_l]
      _ = x.plus (term.plus (es.foldl addProduct (.opened x.l))) := by rw [addProduct_eq_plus, Elem.plus_assoc]
      _ = x.plus (es.foldl addProduct term) := by rw [ih term, addProduct_l, Elem.opened_l]

/-! ## Stock words -/

/-- The anchors that mark a class lie above every L of a finite element (R68). -/
theorem StockWord.special_eq_none {w : StockWord} (h : w.anchor.toInt ≤ 0x7FFC) : w.special = none := by
  have unmarked : w.anchor.toNat ≠ 0x7FFD ∧ w.anchor.toNat ≠ 0x7FFE ∧ w.anchor.toNat ≠ 0x7FFF := by
    rw [BitVec.toInt_eq_toNat_cond] at h
    split at h <;> omega
  unfold StockWord.special
  split <;> simp_all

theorem Elem.word_value_of_finite {y : Elem} (h : y.s = .finite) : y.word.value = y.v := by
  simp only [Elem.word, h]

theorem Elem.special_word_of_special {y : Elem} (h : y.s ≠ .finite) : y.word.special = some y.s := by
  cases hs : y.s with
  | finite => exact absurd hs h
  | posInf | negInf | nan => simp [Elem.word, StockWord.special, hs]

section
variable {y : Elem} (lo : -0x8000 ≤ y.l) (hi : y.l ≤ 0x7FFC)
include lo hi

theorem Elem.word_anchor_of_finite (h : y.s = .finite) : y.word.anchor.toInt = y.l := by
  simp only [Elem.word, h]
  exact BitVec.toInt_ofInt_eq_self (by decide) (by omega) (by omega)

theorem Elem.special_word_of_finite (h : y.s = .finite) : y.word.special = none :=
  StockWord.special_eq_none ((Elem.word_anchor_of_finite lo hi h).trans_le hi)

theorem Elem.clashes_word {x : Elem} (hl : y.l = x.l) : y.word.clashes x = false := by
  by_cases h : y.s = .finite
  case pos => simp [StockWord.clashes, Elem.word_anchor_of_finite lo hi h, hl]
  case neg => simp [StockWord.clashes, Elem.special_word_of_special h]

theorem addStockWord_word_of_finite (x : Elem) (h : y.s = .finite) : addStockWord x y.word = x.plus y := by
  simp only [addStockWord, Elem.special_word_of_finite lo hi h, Elem.word_value_of_finite h, Elem.plus, h, mergeCls_finite_right]

end

/-- A special value shows its class alone (R67). -/
theorem Elem.dec_of_special {x y : Elem} (hs : x.s = y.s) (h : y.s ≠ .finite) : x.dec = y.dec := by
  cases hy : y.s with
  | finite => exact absurd hy h
  | posInf | negInf | nan => simp only [Elem.dec, hs, hy]

/-- A stock word adds the value of the element it was made of: V and S of a finite one, and of a special one the class, which hides V. -/
theorem dec_addStockWord_word {y : Elem} (lo : -0x8000 ≤ y.l) (hi : y.l ≤ 0x7FFC) (x : Elem) :
    (addStockWord x y.word).dec = (x.plus y).dec := by
  by_cases h : y.s = .finite
  case pos => rw [addStockWord_word_of_finite lo hi x h]
  case neg =>
    have merged : (addStockWord x y.word).s = (x.plus y).s := by
      simp only [addStockWord, Elem.special_word_of_special h, Elem.plus]
    exact Elem.dec_of_special merged fun fin => h (mergeCls_eq_finite_iff.mp fin).2

/-! ## The statement -/

/-- Settles O60: the order by `foldl_addProduct_perm`; the split since the whole sum is the sum of its parts, and a stock word adds the
value of its element. -/
theorem stockpotOrderFree : Obligations.StockpotOrderFree := by
  refine ⟨fun x ds es h => foldl_addProduct_perm h x, fun l ds es f mode lo hi => ?_⟩
  intro zero part
  have lPart : (es.foldl addProduct zero).l = l := foldl_addProduct_l es zero
  have lSum : (ds.foldl addProduct zero).l = l := foldl_addProduct_l ds zero
  have lo' := lPart.symm ▸ lo
  have hi' := lPart.symm ▸ hi
  refine ⟨Elem.clashes_word lo' hi' (lPart.trans lSum.symm), ?_⟩
  calc drainElem f (addStockWord (ds.foldl addProduct zero) part) mode
      = drainElem f ((ds.foldl addProduct zero).plus (es.foldl addProduct zero)) mode :=
        congrArg (encode f · mode) (dec_addStockWord_word lo' hi' _)
    _ = drainElem f ((ds ++ es).foldl addProduct zero) mode := by
        rw [List.foldl_append, foldl_addProduct_eq_plus es (ds.foldl addProduct zero), lSum, Elem.opened]

end Sys2Proof.Machine
end

section
/-!
# Issue of a due op (spec/03 R92, spec/06 R157)

What the station's look changes, what `dueIssue` says, and the state in which an op's own effect takes place.
-/
namespace Sys2Proof.Machine

/-! ## What a chain of checks gives -/

/-- Whatever a chain of checks gives satisfies `P`. -/
def Gives {α : Type} (x : Check α) (P : α → Prop) : Prop := ∀ a, x = .ok a → P a

section
variable {α β : Type} {P : α → Prop}

theorem gives_ok {a : α} (h : P a) : Gives (.ok a) P := by
  rintro _ ⟨⟩
  exact h

theorem gives_error (e : Stop) : Gives (.error e) P := by
  rintro _ ⟨⟩

theorem gives_bind {x : Check β} {f : β → Check α} (h : ∀ b, Gives (f b) P) : Gives (x >>= f) P := by
  cases x with
  | error e => exact gives_error e
  | ok b => exact h b

end

/-- What passes every check of R157 is what the op's own plan gives. -/
theorem gives_legality (plan : PlanFn) (s : State) (c : Nat) (o : Op) : Gives (legality plan s c o) fun l => plan s c o = .ok l := by
  unfold legality
  split
  · exact gives_bind fun _ => gives_bind fun _ _ h => h
  · exact fun _ h => h

/-! ## Two writes of one core -/

section
variable {α : Type}

theorem Tab.put_put (k : Nat) (v w : α) (t : Tab α) : Tab.put k w (Tab.put k v t) = Tab.put k w t := by
  induction t with
  | nil => simp [Tab.put]
  | cons x t ih =>
    simp only [Tab.put]
    split
    · simp [Tab.put]
    · split
      · simp [Tab.put]
      · simp [Tab.put, *]

theorem Tab.del_put (k : Nat) (v : α) (t : Tab α) : Tab.del k (Tab.put k v t) = Tab.del k t := by
  induction t with
  | nil => simp [Tab.put, Tab.del]
  | cons x t ih =>
    simp only [Tab.put]
    split
    · simp [Tab.del]
    · split
      · subst_vars; simp [Tab.del]
      · simp [Tab.del, ih]

/-- The second write of a key counts, where the first one did not remove it. -/
theorem Tab.set_set [DecidableEq α] {d v : α} (hv : v ≠ d) (t : Tab α) (k : Nat) (w : α) :
    Tab.set d (Tab.set d t k v) k w = Tab.set d t k w := by
  by_cases hw : w = d
  · simp [Tab.set, hv, hw, Tab.del_put]
  · simp [Tab.set, hv, hw, Tab.put_put]

end

/-! ## The look at a core's next op -/

theorem Core.notePassed_eq (k : Core) (o : Op) (cyc : Nat) : k.notePassed o cyc = { k with passed := (k.notePassed o cyc).passed } := by
  unfold Core.notePassed
  generalize o.waits.zip [0, 1] = ws
  induction ws generalizing k with
  | nil => rfl
  | cons w ws ih =>
    rw [List.foldl_cons, ih]
    split <;> rfl

/-- A core whose station has looked at its next op: `n` holds the waits that have passed. -/
def Core.looked (k : Core) (cyc now n : Nat) : Core := { k with tried := cyc + 1, dueStamp := some (k.dueStamp.getD now), passed := n }

theorem State.core_look (s : State) (c : Nat) :
    (s.look c).core c = (s.core c).looked s.cyc s.coreNow ((s.look c).core c).passed := by
  simp only [State.look, State.core_modCore, if_true]
  split
  · rw [Core.notePassed_eq]; rfl
  · rfl

/-- A look changes what the station keeps of it. -/
theorem State.coreEffect_look (s : State) (c : Nat) :
    s.CoreEffect (s.look c) c ((s.core c).looked s.cyc s.coreNow ((s.look c).core c).passed) :=
  ⟨s.core_look c, fun d hd => by simp [State.look, hd.symm], rfl⟩

@[simp] theorem State.look_cyc (s : State) (c : Nat) : (s.look c).cyc = s.cyc := rfl
@[simp] theorem State.look_coreNow (s : State) (c : Nat) : (s.look c).coreNow = s.coreNow := rfl

@[simp] theorem State.nextOp_look (s : State) (c : Nat) : ((s.look c).core c).nextOp = (s.core c).nextOp := by
  rw [State.core_look]; rfl

theorem State.look_ne_default (s : State) (c : Nat) (b : Option (List Byte)) :
    { (s.look c).core c with legalBlk := b } ≠ ({} : Core) := by
  rw [State.core_look]
  exact fun h => absurd (congrArg Core.tried h) (Nat.succ_ne_zero _)

/-! ## What issues -/

/-- What `dueIssue` answers with: nothing is in the op's way, it is legal, there are tags enough, and it passes the checks of its issue
cycle. -/
theorem State.dueIssue_spec {s : State} {c : Nat} {i : Issue} (h : s.dueIssue c = some i) :
    s.clear c = true ∧ ∃ l, legality (planFor (s.core c).nextOp) (s.look c) c (s.core c).nextOp = .ok l ∧
      l.tags ≤ ((s.look c).freeTags c).length ∧ l.go = .ok i ∧
      ((s.look c).core c).checkIssue i s.cyc (s.core c).nextOp.addr = .ok () := by
  simp only [State.dueIssue, State.nextOp_look] at h
  split at h
  case isFalse => cases h
  case isTrue hclear =>
  split at h
  case h_2 => cases h
  case h_1 l hl =>
  split at h
  case isFalse => cases h
  case isTrue htags =>
  split at h
  case h_2 => cases h
  case h_1 j hj =>
  split at h
  case h_2 => cases h
  case h_1 hcheck =>
    cases h
    exact ⟨hclear, l, hl, htags, hj, hcheck⟩

/-- An op with nothing in its way: its core's station offers it, it stands in a valid block, was not found illegal, and its waits pass. -/
theorem State.clear_spec {s : State} {c : Nat} (h : s.clear c = true) :
    s.offered c = true ∧ ((s.look c).core c).blockValid ((s.look c).core c).next = true ∧ ((s.look c).core c).illDue = false ∧
      ((s.look c).core c).waits (s.core c).nextOp s.cyc s.coreNow = .pass := by
  simpa [State.clear, and_assoc] using h

/-! ## The issue -/

/-- A core as its op issues: the entries and windows of the op, its place among the ops not yet complete, what is to come, the next op. -/
def Core.issued (k : Core) (o : Op) (i : Issue) (cyc stamp tag id : Nat) : Core :=
  let rs := i.ranges.map fun r => { r with retire := r.retire.map (· + cyc) }
  let k := (k.register rs (k.freeEntries false cyc) o.addr tag 0 stamp id).grant i.windows cyc o.addr
  let own : PendOp := { id := id, opAddr := o.addr, queueOp := i.queueOp, completeAt := i.done.map (· + cyc), left := i.left,
                        sigs := if i.silent then [] else i.signalsOf o, mark := none }
  let k := if i.control then k else { k with pend := k.pend ++ [own] }
  ({ k with later := k.later ++ i.faults.map fun f => (cyc + f.1, Late.fault f.2),
            wp0 := k.wp0 ++ i.wp0.map fun w => (cyc + w.1, w.2, o.addr) } : Core).advanceOp o.addr o.dur cyc

section
variable (k : Core) (o : Op) (i : Issue) (cyc stamp tag id : Nat)

/-- Whether the checks of an op are noted makes no difference once it issues. -/
theorem Core.issued_noteLegal (p : Op) : (k.noteLegal p).issued o i cyc stamp tag id = k.issued o i cyc stamp tag id := by
  unfold Core.issued
  cases i.control <;> rfl

@[simp] theorem Core.issued_due : (k.issued o i cyc stamp tag id).due = cyc + max o.dur 1 := rfl

@[simp] theorem Core.issued_next : (k.issued o i cyc stamp tag id).next = (afterIssue o.addr k.loops 5).1 := by
  unfold Core.issued
  cases i.control <;> rfl

@[simp] theorem Core.issued_loops : (k.issued o i cyc stamp tag id).loops = (afterIssue o.addr k.loops 5).2 := by
  unfold Core.issued
  cases i.control <;> rfl

@[simp] theorem Core.issued_windows : (k.issued o i cyc stamp tag id).windows = (k.grant i.windows cyc o.addr).windows := by
  unfold Core.issued
  cases i.control <;> rfl

@[simp] theorem Core.issued_scratch : (k.issued o i cyc stamp tag id).scratch = k.scratch := by
  unfold Core.issued
  cases i.control <;> rfl

@[simp] theorem Core.issued_cnts : (k.issued o i cyc stamp tag id).cnts = k.cnts := by
  unfold Core.issued
  cases i.control <;> rfl

@[simp] theorem Core.issued_stock : (k.issued o i cyc stamp tag id).stock = k.stock := by
  unfold Core.issued
  cases i.control <;> rfl

@[simp] theorem Core.issued_startCyc : (k.issued o i cyc stamp tag id).startCyc = k.startCyc := by
  unfold Core.issued
  cases i.control <;> rfl

@[simp] theorem Core.issued_micro : (k.issued o i cyc stamp tag id).micro = k.micro := by
  unfold Core.issued
  cases i.control <;> rfl

theorem Core.issued_pend_of_control (h : i.control = true) : (k.issued o i cyc stamp tag id).pend = k.pend := by
  unfold Core.issued
  rw [h]
  rfl

end

/-- The state in which an op's own effect takes place. -/
def State.ahead (s : State) (c : Nat) (o : Op) (i : Issue) : State :=
  ({ s with nextId := s.nextId + 1 }.setCore c ((s.core c).issued o i s.cyc s.coreStamp
    (if i.queueOp then (s.freeTags c).headD 0 else 0) s.nextId)).traceOp c o

theorem State.issue_eq_effect (s : State) (c : Nat) (o : Op) (i : Issue) : s.issue c o i = i.effect s.nextId (s.ahead c o i) := rfl

theorem State.ahead_noteLegal {s : State} {c : Nat} {p : Op} (hne : (s.core c).noteLegal p ≠ {}) (o : Op) (i : Issue) :
    (s.modCore c fun k => k.noteLegal p).ahead c o i = s.ahead c o i := by
  have core : (s.modCore c fun k => k.noteLegal p).core c = (s.core c).noteLegal p := by simp
  have once (n : Nat) (m : Core) :
      ({ s.setCore c ((s.core c).noteLegal p) with nextId := n } : State).setCore c m = { s with nextId := n }.setCore c m := by
    simp [State.setCore, Tab.set_set hne]
  unfold State.ahead
  rw [core, Core.issued_noteLegal]
  exact congrArg (State.traceOp · c o) (once ..)

theorem State.issue_noteLegal {s : State} {c : Nat} {p : Op} (hne : (s.core c).noteLegal p ≠ {}) (o : Op) (i : Issue) :
    (s.modCore c fun k => k.noteLegal p).issue c o i = s.issue c o i := by
  rw [State.issue_eq_effect, State.issue_eq_effect, State.ahead_noteLegal hne, State.modCore_nextId]

/-- A legal op whose waits have passed, with tags enough, issues if it passes the checks of its issue cycle. -/
theorem State.tryIssue_noteLegal {s : State} {c : Nat} {o : Op} {l : Legal} {i : Issue} (hne : (s.core c).noteLegal o ≠ {})
    (hwaits : (s.core c).waits o s.cyc s.coreNow = .pass) (htags : l.tags ≤ (s.freeTags c).length) (hgo : l.go = .ok i)
    (hcheck : (s.core c).checkIssue i s.cyc o.addr = .ok ()) :
    (s.modCore c fun k => k.noteLegal o).tryIssue c o l = s.issue c o i := by
  have enough : ¬ (s.freeTags c).length < l.tags := by omega
  have tags : (s.modCore c fun k => k.noteLegal o).freeTags c = s.freeTags c := rfl
  have now : (s.modCore c fun k => k.noteLegal o).coreNow = s.coreNow := rfl
  have waits : ((s.core c).noteLegal o).waits o s.cyc s.coreNow = .pass := hwaits
  have check : ((s.core c).noteLegal o).checkIssue i s.cyc o.addr = .ok () := hcheck
  simp only [State.tryIssue, State.core_modCore, if_true, State.cyc_modCore, now, waits, tags, enough, decide_false,
    Bool.false_eq_true, if_false, hgo, check, State.issue_noteLegal hne]

/-! ### What stands ahead of the effect -/

section
variable (s : State) (c : Nat) (o : Op)

@[simp] theorem State.traceOp_cores : (s.traceOp c o).cores = s.cores := by
  unfold State.traceOp
  split
  · split <;> simp
  · rfl

@[simp] theorem State.traceOp_xfers : (s.traceOp c o).xfers = s.xfers := by
  unfold State.traceOp
  split
  · split <;> simp
  · rfl

@[simp] theorem State.traceOp_clk : (s.traceOp c o).clk = s.clk := by
  unfold State.traceOp
  split
  · split <;> simp
  · rfl

theorem State.traceOp_of_untraced (h : o.trace = false) : s.traceOp c o = s := by
  unfold State.traceOp
  split <;> simp [h]

theorem State.core_congr {s t : State} (h : t.cores = s.cores) (d : Nat) : t.core d = s.core d := by
  unfold State.core; rw [h]

theorem State.core_ahead (i : Issue) : (s.ahead c o i).core c = (s.core c).issued o i s.cyc s.coreStamp
    (if i.queueOp then (s.freeTags c).headD 0 else 0) s.nextId := by
  rw [State.ahead, State.core_congr (State.traceOp_cores ..), State.core_setCore, if_pos rfl]

theorem State.core_ahead_of_ne (i : Issue) {d : Nat} (h : d ≠ c) : (s.ahead c o i).core d = s.core d := by
  rw [State.ahead, State.core_congr (State.traceOp_cores ..), State.core_setCore, if_neg h.symm]
  rfl

@[simp] theorem State.ahead_xfers (i : Issue) : (s.ahead c o i).xfers = s.xfers := State.traceOp_xfers ..

@[simp] theorem State.ahead_clk (i : Issue) : (s.ahead c o i).clk = s.clk := State.traceOp_clk ..

end

/-! ## The station takes up a due op -/

section
variable {s : State} {c : Nat} {i : Issue} (h : s.dueIssue c = some i)
include h

/-- The station issues what is due. -/
theorem State.takeOp_of_dueIssue : s.takeOp (planFor (s.core c).nextOp) c = (s.look c).issue c (s.core c).nextOp i := by
  obtain ⟨hclear, l, hlegal, htags, hgo, hcheck⟩ := State.dueIssue_spec h
  obtain ⟨-, hvalid, hill, hwaits⟩ := State.clear_spec hclear
  have issues := State.tryIssue_noteLegal (s.look_ne_default c _) hwaits htags hgo hcheck
  simp only [State.takeOp, State.nextOp_look, hvalid, hill, hlegal, issues, Bool.not_true, Bool.false_eq_true, if_false]

/-- A command of an op's kind issues it. -/
theorem issueRow_of_dueIssue {mnemonic : String} {mine : Op → Bool} {plan : PlanFn} (hmine : mine (s.core c).nextOp = true)
    (hplan : planFor (s.core c).nextOp = plan) :
    issueRow mnemonic mine plan c s = .next ((s.look c).issue c (s.core c).nextOp i) := by
  obtain ⟨hoffered, -⟩ := State.clear_spec (State.dueIssue_spec h).1
  have hissuing : s.issuing c = true := by
    unfold State.offered at hoffered
    simp only [Bool.and_eq_true] at hoffered
    exact hoffered.1.1
  rw [issueRow, hissuing, hoffered, hmine, ← hplan, State.takeOp_of_dueIssue h]
  simp

end

/-- What stands ahead of the effect, against the state before the look. -/
theorem State.ahead_look (s : State) (c : Nat) (o : Op) (i : Issue) : let v := (s.look c).ahead c o i
    (v.core c).due = s.cyc + max o.dur 1 ∧ (v.core c).next = (afterIssue o.addr (s.core c).loops 5).1 ∧
      (v.core c).loops = (afterIssue o.addr (s.core c).loops 5).2 ∧
      (v.core c).windows = ((s.core c).grant i.windows s.cyc o.addr).windows ∧ (v.core c).scratch = (s.core c).scratch ∧
      (v.core c).cnts = (s.core c).cnts ∧ (v.core c).stock = (s.core c).stock ∧ (∀ d, d ≠ c → v.core d = s.core d) ∧
      v.xfers = s.xfers := by
  have others (d : Nat) (hd : d ≠ c) : ((s.look c).ahead c o i).core d = s.core d :=
    (State.core_ahead_of_ne _ _ _ _ hd).trans ((s.coreEffect_look c).2.1 d hd)
  have look := s.core_look c
  generalize ((s.look c).core c).passed = n at look
  simp only [State.core_ahead, look, Core.issued_due, Core.issued_next, Core.issued_loops, Core.issued_windows,
    Core.issued_scratch, Core.issued_cnts, Core.issued_stock]
  exact ⟨rfl, rfl, rfl, rfl, rfl, rfl, rfl, others, State.ahead_xfers ..⟩

/-! ## The effects of HALT and WAIT -/

/-- A control op issues with the effect of its plan. -/
theorem State.dueIssue_control {s : State} {c : Nat} {i : Issue} (h : s.dueIssue c = some i) {f : State → State}
    (hplan : planFor (s.core c).nextOp (s.look c) c (s.core c).nextOp = controlIssue f) :
    i = { windows := [(1, 0, 0)], control := true, effect := fun _ t => f t } := by
  obtain ⟨-, l, hlegal, -, hgo, -⟩ := State.dueIssue_spec h
  have hl := gives_legality _ _ _ _ _ hlegal
  rw [hplan] at hl
  cases hl
  cases hgo
  rfl

/-- HALT stops the core's station. -/
theorem State.issue_halt {s : State} {c : Nat} {i : Issue} (h : s.dueIssue c = some i) (hopc : (s.core c).nextOp.opc = 0x3F) :
    (((s.look c).issue c (s.core c).nextOp i).core c).running = false ∧
      (((s.look c).issue c (s.core c).nextOp i).core c).cycle = s.cyc - (s.core c).startCyc + 1 ∧
      (((s.look c).issue c (s.core c).nextOp i).core c).halting = some (s.coreNow, (s.core c).nextOp.addr) := by
  have hi := State.dueIssue_control h (by simp [planFor, hopc]; rfl)
  have clk := (s.look c).ahead_clk c (s.core c).nextOp i
  have cyc : ((s.look c).ahead c (s.core c).nextOp i).cyc = s.cyc := congrArg Clocks.cycles clk
  have now : ((s.look c).ahead c (s.core c).nextOp i).coreNow = s.coreNow := congrArg Clocks.edgeAt clk
  have start : (((s.look c).ahead c (s.core c).nextOp i).core c).startCyc = (s.core c).startCyc := by
    rw [State.core_ahead, Core.issued_startCyc, State.core_look]; rfl
  rw [State.issue_eq_effect]
  generalize (s.look c).ahead c (s.core c).nextOp i = v at cyc now start ⊢
  subst hi
  simp [cyc, now, start]

/-- A WAIT without signals changes nothing beyond its issue, and takes no place among the ops not yet complete. -/
theorem State.issue_wait {s : State} {c : Nat} {i : Issue} (h : s.dueIssue c = some i) (hopc : (s.core c).nextOp.opc = 0x30)
    (hsigs : (s.core c).nextOp.sigs = []) :
    (s.look c).issue c (s.core c).nextOp i = (s.look c).ahead c (s.core c).nextOp i ∧
      (((s.look c).ahead c (s.core c).nextOp i).core c).pend = (s.core c).pend := by
  have hi := State.dueIssue_control h (f := fun t => State.sendSignals c (s.core c).nextOp.addr none t (s.core c).nextOp.sigs)
    (by simp only [planFor, hopc]; rfl)
  have hcontrol : i.control = true := by rw [hi]
  constructor
  · rw [State.issue_eq_effect]
    generalize (s.look c).ahead c (s.core c).nextOp i = v
    rw [hi, hsigs]
    rfl
  · rw [State.core_ahead, Core.issued_pend_of_control _ _ _ _ _ _ _ hcontrol, State.core_look]
    rfl

/-- What is not traced leaves no record. -/
theorem State.ahead_of_untraced {s : State} {o : Op} (h : o.trace = false) (c : Nat) (i : Issue) :
    ((s.look c).ahead c o i).mem = s.mem ∧ ((s.look c).ahead c o i).sigs = s.sigs ∧ ((s.look c).ahead c o i).host = s.host ∧
      ((s.look c).ahead c o i).err = s.err := by
  rw [State.ahead, State.traceOp_of_untraced _ _ _ h]
  exact ⟨rfl, rfl, rfl, rfl⟩

/-! ## The statement -/

/-- Settles O8: every command of an op's kind issues it by `issueRow_of_dueIssue`, and what stands ahead of the effect is `State.ahead`. -/
theorem opsIssue : Obligations.OpsIssue := by
  intro s c i h o u goes
  have issues {mnemonic : String} {mine : Op → Bool} {plan : PlanFn} (hmine : mine o = true) (hplan : planFor o = plan) :
      issueRow mnemonic mine plan c s = .next u := issueRow_of_dueIssue h hmine hplan
  have opc {mnemonic : String} {n : Nat} {plan : PlanFn} (hopc : o.opc = n) (hplan : planFor o = plan) :
      issueRow mnemonic (isOpc n) plan c s = .next u := issues (beq_iff_eq.mpr hopc) hplan
  have variant {mnemonic : String} {n : Nat} {p : Op → Bool} {plan : PlanFn} (hopc : o.opc = n) (hvar : p o = true)
      (hplan : planFor o = plan) : issueRow mnemonic (fun o => o.opc == n && p o) plan c s = .next u :=
    issues (by rw [hopc, hvar, beq_self_eq_true]; rfl) hplan
  refine ⟨⟨_, _, State.issue_eq_effect .., s.ahead_look c o i⟩,
    fun e => opc e (by simp only [planFor, e]),
    fun e => opc e (by simp only [planFor, e]),
    fun e v => show execAttendMaxPhase c s = _ from variant e (by rw [v]; rfl) (by simp only [planFor, e]),
    fun e v => show execAttendSumPhase c s = _ from variant e (v) (by simp only [planFor, e]),
    fun e v => show execRowsum c s = _ from variant e (beq_iff_eq.mpr v) (by simp only [planFor, e, v]),
    fun e v => show execRowsq c s = _ from variant e (beq_iff_eq.mpr v) (by simp only [planFor, e, v]),
    fun e v => show execStockStore c s = _ from variant e (beq_iff_eq.mpr v) (by simp only [planFor, e, v]),
    fun e v => show execStockAdd c s = _ from variant e (beq_iff_eq.mpr v) (by simp only [planFor, e, v]),
    fun e => opc e (by simp only [planFor, e]),
    fun e => opc e (by simp only [planFor, e]),
    fun e => opc e (by simp only [planFor, e]),
    fun e => opc e (by simp only [planFor, e]),
    fun e => opc e (by simp only [planFor, e]),
    fun e => opc e (by simp only [planFor, e]),
    fun e v => show execStockSend c s = _ from variant e (beq_iff_eq.mpr v) (by simp only [planFor, e, v]),
    fun e => opc e (by simp only [planFor, e]),
    fun e => opc e (by simp only [planFor, e]),
    fun e => opc e (by simp only [planFor, e]),
    fun e => opc e (by simp only [planFor, e]),
    fun e => opc e (by simp only [planFor, e]),
    fun e v => show execTicketClaim c s = _ from variant e (by rw [v]; rfl) (by simp only [planFor, e]),
    fun e v => show execTicketRead c s = _ from variant e (v) (by simp only [planFor, e]),
    fun e => opc e (by simp only [planFor, e]),
    fun e => opc e (by simp only [planFor, e]),
    fun e v => show execSignalPlain c s = _ from variant e (beq_iff_eq.mpr v) (by simp only [planFor, e]),
    fun e v => show execSignalOpen c s = _ from variant e (beq_iff_eq.mpr v) (by simp only [planFor, e]),
    fun e v => show execSignalClose c s = _ from variant e (beq_iff_eq.mpr v) (by simp only [planFor, e]),
    fun e => opc e (by simp only [planFor, e]),
    fun e => ⟨opc e (by simp only [planFor, e]), u, opc e (by simp only [planFor, e]), State.issue_halt h e⟩,
    fun e sigs trace => ⟨u, opc e (by simp only [planFor, e]), ?_⟩⟩
  obtain ⟨hdue, hnext, hloops, -, hscratch, hcnts, hstock, hothers, hxfers⟩ := s.ahead_look c o i
  obtain ⟨hu, hpend⟩ := State.issue_wait h e sigs
  obtain ⟨hmem, hsigs, hhost, herr⟩ := State.ahead_of_untraced (s := s) trace c i
  simp only [u, o, hu]
  exact ⟨hdue, hnext, hloops, hscratch, hcnts, hstock, hpend, hothers, hmem, hxfers, hsigs, hhost, herr⟩

end Sys2Proof.Machine
end

section
/-!
# Remote writes and stock words at a core (spec/11 R288, R293; spec/03 R87; spec/07 R198)

First what a record in the log leaves of a partition, then the header of a remote write and the arrival of a row of stock words.
-/
namespace Sys2Proof.Machine

/-! ## What a record in the log leaves of a partition -/

/-- A run without the counts of its trace buffer, the one part of it that a record in the log changes (spec/17 R428). -/
def Run.untraced (r : Run) : Run := { r with written := 0, dropped := 0 }

/-- The partitions without the counts of their trace buffers. -/
def State.untraced (s : State) (p : Nat) : Part := { s.part p with run := (s.part p).run.untraced }

theorem State.untraced_congr {s t : State} (h : t.parts = s.parts) : t.untraced = s.untraced := by
  funext p
  unfold State.untraced State.part
  rw [h]

theorem State.untraced_modRun {f : Run → Run} (hf : ∀ r, (f r).untraced = r.untraced) (s : State) (p : Nat) :
    (s.modRun p f).untraced = s.untraced := by
  funext q
  simp only [State.untraced, State.part_modRun]
  split
  · subst_vars; simp only [hf]
  · rfl

@[simp] theorem State.untraced_traceRec (s : State) (p : Nat) (r : LogRec) : (s.traceRec p r).untraced = s.untraced := by
  unfold State.traceRec
  dsimp only
  split
  · rfl
  · split
    · rfl
    · refine (State.untraced_modRun (fun _ => by rfl) _ _).trans ((State.untraced_congr (State.tracePut_parts ..)).trans ?_)
      split
      · exact State.untraced_congr (State.tracePut_parts ..)
      · rfl

@[simp] theorem State.untraced_traceFor (s : State) (r : LogRec) : (s.traceFor r).untraced = s.untraced := by
  unfold State.traceFor
  split
  · exact State.untraced_traceRec ..
  · rfl

@[simp] theorem State.untraced_writeLog (s : State) (r : LogRec) (keep : Bool) : (s.writeLog r keep).untraced = s.untraced := by
  unfold State.writeLog
  split <;> exact State.untraced_traceFor ..

@[simp] theorem State.untraced_logEntry (s : State) (d i : Nat) (p : Option Nat) (code : Nat) (ctx : List Byte) :
    (s.logEntry d i p code ctx).untraced = s.untraced := State.untraced_writeLog ..

@[simp] theorem State.untraced_logCore (s : State) (c code : Nat) (ctx : List Byte) : (s.logCore c code ctx).untraced = s.untraced :=
  State.untraced_writeLog ..

theorem State.window_of_untraced {s t : State} (h : t.untraced = s.untraced) (p w : Nat) : t.window p w = s.window p w := by
  have windows : (t.untraced p).windows = (s.untraced p).windows := by rw [h]
  change (t.part p).windows = (s.part p).windows at windows
  rw [State.window, State.window, windows]

/-! ## Transfers changed -/

theorem State.mem_modXfer {s : State} {i : Nat} {f : Xfer → Xfer} {y : Xfer} (h : y ∈ (s.modXfer i f).xfers) :
    ∃ x ∈ s.xfers, y = if x.id = i then f x else x := by
  obtain ⟨x, hx, rfl⟩ := List.mem_map.mp h
  exact ⟨x, hx, by simp⟩

@[simp] theorem State.core_modXfer (s : State) (i c : Nat) (f : Xfer → Xfer) : (s.modXfer i f).core c = s.core c := rfl

/-- A transfer that has been changed is what the change made of it. -/
theorem State.of_mem_modXfer {s : State} {i : Nat} {f : Xfer → Xfer} {P : Xfer → Prop} (hf : ∀ x, P (f x))
    {y : Xfer} (h : y ∈ (s.modXfer i f).xfers) (hy : y.id = i) : P y := by
  obtain ⟨x, -, rfl⟩ := State.mem_modXfer h
  split
  case isTrue => exact hf x
  case isFalse hne => rw [if_neg hne] at hy; exact absurd hy hne

/-! ## The header of a remote write -/

theorem exec_remoteWriteHeader {s : State} {i : Nat} {x : Xfer} (h : s.inFlight s.writesCore i = some x) :
    exec (.remoteWriteHeader i) s = .next (if x.static then s.settle else s.settle.writeHeader x) := by
  show execRemoteWriteHeader i s = _
  rw [execRemoteWriteHeader, h]

section
variable {s : State} {x : Xfer} (hlost : x.lost = false) (hdeaf : x.static = false ∨ (s.core x.dstCore).micro.on = false)
include hlost hdeaf

/-- A window that refuses a write sends it back. -/
theorem State.writeHeader_of_refused (h : s.scratchWindow x.dstCore x ≠ 0) :
    s.writeHeader x = (s.windowRefused x 0 x.dstCore (s.scratchWindow x.dstCore x)).refuseXfer x.id (s.scratchWindow x.dstCore x) false := by
  have hears : (x.static && (s.core x.dstCore).micro.on) = false := by
    rcases hdeaf with h | h <;> simp [h]
  simp [State.writeHeader, hlost, hears, h]

/-- A window that takes a write registers its range, and its beats. -/
theorem State.writeHeader_of_registered (hkind : x.kind ≠ .stockRow) (h : s.scratchWindow x.dstCore x = 0) (hdata : x.data ≠ []) {off : Nat}
    {u : State} (hoff : u.locate x.dst = .scratch x.dstCore off)
    (hu : s.header x.dstCore x.id (s.window x.part x.win).slot (s.inboundRange x) = .ok u) :
    s.writeHeader x = (u.noteBeats x.dstCore off 32 x).modXfer x.id fun y => { y with stage := .accepted } := by
  have hears : (x.static && (s.core x.dstCore).micro.on) = false := by
    rcases hdeaf with h | h <;> simp [h]
  have ready : s.rowReady x.dstCore x = none := by simp [State.rowReady, hkind]
  simp [State.writeHeader, hlost, hears, h, hdata, ready, hu, hoff]

end

theorem State.header_fuses {s u : State} {c owner win : Nat} {r : Range} (h : s.header c owner win r = .ok u) : u.fuses = s.fuses := by
  unfold State.header at h
  dsimp only at h
  split at h
  · cases h
  · split at h
    · cases h
    · cases h; rfl

theorem State.locate_congr {s u : State} (h : u.fuses = s.fuses) (a : Nat) : u.locate a = s.locate a := by
  simp only [State.locate, State.perDie, h]
  rfl

theorem State.refusals_windowRefused (s : State) (x : Xfer) (domain index reason : Nat) :
    ((s.windowRefused x domain index reason).window x.part x.win).refusals = satAdd 32 (s.window x.part x.win).refusals 1 := by
  rw [State.windowRefused, State.window_of_untraced (State.untraced_logEntry ..), State.window_modWindow, if_pos ⟨rfl, rfl⟩]

@[simp] theorem State.cores_windowRefused (s : State) (x : Xfer) (domain index reason : Nat) :
    (s.windowRefused x domain index reason).cores = s.cores := State.logEntry_cores ..

/-! ## A row of stock words -/

theorem State.applyAttached_of_none {x : Xfer} (h : x.att = []) (s : State) (c word cyc : Nat) :
    s.applyAttached c word cyc x = s.modCore c id := by
  unfold State.applyAttached
  rw [h]
  rfl

@[simp] theorem Core.retireOwner_stock (k : Core) (owner cyc : Nat) (p : Entry → Bool) : (k.retireOwner owner cyc p).stock = k.stock := by
  unfold Core.retireOwner
  dsimp only

/-- A row of stock words that comes to a row whose anchors match is added (R198). -/
theorem exec_stockWordRowArrival {s : State} {i : Nat} {x : Xfer} {k : Core} (hx : s.xfer i = some x) (hstage : x.stage = .accepted)
    (hkind : x.kind = .stockRow) (hmicro : (s.core x.dstCore).micro.on = false) (hhedge : s.coreHedged x.dstCore = false)
    (hrow : (s.core x.dstCore).addRow (inboundOp s) x.place (wordsOf x.data) = .ok k) (hatt : x.att = []) :
    ∃ t, exec (.stockWordRowArrival i) s =
      .next (((s.setCore x.dstCore { k.retireOwner x.id t (fun _ => true) with potBusy := t }).modCore x.dstCore id).modXfer i
        fun y => { y with stage := .committed }) := by
  refine ⟨max s.cyc (s.core x.dstCore).potBusy + 1 + 5, ?_⟩
  show execStockWordRowArrival i s = _
  simp [execStockWordRowArrival, hx, hstage, hkind, hmicro, hhedge, hrow, State.applyAttached_of_none hatt]

/-! ## The statement -/

/-- Settles O23: the command of a header by its definition, the header by the two equations of `State.writeHeader`, the row by
`exec_stockWordRowArrival`. -/
theorem remoteWriteAtCore : Obligations.RemoteWriteAtCore := by
  intro s x
  refine ⟨?command, ?header, ?row⟩
  case command =>
    intro i h
    constructor <;> intro hs
    · exact Eq.trans (exec_remoteWriteHeader h) (by rw [if_pos hs])
    · exact Eq.trans (exec_remoteWriteHeader h) (by rw [if_neg (by simp [hs])])
  case header =>
    intro hlost hdeaf hkind
    constructor
    · intro hw hdata off u hoff hu
      exact State.writeHeader_of_registered hlost hdeaf hkind hw hdata ((State.locate_congr (State.header_fuses hu) _).trans hoff) hu
    · intro hw
      simp only [State.writeHeader_of_refused hlost hdeaf hw]
      refine ⟨fun y hy hid => ?_, State.refusals_windowRefused .., State.cores_windowRefused ..⟩
      exact State.of_mem_modXfer (P := fun y => y.stage = .refused ∧ y.reason = s.scratchWindow x.dstCore x)
        (fun _ => by exact ⟨rfl, rfl⟩) hy hid
  case row =>
    intro i hx hstage hkind hmicro hhedge k hrow hatt
    obtain ⟨t, hexec⟩ := exec_stockWordRowArrival hx hstage hkind hmicro hhedge hrow hatt
    refine ⟨_, hexec, ?_, rfl, fun d hd => ?_, fun y hy hid => ?_⟩
    · simp
    · simp [hd.symm]
    · exact State.of_mem_modXfer (P := fun y => y.stage = .committed) (fun _ => by rfl) hy hid

end Sys2Proof.Machine
end

section
/-!
# What comes due at a core (spec/03 R81, R88; spec/12 R297, R299)

The commit of a remote write, then what a cycle does at a core with one increment to come, and the fault of two ports in one bank.
-/
namespace Sys2Proof.Machine

/-! ## The commit of a remote write -/

@[simp] theorem Core.retireOwner_scratch (k : Core) (owner cyc : Nat) (p : Entry → Bool) : (k.retireOwner owner cyc p).scratch = k.scratch := by
  unfold Core.retireOwner
  dsimp only

@[simp] theorem Core.retireOwner_cnts (k : Core) (owner cyc : Nat) (p : Entry → Bool) : (k.retireOwner owner cyc p).cnts = k.cnts := by
  unfold Core.retireOwner
  dsimp only

@[simp] theorem Core.retireOwner_later (k : Core) (owner cyc : Nat) (p : Entry → Bool) : (k.retireOwner owner cyc p).later = k.later := by
  unfold Core.retireOwner
  dsimp only

section
variable {t : State} {x : Xfer} {off : Nat} (hplace : t.locate x.dst = .scratch x.dstCore off)
include hplace

theorem State.inboundCommit_store (hkind : x.kind = .store) (hmicro : (t.core x.dstCore).micro.on = false)
    (hhedge : t.coreHedged x.dstCore = false) : t.inboundCommit x = .next (t.commitRemote x) := by
  simp [State.inboundCommit, hkind, State.scratchAt, hplace, hmicro, State.commitAt, hhedge]

/-- The bytes commit at once, and the increment is to come in the next cycle (R88, R297). -/
theorem State.core_commitRemote {g : Sig} (hstatic : x.static = false) (hnib : x.nib = none) (hatt : x.att = [g]) (hown : x.foreign = false) :
    ((t.commitRemote x).core x.dstCore).scratch = Memory.write (t.core x.dstCore).scratch off x.data ∧
      ((t.commitRemote x).core x.dstCore).cnts = (t.core x.dstCore).cnts ∧
      ((t.commitRemote x).core x.dstCore).later = (t.core x.dstCore).later ++
        [(t.cyc + 1, .inc false g.cnt g.inc (if x.err.isSome then x.err else x.attMark) ⟨x.core, t.rankOf x.part, x.opAddr⟩)] := by
  have rank (f : Core → Core) : (t.modCore x.dstCore f).rankOf x.part = t.rankOf x.part := rfl
  simp [State.commitRemote, hplace, hnib, mergeNibble, State.applyAttached, hatt, hstatic, State.staticDone, State.rankFrom, hown, Core.await,
    rank]

end

/-- The command of a commit settles the cycle, and commits what then stands under its number. -/
theorem exec_inboundCommit {s : State} {i : Nat} {x : Xfer} (h : (s.xfer i).any (fun x => x.stage == .accepted && !x.static) = true)
    (hx : s.settle.xfer i = some x) : exec (.inboundCommit i) s = s.settle.inboundCommit x := by
  show execInboundCommit i s = _
  cases hy : s.xfer i with
  | none => simp [hy] at h
  | some y =>
    obtain ⟨hacc, hmem⟩ : y.stage = .accepted ∧ y.static = false := by simpa [hy] using h
    simp [execInboundCommit, hy, hacc, hmem, hx]

/-! ## A cycle at a core -/

theorem State.CoreEffect.trans {s t u : State} {c : Nat} {k m : Core} (h : s.CoreEffect t c k) (h' : t.CoreEffect u c m) :
    s.CoreEffect u c m := by
  obtain ⟨-, others, rest⟩ := h
  obtain ⟨own, others', rest'⟩ := h'
  exact ⟨own, fun d hd => (others' d hd).trans (others d hd), by rw [← rest, ← rest']⟩

theorem State.coreEffect_setCore (s : State) (c : Nat) (k : Core) : s.CoreEffect (s.setCore c k) c k :=
  ⟨by simp, fun d hd => by simp [hd.symm], rfl⟩

theorem State.CoreEffect.cyc {s t : State} {c : Nat} {k : Core} (h : s.CoreEffect t c k) : t.cyc = s.cyc := by
  rw [← h.2.2]; rfl

theorem State.CoreEffect.runOf {s t : State} {c : Nat} {k : Core} (h : s.CoreEffect t c k) (d : Nat) : t.runOf d = s.runOf d := by
  rw [← h.2.2]; rfl

section
variable {s : State} {c : Nat}

/-- Nothing of a rank is due. -/
theorem State.coreEffect_undergo_idle {r : Nat} (h : ∀ x ∈ (s.core c).later, x.1 ≤ s.cyc → x.2.rank ≠ r) :
    s.CoreEffect (s.undergo r c) c (s.core c) := by
  have none_due : (s.core c).later.filter (fun x => decide (x.1 ≤ s.cyc) && x.2.rank == r) = [] := by
    simpa [List.filter_eq_nil_iff] using h
  have all_stay : (s.core c).later.filter (fun x => !(decide (x.1 ≤ s.cyc) && x.2.rank == r)) = (s.core c).later := by
    refine List.filter_eq_self.mpr fun x hx => ?_
    have := h x hx
    by_cases due : x.1 ≤ s.cyc <;> simp_all
  have idle : s.undergo r c = s.setCore c (s.core c) := by
    unfold State.undergo
    dsimp only
    rw [none_due, all_stay]
    rfl
  rw [idle]
  exact s.coreEffect_setCore ..

/-- A core with nothing to come. -/
def Core.caughtUp (k : Core) : Core := { k with later := [] }

/-- One increment to come, which is due. -/
theorem State.undergo_inc {n cnt inc r : Nat} {st : Bool} {m : Option Mark} {src : IncSrc}
    (h : (s.core c).later = [(n, .inc st cnt inc m src)]) (hn : n ≤ s.cyc) (hr : (Late.inc st cnt inc m src).rank = r) :
    s.undergo r c = (s.setCore c (s.core c).caughtUp).increment c cnt inc m src := by
  simp [State.undergo, h, hn, hr, State.befall, Core.caughtUp]

theorem State.coreEffect_watchPorts_idle (h0 : (s.core c).wp0 = []) (h1 : (s.core c).wp1 = []) :
    s.CoreEffect (s.watchPorts c) c (s.core c) := by
  have same : { s.core c with wp0 := [], wp1 := [] } = s.core c := by
    rw [← h0, ← h1]
  have idle : s.watchPorts c = s.setCore c (s.core c) := by
    simp [State.watchPorts, Core.clash, h0, h1, same]
  rw [idle]
  exact s.coreEffect_setCore ..

theorem State.tryHalt_idle (h : (s.core c).halting = none) : s.tryHalt c = s := by
  unfold State.tryHalt
  rw [h]

theorem Core.cnt_setCnt (k : Core) (n : Nat) (x : Counter) : (k.setCnt n x).cnt n = x := Tab.get_set_self ..

/-- A counter that an increment of `inc` with a mark `m` has reached, recent until the cycle `cyc` + `lat`. -/
def Counter.plus (x : Counter) (cyc lat inc : Nat) (m : Option Mark) : Counter :=
  { x with value := x.value + inc, mark := if x.mark.isSome then x.mark else m,
           recent := (x.recent.filter fun r => decide (cyc < r.1)) ++ [(cyc + lat, inc)] }

/-- An increment within the ceiling of an open epoch is added (R299). -/
theorem State.core_increment {n inc p : Nat} (hrun : s.runOf c = some p) (hring : (s.core c).ringOf n = none)
    (hbar : ((s.core c).cnt n).barred ≠ s.cyc + 1) (hopen : ((s.core c).cnt n).isOpen = true)
    (hceil : ((s.core c).cnt n).value + inc ≤ ((s.core c).cnt n).ceil) (m : Option Mark) (src : IncSrc) :
    (s.increment c n inc m src).core c = (s.core c).setCnt n (((s.core c).cnt n).plus s.cyc (latCnt (s.tp1 c)) inc m) := by
  have below : ¬ ((s.core c).cnt n).ceil < ((s.core c).cnt n).value + inc := by omega
  simp only [State.increment, hrun, hring, if_neg hbar, hopen, below, Option.isNone_some, Bool.not_true, decide_false, Bool.or_self,
    Bool.false_eq_true, if_false, Counter.plus]
  split
  · rw [State.core_congr (State.logMark_cores ..), State.core_setCore, if_pos rfl]
  · rw [State.core_setCore, if_pos rfl]

/-- One increment to come, which is due and within the ceiling of an open epoch. -/
theorem State.undergo_counts {n cnt inc r p : Nat} {st : Bool} {m : Option Mark} {src : IncSrc}
    (h : (s.core c).later = [(n, .inc st cnt inc m src)]) (hn : n ≤ s.cyc) (hr : (Late.inc st cnt inc m src).rank = r)
    (hrun : s.runOf c = some p) (hring : (s.core c).ringOf cnt = none)
    (hbar : ((s.core c).cnt cnt).barred ≠ s.cyc + 1) (hopen : ((s.core c).cnt cnt).isOpen = true)
    (hceil : ((s.core c).cnt cnt).value + inc ≤ ((s.core c).cnt cnt).ceil) :
    ((s.undergo r c).core c).later = [] ∧ ((s.undergo r c).core c).halting = (s.core c).halting ∧
      (((s.undergo r c).core c).cnt cnt).value = ((s.core c).cnt cnt).value + inc := by
  have counted := State.core_increment (s := s.setCore c (s.core c).caughtUp) (c := c) (n := cnt) (inc := inc) hrun
  rw [State.undergo_inc h hn hr]
  simp only [State.core_setCore, if_true] at counted
  rw [counted hring hbar hopen hceil]
  exact ⟨rfl, rfl, by rw [Core.cnt_setCnt]; rfl⟩

/-- A cycle at the one core with something to come, where no port writes, no op is pending and no HALT drains: the increments. -/
theorem State.fallDue_increments (h : s.coresWith Core.awaits = [c]) (hlate : ∀ x ∈ (s.core c).later, x.2.rank ≠ 0)
    (h0 : (s.core c).wp0 = []) (h1 : (s.core c).wp1 = []) (hpend : (s.core c).pend = []) :
    ∃ t, s.CoreEffect t c (s.core c) ∧ s.fallDue = ((t.undergo 1 c).undergo 2 c).tryHalt c := by
  have undergone : s.CoreEffect (s.undergo 0 c) c (s.core c) := State.coreEffect_undergo_idle fun x hx _ => hlate x hx
  have watched : s.CoreEffect ((s.undergo 0 c).watchPorts c) c (s.core c) :=
    undergone.trans (undergone.1 ▸ State.coreEffect_watchPorts_idle (undergone.1.symm ▸ h0) (undergone.1.symm ▸ h1))
  refine ⟨_, watched, ?_⟩
  simp only [State.fallDue, h, List.foldl_cons, List.foldl_nil, watched.1, hpend, List.length_nil, State.completeOps]

end

section
variable {s : State} {c p n cnt inc : Nat} {st : Bool} {m : Option Mark} {src : IncSrc}
  (hlate : (s.core c).later = [(n, .inc st cnt inc m src)]) (hhalt : (s.core c).halting = none)
include hlate hhalt

/-- An increment that is to come in a later cycle waits. -/
theorem State.increments_wait (hn : s.cyc < n) : s.CoreEffect (((s.undergo 1 c).undergo 2 c).tryHalt c) c (s.core c) := by
  have early : ∀ x ∈ (s.core c).later, ¬ x.1 ≤ s.cyc := by simpa [hlate] using hn
  have first : s.CoreEffect (s.undergo 1 c) c (s.core c) := State.coreEffect_undergo_idle fun x hx hd => absurd hd (early x hx)
  have second : s.CoreEffect ((s.undergo 1 c).undergo 2 c) c (s.core c) := by
    refine first.trans (first.1 ▸ State.coreEffect_undergo_idle fun x hx hd => absurd (first.cyc ▸ hd) (early x (first.1 ▸ hx)))
  rw [State.tryHalt_idle (second.1.symm ▸ hhalt)]
  exact second

/-- An increment that is due is added, once. -/
theorem State.increments_count (hn : n ≤ s.cyc) (hrun : s.runOf c = some p) (hring : (s.core c).ringOf cnt = none)
    (hbar : ((s.core c).cnt cnt).barred ≠ s.cyc + 1) (hopen : ((s.core c).cnt cnt).isOpen = true)
    (hceil : ((s.core c).cnt cnt).value + inc ≤ ((s.core c).cnt cnt).ceil) :
    ((((s.undergo 1 c).undergo 2 c).tryHalt c).core c).later = [] ∧
      (((((s.undergo 1 c).undergo 2 c).tryHalt c).core c).cnt cnt).value = ((s.core c).cnt cnt).value + inc := by
  cases st with
  | true =>
    obtain ⟨empty, halt, counted⟩ := State.undergo_counts hlate hn (r := 1) rfl hrun hring hbar hopen hceil
    have second := State.coreEffect_undergo_idle (s := s.undergo 1 c) (c := c) (r := 2) (by simp [empty])
    rw [State.tryHalt_idle (by rw [second.1, halt, hhalt]), second.1]
    exact ⟨empty, counted⟩
  | false =>
    have first : s.CoreEffect (s.undergo 1 c) c (s.core c) := State.coreEffect_undergo_idle (by simp [hlate, Late.rank])
    obtain ⟨empty, halt, counted⟩ := State.undergo_counts (s := s.undergo 1 c) (first.1 ▸ hlate) (first.cyc ▸ hn) (r := 2) rfl
      (first.runOf c ▸ hrun) (first.1 ▸ hring) (first.1.symm ▸ first.cyc ▸ hbar) (first.1 ▸ hopen) (first.1.symm ▸ hceil)
    rw [first.1] at halt counted
    rw [State.tryHalt_idle (halt.trans hhalt)]
    exact ⟨empty, counted⟩

end

/-! ## Two ports in one bank -/

theorem State.core_coreFault {s : State} {c : Nat} (h : (s.core c).running = true) (f : CFault) :
    ((s.coreFault c f).core c).faulted = true ∧ ((s.coreFault c f).core c).running = false := by
  simp only [State.coreFault, State.core_congr (State.raise_cores ..), h, Bool.true_or, if_true, State.stopCore,
    State.core_congr (State.dropPrograms_cores ..), State.core_congr (State.dropWaiting_cores ..), State.core_setCore]
  simp

/-! ## The statement -/

/-- Settles O12: the commit by `State.core_commitRemote`, the cycle by the increments that `State.fallDue_increments` leaves of it, the clash
by `State.core_coreFault`. -/
theorem dueAtCore : Obligations.DueAtCore := by
  intro s
  refine ⟨?commit, ?due, ?clash⟩
  case commit =>
    intro i off x g h u hx hkind hstatic hnib hplace hmicro hhedge hatt hown
    exact ⟨_, (exec_inboundCommit h hx).trans (State.inboundCommit_store hplace hkind hmicro hhedge),
      State.core_commitRemote hplace hstatic hnib hatt hown⟩
  case due =>
    intro c p n cnt inc st m src hcore hlate h0 h1 hpend hhalt hrun hring
    obtain ⟨t, ready, hcycle⟩ := State.fallDue_increments hcore (by cases st <;> simp [hlate, Late.rank]) h0 h1 hpend
    have late : (t.core c).later = [(n, .inc st cnt inc m src)] := ready.1 ▸ hlate
    have unhalted : (t.core c).halting = none := ready.1 ▸ hhalt
    refine ⟨fun hn => ?_, fun hn hbar hopen hceil => ?_⟩
    · have wait := State.increments_wait late unhalted (ready.cyc ▸ hn)
      rw [hcycle, wait.1, ready.1]
      exact ⟨rfl, rfl⟩
    · have counted := State.increments_count late unhalted (ready.cyc ▸ hn) (ready.runOf c ▸ hrun) (ready.1 ▸ hring)
        (ready.1.symm ▸ ready.cyc ▸ hbar) (ready.1 ▸ hopen) (ready.1.symm ▸ hceil)
      rw [ready.1] at counted
      rw [hcycle]
      exact counted.symm
  case clash =>
    intro c w hclash hrun
    simp only [State.watchPorts, hclash]
    exact State.core_coreFault (by simpa using hrun) _

end Sys2Proof.Machine
end

section
/-!
# What a cycle leaves of the start of a run (spec/03 R97)

A run's start sets the cycle of a core's first issue, or its micro mode, and notes that the run has started. Nothing else that takes place in
a cycle of its own accord touches these.
-/
namespace Sys2Proof.Machine

/-! ## Cores -/

/-- What the start of a run sets at a core and nothing else in the cycle changes. -/
abbrev Core.start (k : Core) : Nat × Micro := (k.startCyc, k.micro)

theorem Core.start_foldl {α : Type} {f : Core → α → Core} (h : ∀ k x, (f k x).start = k.start) (l : List α) (k : Core) :
    (l.foldl f k).start = k.start := by
  induction l generalizing k with
  | nil => rfl
  | cons x l ih => rw [List.foldl_cons, ih, h]

@[simp] theorem Core.start_orArith (k : Core) (a : Arith) : (k.orArith a).start = k.start := rfl
@[simp] theorem Core.start_setElem (k : Core) (row col : Nat) (x : Elem) : (k.setElem row col x).start = k.start := rfl
@[simp] theorem Core.start_await (k : Core) (cyc : Nat) (l : Late) : (k.await cyc l).start = k.start := rfl
@[simp] theorem Core.start_fillHold (k : Core) (bs : List Byte) : (k.fillHold bs).start = k.start := rfl

@[simp] theorem Core.start_setElems (row : Nat) (xs : List Elem) : ∀ (k : Core) (col : Nat), (k.setElems row col xs).start = k.start := by
  induction xs with
  | nil => exact fun k col => by rfl
  | cons x xs ih => exact fun k col => (ih _ _).trans (by rfl)

@[simp] theorem Core.start_openRow (k : Core) (row mode fmt opAddr unit : Nat) (l : Nat → Int) :
    (k.openRow row mode fmt opAddr unit l).start = k.start := by
  simp only [Core.openRow, Core.start_setElems]

@[simp] theorem Core.start_closeBuffers (k : Core) (row n mode fmt opAddr : Nat) : (closeBuffers k row n mode fmt opAddr).start = k.start :=
  Core.start_foldl (fun _ _ => by rfl) _ _

@[simp] theorem Core.start_tagStats (a : AttendArgs) (k : Core) : (a.tagStats k).start = k.start := by
  unfold AttendArgs.tagStats
  split <;> rfl

@[simp] theorem Core.start_writeStats (a : AttendArgs) (k : Core) : (a.writeStats k).start = k.start := by
  simp only [AttendArgs.writeStats, Core.start_tagStats]
  rw [Core.start_foldl fun _ _ => by rfl, Core.start_foldl fun _ _ => by rfl]

theorem Core.start_addTerms {k k' : Core} {opAddr row recRow n : Nat} {ks : List Nat} {a : Nat → Dec × Arith} {w : Nat → Nat → Dec × Arith}
    (h : k.addTerms opAddr row recRow n ks a w = .ok k') : k'.start = k.start := by
  unfold Core.addTerms at h
  dsimp only at h
  split at h
  · cases h
  · cases h; simp

theorem Core.start_addRow {k k' : Core} {opAddr row : Nat} {ws : List StockWord} (h : k.addRow opAddr row ws = .ok k') :
    k'.start = k.start := by
  unfold Core.addRow at h
  split at h
  · cases h
  · cases h; simp

theorem Core.start_rowBeat {k k' : Core} {opAddr srow r lo hi : Nat} {sq : Bool} {mode : AccMode} {d : Desc}
    (h : rowBeat opAddr srow sq mode d k r lo hi = .ok k') : k'.start = k.start := by
  unfold rowBeat at h
  dsimp only at h
  split at h
  · cases h
  · cases h; simp

theorem Core.start_scoreRow {k k' : Core} {a : AttendArgs} {buf tau i : Nat} (h : a.scoreRow buf k tau i = .ok k') : k'.start = k.start := by
  unfold AttendArgs.scoreRow at h
  extract_lets js xs at h
  split at h
  · cases h
  · rw [← Except.ok.inj h, Core.start_orArith, Core.start_setElems]

theorem Core.start_valueRow {k k' : Core} {a : AttendArgs} {tau i : Nat} (h : a.valueRow k tau i = .ok k') : k'.start = k.start := by
  unfold AttendArgs.valueRow at h
  dsimp only at h
  split at h
  · cases h
  · next added =>
    split at h
    · cases h
    · cases h
      simp [Core.start_addTerms added]

theorem Core.start_runBeat {vs : List Nat} {f : Core → Nat → Except CFault Core} (hf : ∀ k v k', f k v = .ok k' → k'.start = k.start) :
    ∀ {k k' : Core}, runBeat k vs f = .ok k' → k'.start = k.start := by
  induction vs with
  | nil => rintro k _ ⟨⟩; rfl
  | cons v vs ih =>
    intro k k' h
    unfold runBeat at h
    rw [List.foldlM_cons] at h
    cases step : f k v with
    | error e => rw [step] at h; cases h
    | ok m => rw [step] at h; exact (ih h).trans (hf _ _ _ step)

theorem Core.start_runSteps {α : Type} {at_ : α → Nat} {f : Core → α → Except CFault Core}
    (hf : ∀ k x k', f k x = .ok k' → k'.start = k.start) (xs : List α) : ∀ k : Core, (runSteps at_ f k xs).start = k.start := by
  induction xs with
  | nil => exact fun _ => rfl
  | cons x xs ih =>
    intro k
    unfold runSteps
    split
    · next step => exact (ih _).trans (hf _ _ _ step)
    · rfl

theorem Core.start_openRows {α : Type} {f : Core → α → Core} (h : ∀ k x, (f k x).start = k.start) (b : Bool) (l : List α) (k : Core) :
    (if b then k else l.foldl f k).start = k.start := by
  split
  · rfl
  · exact Core.start_foldl h l k

@[simp] theorem MatvecArgs.start_run (a : MatvecArgs) (tp : Bool) (k : Core) : (a.run tp k).start = k.start := by
  unfold MatvecArgs.run
  refine (Core.start_runSteps (fun k x k' h => ?_) _ _).trans (Core.start_openRows (fun _ _ => Core.start_openRow ..) _ _ _)
  exact Core.start_runBeat (fun _ _ _ => Core.start_addTerms) h

@[simp] theorem WhiskArgs.start_run (a : WhiskArgs) (fifo : List Byte) (k : Core) : (a.run fifo k).start = k.start :=
  Core.start_foldl (fun _ _ => by rfl) _ _

@[simp] theorem ConvertArgs.start_run (a : ConvertArgs) (fifo : List Byte) (k : Core) : (a.run fifo k).start = k.start :=
  Core.start_foldl (fun _ _ => by rfl) _ _

@[simp] theorem LayoutArgs.start_run (a : LayoutArgs) (fifo : List Byte) (k : Core) : (a.run fifo k).start = k.start := rfl

@[simp] theorem Core.start_register (k : Core) (rs : List Range) (free : List Nat) (opAddr tag win stamp owner : Nat) :
    (k.register rs free opAddr tag win stamp owner).start = k.start := rfl
@[simp] theorem Core.start_retireOwner (k : Core) (owner cyc : Nat) (p : Entry → Bool) : (k.retireOwner owner cyc p).start = k.start := by
  unfold Core.retireOwner
  dsimp only
@[simp] theorem Core.start_retireOps (k : Core) (cyc : Nat) : (k.retireOps cyc).start = k.start := rfl
@[simp] theorem Core.start_putRing (k : Core) (i : Nat) (r : Ring) (now : Nat) : (k.putRing i r now).start = k.start := rfl
@[simp] theorem Core.start_advanceOp (k : Core) (x dur cyc : Nat) : (k.advanceOp x dur cyc).start = k.start := rfl
@[simp] theorem Core.start_noteLegal (k : Core) (o : Op) : (k.noteLegal o).start = k.start := rfl

@[simp] theorem Core.start_notePassed (k : Core) (o : Op) (cyc : Nat) : (k.notePassed o cyc).start = k.start := by
  rw [Core.notePassed_eq]

@[simp] theorem Core.start_stall (k : Core) (cause now : Nat) : (k.stall cause now).start = k.start := by
  unfold Core.stall
  dsimp only
  split
  · rfl
  · split <;> rfl

@[simp] theorem Core.start_takeBeat (k : Core) (p n : Nat) : (k.takeBeat p n).2.1.start = k.start := by
  unfold Core.takeBeat
  dsimp only
  split <;> rfl

@[simp] theorem Core.start_openEpoch (k : Core) (e : Nat × Nat) : (k.openEpoch e).start = k.start := rfl
@[simp] theorem Core.start_closeEpoch (k : Core) (n : Nat) : (k.closeEpoch n).start = k.start := rfl

@[simp] theorem Core.start_closeFull (k : Core) (opAddr : Nat) : (k.closeFull opAddr).start = k.start :=
  Core.start_foldl (fun k n => by split <;> rfl) _ _

end Sys2Proof.Machine
end

section
/-!
# Operations of the state leave the starts of runs

Log entries, faults, increments, signals, completion points, HALT, and what comes due at a core.
-/
namespace Sys2Proof.Machine

/-! ## The state's operations -/

/-- What the starts of runs set and nothing else in a cycle changes. -/
def State.starts (s : State) : (Nat → Nat × Micro) × (Nat → Bool) := (fun c => (s.core c).start, fun p => (s.part p).run.started)

section
variable {s t : State}

theorem State.starts_of_untraced (hc : t.cores = s.cores) (hu : t.untraced = s.untraced) : t.starts = s.starts := by
  have started (p : Nat) : (t.part p).run.started = (s.part p).run.started := congrArg (fun u => (u p).run.started) hu
  simp only [State.starts, State.core_congr hc, started]

theorem State.starts_congr (hc : t.cores = s.cores) (hp : t.parts = s.parts) : t.starts = s.starts :=
  State.starts_of_untraced hc (State.untraced_congr hp)

theorem State.starts_setCore {c : Nat} {k : Core} (h : k.start = (s.core c).start) : (s.setCore c k).starts = s.starts := by
  refine Prod.ext (funext fun d => ?_) rfl
  show ((s.setCore c k).core d).start = _
  rw [State.core_setCore]
  split
  · subst_vars; exact h
  · rfl

theorem State.starts_modCore {c : Nat} {f : Core → Core} (h : ∀ k, (f k).start = k.start) : (s.modCore c f).starts = s.starts :=
  State.starts_setCore (h _)

theorem State.starts_modPart {p : Nat} {f : Part → Part} (h : ∀ x, (f x).run.started = x.run.started) :
    (s.modPart p f).starts = s.starts := by
  refine Prod.ext rfl (funext fun q => ?_)
  show ((s.modPart p f).part q).run.started = _
  rw [State.part_modPart]
  split
  · subst_vars; exact h _
  · rfl

theorem State.starts_modRun {p : Nat} {f : Run → Run} (h : ∀ r, (f r).started = r.started) : (s.modRun p f).starts = s.starts :=
  State.starts_modPart fun x => h x.run

theorem State.starts_stamp {p : Option Nat} {f : Run → Run} (h : ∀ r, (f r).started = r.started) :
    (match p with | some p => s.modRun p f | none => s).starts = s.starts := by
  split
  · exact State.starts_modRun h
  · rfl

end

theorem State.starts_foldl {α : Type} {f : State → α → State} (h : ∀ s x, (f s x).starts = s.starts) (l : List α) (s : State) :
    (l.foldl f s).starts = s.starts := foldl_proj h l s

section
variable (s : State)

@[simp] theorem State.starts_logCore (c code : Nat) (ctx : List Byte) : (s.logCore c code ctx).starts = s.starts :=
  State.starts_of_untraced (State.logCore_cores ..) (State.untraced_logCore ..)

@[simp] theorem State.starts_logMark (c n : Nat) (m : Mark) : (s.logMark c n m).starts = s.starts := State.starts_logCore ..

@[simp] theorem State.starts_raise (r : LogRec) : (s.raise r).starts = s.starts := State.starts_congr rfl rfl
@[simp] theorem State.starts_dropWaiting (c : Nat) : (s.dropWaiting c).starts = s.starts := State.starts_congr rfl rfl
@[simp] theorem State.starts_dropPrograms (c : Nat) : (s.dropPrograms c).starts = s.starts := State.starts_congr rfl rfl
theorem State.starts_setSigs (gs : List SigMsg) : ({ s with sigs := gs } : State).starts = s.starts := State.starts_congr rfl rfl
theorem State.starts_setXfers (xs : List Xfer) : ({ s with xfers := xs } : State).starts = s.starts := State.starts_congr rfl rfl
@[simp] theorem State.starts_reclaim (c : Nat) : (s.reclaim c).starts = s.starts := State.starts_congr rfl rfl
@[simp] theorem State.starts_modXfer (i : Nat) (f : Xfer → Xfer) : (s.modXfer i f).starts = s.starts := State.starts_congr rfl rfl
@[simp] theorem State.starts_delXfer (i : Nat) : (s.delXfer i).starts = s.starts := State.starts_congr rfl rfl
@[simp] theorem State.starts_dropSig (i : Nat) : (s.dropSig i).starts = s.starts := State.starts_congr rfl rfl
@[simp] theorem State.starts_stampInjected : s.stampInjected.starts = s.starts := State.starts_congr rfl rfl
@[simp] theorem State.starts_takeId : s.takeId.2.starts = s.starts := State.starts_congr rfl rfl
@[simp] theorem State.starts_refuseXfer (i reason : Nat) (b : Bool) : (s.refuseXfer i reason b).starts = s.starts := State.starts_modXfer ..
@[simp] theorem State.starts_reply (p ptype rank core from_ ref : Nat) (err : Bool) (body : List Byte) :
    (s.reply p ptype rank core from_ ref err body).starts = s.starts := State.starts_congr (State.reply_cores ..) (State.reply_parts ..)

@[simp] theorem State.starts_stopCore (c : Nat) (faulted : Bool) : (s.stopCore c faulted).starts = s.starts := by
  simp only [State.stopCore, State.starts_dropPrograms, State.starts_dropWaiting]
  split
  · exact (State.starts_setCore (by rfl)).trans (State.starts_modRun fun _ => by rfl)
  · exact State.starts_setCore (by rfl)

@[simp] theorem State.starts_coreFault (c : Nat) (f : CFault) : (s.coreFault c f).starts = s.starts := by
  simp only [State.coreFault]
  split
  · rw [State.starts_stopCore, State.starts_raise]
  · rw [State.starts_raise]

@[simp] theorem State.starts_increment (c n inc : Nat) (m : Option Mark) (src : IncSrc) : (s.increment c n inc m src).starts = s.starts := by
  unfold State.increment
  extract_lets k x ring past excess seen again y k₁ k₂ t
  clear_value ring again
  have counted : t.starts = s.starts := State.starts_setCore (by simp only [k₂]; split <;> rfl)
  split
  · rw [State.starts_logCore, State.starts_setCore (by rfl)]
  · split
    · rfl
    · split
      · rw [State.starts_coreFault, State.starts_setCore (by rfl)]
      · split
        · rw [State.starts_logMark, counted]
        · exact counted

/-! ## Signals -/

@[simp] theorem State.starts_noteRefused (c tag opAddr reason : Nat) : (s.noteRefused c tag opAddr reason).starts = s.starts :=
  State.starts_modCore fun _ => by rfl

@[simp] theorem State.starts_signalMessage (c opAddr : Nat) (g : Sig) (r : Route) (m : Option Mark) :
    (s.signalMessage c opAddr g r m).starts = s.starts := by
  unfold State.signalMessage
  dsimp only
  split
  · exact (State.starts_setSigs ..).trans ((State.starts_modCore fun _ => by rfl).trans s.starts_takeId)
  · exact (State.starts_setXfers ..).trans ((State.starts_modCore fun _ => by rfl).trans s.starts_takeId)

@[simp] theorem State.starts_sendSignal (c opAddr : Nat) (m : Option Mark) (g : Sig) : (s.sendSignal c opAddr m g).starts = s.starts := by
  unfold State.sendSignal
  split
  · simp
  · split
    · rfl
    · split <;> simp

end

@[simp] theorem State.starts_sendSignals (c opAddr : Nat) (m : Option Mark) (gs : List Sig) :
    ∀ s : State, (State.sendSignals c opAddr m s gs).starts = s.starts := by
  induction gs with
  | nil => exact fun _ => rfl
  | cons g gs ih =>
    intro s
    unfold State.sendSignals
    dsimp only
    split
    · simp
    · rw [ih, State.starts_sendSignal]

/-! ## Completion points and HALT -/

section
variable (s : State)

@[simp] theorem State.starts_completeOp (c : Nat) (o : PendOp) : (s.completeOp c o).starts = s.starts := by
  simp only [State.completeOp, State.starts_sendSignals]
  exact State.starts_modCore fun _ => by rfl

@[simp] theorem State.starts_endHalt (c opAddr : Nat) : (s.endHalt c opAddr).starts = s.starts := by
  have closed : (s.modCore c fun k => k.closeFull opAddr).starts = s.starts := State.starts_modCore fun _ => Core.start_closeFull ..
  unfold State.endHalt
  dsimp only
  split
  · rw [State.starts_coreFault, closed]
  · simp only [State.starts_dropPrograms, State.starts_sendSignals]
    exact (State.starts_stamp fun _ => by rfl).trans ((State.starts_modCore fun _ => by rfl).trans closed)

@[simp] theorem State.starts_failHalt (c opAddr : Nat) : (s.failHalt c opAddr).starts = s.starts := by
  unfold State.failHalt
  dsimp only
  rw [State.starts_modCore fun _ => Core.start_retireOps .., State.starts_reclaim, State.starts_coreFault]

@[simp] theorem State.starts_tryHalt (c : Nat) : (s.tryHalt c).starts = s.starts := by
  unfold State.tryHalt
  split
  · rfl
  · split
    · simp
    · split <;> simp

end

@[simp] theorem State.starts_completeOps (c n : Nat) : ∀ s : State, (State.completeOps c n s).starts = s.starts := by
  induction n with
  | zero => exact fun _ => rfl
  | succ n ih =>
    intro s
    unfold State.completeOps
    split
    · rfl
    · rw [ih, State.starts_completeOp]

/-! ## What comes due -/

section
variable (s : State)

@[simp] theorem State.starts_logIllegal (c opAddr opc var reason : Nat) : (s.logIllegal c opAddr opc var reason).starts = s.starts :=
  (State.starts_modCore fun _ => by rfl).trans (State.starts_logCore ..)

@[simp] theorem State.starts_befall (c : Nat) (l : Late) : (State.befall c s l).starts = s.starts := by
  cases l <;> simp [State.befall]

@[simp] theorem State.starts_undergo (r c : Nat) : (State.undergo r c s).starts = s.starts :=
  (State.starts_foldl (fun s l => s.starts_befall c l) _ _).trans (State.starts_setCore (by rfl))

@[simp] theorem State.starts_watchPorts (c : Nat) : (s.watchPorts c).starts = s.starts := by
  unfold State.watchPorts
  dsimp only
  split
  · rw [State.starts_coreFault, State.starts_setCore (by rfl)]
  · exact State.starts_setCore (by rfl)

@[simp] theorem State.starts_fallDue : s.fallDue.starts = s.starts := by
  unfold State.fallDue
  dsimp only
  rw [State.starts_foldl, State.starts_foldl, State.starts_foldl, State.starts_foldl, State.starts_foldl, State.starts_foldl] <;> simp

end
end Sys2Proof.Machine
end

section
/-!
# The static plane and the port FIFOs leave the starts of runs

Headers, commits and signal messages of the static plane, and the ops that port FIFOs feed.
-/
namespace Sys2Proof.Machine

/-! ## The static plane -/

section
variable (s : State)

@[simp] theorem State.starts_modWindow (p w : Nat) (f : Window → Window) : (s.modWindow p w f).starts = s.starts :=
  State.starts_modPart fun _ => rfl

@[simp] theorem State.starts_windowRefused (x : Xfer) (domain index reason : Nat) :
    (s.windowRefused x domain index reason).starts = s.starts :=
  (State.starts_of_untraced (State.logEntry_cores ..) (State.untraced_logEntry ..)).trans (State.starts_modWindow ..)

@[simp] theorem State.starts_refuseAt (c : Nat) (x : Xfer) (reason : Nat) : (s.refuseAt c x reason).starts = s.starts := by
  simp [State.refuseAt, State.logRefusal]

@[simp] theorem State.starts_refuseLost (x : Xfer) : (s.refuseLost x).starts = s.starts := by
  unfold State.refuseLost
  split <;> simp

@[simp] theorem State.starts_targetFault (c i : Nat) (f : CFault) : (s.targetFault c i f).starts = s.starts := by
  simp only [State.targetFault, State.discardXfer, State.starts_modXfer, State.starts_coreFault]
  exact State.starts_congr rfl rfl

theorem State.starts_header {u : State} {c owner win : Nat} {r : Range} (h : s.header c owner win r = .ok u) : u.starts = s.starts := by
  unfold State.header at h
  dsimp only at h
  split at h
  · cases h
  · split at h
    · cases h
    · rw [← Except.ok.inj h, State.starts_setCore (Core.start_register ..)]

@[simp] theorem State.starts_applyAttached (c word cyc : Nat) (x : Xfer) : (s.applyAttached c word cyc x).starts = s.starts :=
  State.starts_modCore fun _ => Core.start_foldl (fun _ _ => by rfl) _ _

@[simp] theorem State.starts_noteBeats (c off skip : Nat) (x : Xfer) : (s.noteBeats c off skip x).starts = s.starts := by
  unfold State.noteBeats
  dsimp only
  split
  · rfl
  · exact State.starts_modCore fun _ => by rfl

@[simp] theorem State.starts_countSent (x : Xfer) : (s.countSent x).starts = s.starts := by
  unfold State.countSent
  split
  · exact State.starts_modCore fun _ => by rfl
  · rfl

@[simp] theorem State.starts_opDone (x : Xfer) (cyc : Nat) (quiet : Bool) : (s.opDone x cyc quiet).starts = s.starts := by
  unfold State.opDone
  split
  · rfl
  · exact State.starts_modCore fun _ => by rfl

@[simp] theorem State.starts_staticDone (x : Xfer) : (s.staticDone x).starts = s.starts := by
  unfold State.staticDone
  split <;> simp

@[simp] theorem State.starts_writeHeader (x : Xfer) : (s.writeHeader x).starts = s.starts := by
  unfold State.writeHeader
  dsimp only
  split
  · simp
  split
  · simp
  split
  · simp
  split
  · simp
  split
  · simp
  split
  · simp
  · next h => simp [s.starts_header h]

@[simp] theorem State.starts_portHeader (x : Xfer) : (s.portHeader x).starts = s.starts := by
  unfold State.portHeader
  dsimp only
  split
  · simp
  · exact (State.starts_modXfer ..).trans (State.starts_setCore (by rfl))

@[simp] theorem State.starts_ringHeader (x : Xfer) : (s.ringHeader x).starts = s.starts := by
  unfold State.ringHeader
  dsimp only
  split
  · exact (State.starts_refuseAt ..).trans (State.starts_setCore (by rfl))
  · split
    · simp
    · next h =>
      rw [State.starts_modXfer, State.starts_noteBeats, ← s.starts_header h]
      exact State.starts_setCore (by rfl)

@[simp] theorem State.starts_messageHeader (x : Xfer) : (s.messageHeader x).starts = s.starts := by
  unfold State.messageHeader
  split
  · simp
  split
  · simp
  split <;> simp

@[simp] theorem State.starts_staticHeader (x : Xfer) : (s.staticHeader x).starts = s.starts := by
  unfold State.staticHeader
  split <;> simp

@[simp] theorem State.starts_refuseSignal (g : SigMsg) (reason : Nat) : (s.refuseSignal g reason).starts = s.starts := by
  unfold State.refuseSignal
  split
  · simp
  · split
    · simp
    · exact State.starts_setXfers ..

@[simp] theorem State.starts_dropSignal (c : Nat) (g : SigMsg) (reason : Nat) : (s.dropSignal c g reason).starts = s.starts := by
  simp [State.dropSignal, State.logRefusal]

@[simp] theorem State.starts_acceptSignal (g : SigMsg) : (s.acceptSignal g).starts = s.starts := by
  unfold State.acceptSignal
  split
  · rfl
  · split
    · simp
    · split
      · simp
      · exact State.starts_modCore fun _ => by rfl

@[simp] theorem State.starts_signalHeader (g : SigMsg) : (s.signalHeader g).starts = s.starts := by
  unfold State.signalHeader
  dsimp only
  split
  · split <;> simp
  split
  · simp
  split
  · simp
  · exact (State.starts_acceptSignal ..).trans (State.starts_modCore fun _ => Core.start_await ..)

theorem State.starts_eachXfer (p : Xfer → Bool) {f : State → Xfer → State} (h : ∀ s x, (f s x).starts = s.starts) :
    (s.eachXfer p f).starts = s.starts := State.starts_foldl h _ _

@[simp] theorem State.starts_staticHeaders : s.staticHeaders.starts = s.starts := by
  unfold State.staticHeaders
  dsimp only
  rw [State.starts_foldl (fun _ _ => by simp), State.starts_eachXfer _ _ State.starts_staticHeader,
    State.starts_eachXfer _ _ State.starts_staticHeader]

@[simp] theorem State.starts_commitRemote (x : Xfer) : (s.commitRemote x).starts = s.starts := by
  simp only [State.commitRemote, State.starts_staticDone, State.starts_applyAttached]
  exact State.starts_modCore fun _ => Core.start_retireOwner ..

@[simp] theorem State.starts_commitPort (x : Xfer) : (s.commitPort x).starts = s.starts := by
  simp only [State.commitPort, State.starts_staticDone, State.starts_applyAttached]
  exact State.starts_modCore fun _ => by rfl

@[simp] theorem State.starts_commitRing (x : Xfer) : (s.commitRing x).starts = s.starts := by
  simp only [State.commitRing, State.starts_staticDone, State.starts_applyAttached]
  exact State.starts_modCore fun _ => (Core.start_retireOwner ..).trans (Core.start_putRing ..)

@[simp] theorem State.starts_refuseLate (x : Xfer) : (s.refuseLate x).starts = s.starts := by
  have retired : (s.modCore x.dstCore fun k => k.retireOwner x.id s.cyc fun _ => true).starts = s.starts :=
    State.starts_modCore fun _ => Core.start_retireOwner ..
  unfold State.refuseLate
  dsimp only
  split <;> simp [retired]

@[simp] theorem State.starts_commitAt (x : Xfer) : (s.commitAt x).starts = s.starts := by
  unfold State.commitAt
  split
  · simp
  split
  · simp
  split <;> simp

@[simp] theorem State.starts_staticCommits : s.staticCommits.starts = s.starts := State.starts_eachXfer _ _ State.starts_commitAt

/-! ## Port FIFOs -/

@[simp] theorem State.starts_underrun (c opAddr port : Nat) : (s.underrun c opAddr port).starts = s.starts := by
  unfold State.underrun
  exact (State.starts_stamp fun _ => by rfl).trans (State.starts_logCore ..)

@[simp] theorem State.starts_finish (c : Nat) (got : List Byte) (t : Task) : (s.finish c got t).starts = s.starts := by
  cases t with
  | matvec a => exact State.starts_modCore fun k => (a.start_run ..).trans (by split <;> simp)
  | whisk a => exact State.starts_modCore (a.start_run _)
  | convert a => exact State.starts_modCore (a.start_run _)
  | layout a => exact State.starts_modCore (a.start_run _)

end

theorem State.starts_foldl_fst {α β : Type} {f : State × β → α → State × β} (h : ∀ t x, (f t x).1.starts = t.1.starts) (l : List α)
    (t : State × β) : (l.foldl f t).1.starts = t.1.starts := by
  induction l generalizing t with
  | nil => rfl
  | cons x l ih => rw [List.foldl_cons, ih, h]

@[simp] theorem State.starts_runJob (c : Nat) (s : State) (j : Job) : (State.runJob c s j).starts = s.starts := by
  unfold State.runJob
  extract_lets take t
  have taken : t.1.starts = s.starts := State.starts_foldl_fst (fun u b => by
    have beat : (u.1.setCore c ((u.1.core c).takeBeat j.port b.2).2.1).starts = u.1.starts := State.starts_setCore (Core.start_takeBeat ..)
    simp only [take]
    split
    · exact (State.starts_underrun ..).trans beat
    · exact beat) _ _
  split
  · rw [State.starts_finish, taken]
  · rw [State.starts_modCore fun _ => by rfl, taken]

@[simp] theorem State.starts_runJobs (s : State) (c : Nat) : (s.runJobs c).starts = s.starts :=
  (State.starts_foldl (State.starts_runJob c) _ _).trans (State.starts_modCore fun _ => by rfl)

end Sys2Proof.Machine
end

section
/-!
# Issue leaves the starts of runs

The effect of every op of the table, the issue stations, and with them the whole cycle. A plan is a chain of checks that ends in one issue: the
proof for a plan walks down the chain by the `gives_` lemmas and then speaks of the effect alone.
-/
namespace Sys2Proof.Machine

/-! ## The plans of ops -/

/-- An issue whose effect leaves the starts of runs. -/
def Issue.Steady (i : Issue) : Prop := ∀ (id : Nat) (s : State), (i.effect id s).starts = s.starts

/-- A plan that gives such issues only. -/
def PlanFn.Steady (plan : PlanFn) : Prop := ∀ (s : State) (c : Nat) (o : Op), Gives (plan s c o) fun l => Gives l.go Issue.Steady

section
variable {α : Type} {P : α → Prop}

theorem gives_when {p : Prop} [Decidable p] {x : Check Unit} {f : Unit → Check α} (h : Gives (f ()) P) :
    Gives (if p then x >>= f else f ()) P := by
  split
  · exact gives_bind fun _ => h
  · exact h

theorem gives_branch {β : Type} {p : Prop} [Decidable p] {x y : Check β} {f : β → Check α} (h : ∀ b, Gives (f b) P) :
    Gives (if p then x >>= f else y >>= f) P := by
  split <;> exact gives_bind h

theorem gives_legal {P : Issue → Prop} {n : Nat} {go : Check Issue} (h : Gives go P) : Gives (legal n go) fun l => Gives l.go P :=
  gives_ok h

theorem gives_steady {i : Issue} (h : ∀ id s, (i.effect id s).starts = s.starts) : Gives (.ok i) Issue.Steady := gives_ok h

theorem gives_if {p : Prop} [Decidable p] {x y : Check α} (hx : Gives x P) (hy : Gives y P) : Gives (if p then x else y) P := by
  split
  · exact hx
  · exact hy

end

theorem State.starts_unless {b : Bool} {s t : State} (h : t.starts = s.starts) : (if b then s else t).starts = s.starts := by
  split
  · rfl
  · exact h

theorem State.starts_either {p : Prop} [Decidable p] {s t u : State} (ht : t.starts = s.starts) (hu : u.starts = s.starts) :
    (if p then t else u).starts = s.starts := by
  split
  · exact ht
  · exact hu

theorem Core.start_either {p : Prop} [Decidable p] {k m n : Core} (hm : m.start = k.start) (hn : n.start = k.start) :
    (if p then m else n).start = k.start := by
  split
  · exact hm
  · exact hn

/-- The beats of an op that port FIFOs feed. -/
@[simp] theorem State.starts_feed (s : State) (c port opAddr : Nat) (due : List (Nat × Nat)) (t : Task) :
    (s.feed c port opAddr due t).starts = s.starts := State.starts_modCore fun _ => by rfl

theorem steady_matmul : PlanFn.Steady planMatmul := by
  intro s c o
  unfold planMatmul
  repeat refine gives_bind fun _ => ?_
  refine gives_legal ?_
  repeat refine gives_bind fun _ => ?_
  refine gives_when (gives_ok fun id t => State.starts_unless (State.starts_setCore ?_))
  exact (Core.start_runSteps (fun _ _ _ => Core.start_addTerms) _ _).trans (Core.start_openRows (fun _ _ => Core.start_openRow ..) _ _ _)

theorem steady_matvec : PlanFn.Steady planMatvec := by
  intro s c o
  unfold planMatvec
  repeat refine gives_bind fun _ => ?_
  refine gives_legal ?_
  repeat refine gives_bind fun _ => ?_
  refine gives_when (gives_ok fun id t => State.starts_unless ((State.starts_feed ..).trans (State.starts_modCore fun k => ?_)))
  refine Core.start_either ?_ ?_
  all_goals exact Core.start_openRows (fun _ _ => Core.start_openRow ..) _ _ _

theorem steady_attend : PlanFn.Steady planAttend := by
  intro s c o
  unfold planAttend
  repeat refine gives_bind fun _ => ?_
  refine gives_legal ?_
  repeat refine gives_bind fun _ => ?_
  refine gives_when ?_
  repeat refine gives_bind fun _ => ?_
  refine gives_when (gives_ok fun id t => State.starts_unless (State.starts_either (State.starts_setCore ?_) (State.starts_setCore ?_)))
  · refine Core.start_either ((Core.start_closeBuffers ..).trans ((Core.start_writeStats ..).trans ?_)) ?_
    all_goals exact Core.start_runSteps (fun _ _ _ => Core.start_scoreRow) _ _
  · refine (Core.start_closeBuffers ..).trans ((Core.start_runSteps (fun k x k' h => ?_) _ _).trans (Core.start_either rfl ?_))
    · split at h
      · exact Core.start_scoreRow h
      · exact Core.start_valueRow h
    · refine Core.start_either ((Core.start_orArith ..).trans ((Core.start_openRow ..).trans ?_)) ((Core.start_openRow ..).trans ?_)
      all_goals exact Core.start_foldl (fun _ _ => Core.start_openRow ..) _ _

theorem steady_rows (sq : Bool) : PlanFn.Steady (planRows sq) := by
  intro s c o
  unfold planRows
  repeat refine gives_bind fun _ => ?_
  refine gives_legal ?_
  repeat refine gives_bind fun _ => ?_
  refine gives_when (gives_ok fun id t => State.starts_unless (State.starts_setCore ?_))
  exact (Core.start_runSteps (fun _ _ _ => Core.start_rowBeat) _ _).trans (Core.start_openRows (fun _ _ => Core.start_openRow ..) _ _ _)

theorem steady_stockStore : PlanFn.Steady planStockStore := by
  intro s c o
  unfold planStockStore
  repeat refine gives_bind fun _ => ?_
  refine gives_legal ?_
  repeat refine gives_bind fun _ => ?_
  exact gives_ok fun id t => State.starts_modCore fun k => Core.start_foldl (fun _ _ => by rfl) _ _

theorem steady_stockAdd : PlanFn.Steady planStockAdd := by
  intro s c o
  unfold planStockAdd
  repeat refine gives_bind fun _ => ?_
  refine gives_legal ?_
  repeat refine gives_bind fun _ => ?_
  refine gives_when (gives_ok fun id t => State.starts_setCore (Core.start_runSteps (fun k i k' h => ?_) _ _))
  exact (Core.start_addRow h).trans (Core.start_either (Core.start_openRow ..) rfl)

theorem steady_drain : PlanFn.Steady planDrain := by
  intro s c o
  unfold planDrain
  repeat refine gives_bind fun _ => ?_
  refine gives_branch fun prog => gives_bind fun _ => gives_legal (gives_bind fun _ => ?_)
  cases prog
  all_goals
    refine gives_bind fun _ => gives_bind fun _ => ?_
    exact gives_when (gives_ok fun id t => State.starts_unless (State.starts_setCore (Core.start_foldl (fun _ _ => by rfl) _ _)))

theorem steady_whisk : PlanFn.Steady planWhisk := by
  intro s c o
  unfold planWhisk
  repeat refine gives_bind fun _ => ?_
  refine gives_branch fun seed => gives_legal ?_
  repeat refine gives_bind fun _ => ?_
  refine gives_ok fun id t => State.starts_unless (State.starts_either (State.starts_feed ..) (State.starts_setCore ?_))
  exact WhiskArgs.start_run ..

theorem Issue.steady_badTable (c : Nat) (o : Op) (i : Issue) (arrive : Nat) : (badTable c o i arrive).Steady :=
  fun _ _ => State.starts_modCore fun _ => by rfl

theorem steady_convert : PlanFn.Steady planConvert := by
  intro s c o
  unfold planConvert
  repeat refine gives_bind fun _ => ?_
  refine gives_legal ?_
  repeat refine gives_bind fun _ => ?_
  refine gives_when (gives_bind fun _ => gives_ok ?_)
  split
  · exact Issue.steady_badTable _ _ _ _
  · exact fun id t => State.starts_unless (State.starts_either (State.starts_feed ..) (State.starts_modCore fun _ => ConvertArgs.start_run ..))

theorem steady_layout : PlanFn.Steady planLayout := by
  intro s c o
  unfold planLayout
  repeat refine gives_bind fun _ => ?_
  refine gives_branch fun plan => ?_
  repeat refine gives_bind fun _ => ?_
  refine gives_legal ?_
  repeat refine gives_bind fun _ => ?_
  refine gives_when ?_
  have made {i j : Issue} {p : Prop} [Decidable p] (hi : i.Steady) (hj : j.Steady) : Gives (.ok (if p then i else j)) Issue.Steady :=
    gives_ok (by split <;> assumption)
  cases plan with
  | none =>
    refine gives_bind fun _ => made (Issue.steady_badTable _ _ _ _) fun id t => ?_
    exact State.starts_unless (State.starts_either (State.starts_feed ..) (State.starts_modCore fun _ => LayoutArgs.start_run ..))
  | some p =>
    refine gives_branch fun _ => made (Issue.steady_badTable _ _ _ _) fun id t => ?_
    exact State.starts_unless (State.starts_either (State.starts_feed ..) (State.starts_modCore fun _ => LayoutArgs.start_run ..))

theorem steady_random : PlanFn.Steady planRandom := by
  intro s c o
  unfold planRandom
  repeat refine gives_bind fun _ => ?_
  refine gives_legal ?_
  repeat refine gives_bind fun _ => ?_
  exact gives_ok fun id t => State.starts_unless (State.starts_modCore fun _ => Core.start_foldl (fun _ _ => by rfl) _ _)

theorem steady_tagfill : PlanFn.Steady planTagfill := by
  intro s c o
  unfold planTagfill
  repeat refine gives_bind fun _ => ?_
  refine gives_legal ?_
  repeat refine gives_bind fun _ => ?_
  exact gives_ok fun id t => State.starts_unless (State.starts_modCore fun _ => by rfl)

@[simp] theorem State.starts_enqueue (s : State) (c op opAddr : Nat) (up : Bool) (xs : List Xfer) :
    (s.enqueue c op opAddr up xs).starts = s.starts := by
  unfold State.enqueue
  extract_lets put
  refine State.starts_foldl_fst (fun t y => ?_) _ _
  exact (State.starts_setXfers ..).trans t.1.starts_takeId

theorem steady_load : PlanFn.Steady planLoad := by
  intro s c o
  unfold planLoad
  repeat refine gives_bind fun _ => ?_
  refine gives_legal ?_
  repeat refine gives_bind fun _ => ?_
  exact gives_steady fun _ _ => State.starts_enqueue ..

theorem steady_store : PlanFn.Steady planStore := by
  intro s c o
  unfold planStore
  repeat refine gives_bind fun _ => ?_
  refine gives_legal ?_
  repeat refine gives_bind fun _ => ?_
  refine gives_if ?static ?_
  case static =>
    split
    · refine gives_branch fun _ => gives_branch fun _ => gives_bind fun _ => ?_
      exact gives_steady fun _ _ => State.starts_enqueue ..
    · refine gives_bind fun _ => gives_branch fun _ => gives_bind fun _ => ?_
      exact gives_steady fun _ _ => State.starts_enqueue ..
  refine gives_branch fun _ => gives_bind fun _ => ?_
  exact gives_steady fun _ _ => State.starts_enqueue ..

theorem steady_gather : PlanFn.Steady planGather := by
  intro s c o
  unfold planGather
  repeat refine gives_bind fun _ => ?_
  refine gives_legal ?_
  repeat refine gives_bind fun _ => ?_
  exact gives_steady fun _ _ => State.starts_enqueue ..

theorem steady_scatter : PlanFn.Steady planScatter := by
  intro s c o
  unfold planScatter
  repeat refine gives_bind fun _ => ?_
  refine gives_legal ?_
  repeat refine gives_bind fun _ => ?_
  refine gives_branch fun w => ?_
  repeat refine gives_bind fun _ => ?_
  exact gives_steady fun _ _ => State.starts_enqueue ..

theorem steady_send : PlanFn.Steady planSend := by
  intro s c o
  unfold planSend
  repeat refine gives_bind fun _ => ?_
  refine gives_legal (gives_bind fun _ => ?_)
  split
  · exact gives_error _
  · refine gives_when (gives_steady fun _ _ => (State.starts_modCore fun _ => by rfl).trans (State.starts_enqueue ..))

theorem steady_ticket : PlanFn.Steady planTicket := by
  intro s c o
  unfold planTicket
  repeat refine gives_bind fun _ => ?_
  exact gives_legal (gives_steady fun _ _ => State.starts_enqueue ..)

theorem steady_loadprog : PlanFn.Steady planLoadprog := by
  intro s c o
  unfold planLoadprog
  repeat refine gives_bind fun _ => ?_
  refine gives_legal (gives_bind fun _ => gives_ok fun id t => (State.starts_modCore fun _ => ?_).trans (State.starts_enqueue ..))
  exact Core.start_either (by rfl) (by rfl)

theorem steady_stockSend : PlanFn.Steady planStockSend := by
  intro s c o
  unfold planStockSend
  repeat refine gives_bind fun _ => ?_
  refine gives_legal ?_
  repeat refine gives_bind fun _ => ?_
  dsimp only
  split
  · exact gives_error _
  · exact gives_when (gives_bind fun _ => gives_steady fun _ _ => State.starts_enqueue ..)

theorem steady_control {f : State → State} (h : ∀ s, (f s).starts = s.starts) : Gives (controlIssue f) fun l => Gives l.go Issue.Steady :=
  gives_legal (gives_ok fun _ => h)

theorem steady_wait : PlanFn.Steady planWait := fun _ _ _ => steady_control fun _ => State.starts_sendSignals ..

theorem steady_signal : PlanFn.Steady planSignal := by
  intro s c o
  unfold planSignal
  refine gives_bind fun _ => gives_legal ?_
  split
  · exact gives_error _
  · refine gives_ok fun id t => (State.starts_sendSignals ..).trans (State.starts_modCore fun k => ?_)
    exact Core.start_either (Core.start_foldl Core.start_openEpoch _ _)
      (Core.start_either (Core.start_foldl (fun _ _ => Core.start_closeEpoch ..) _ _) rfl)

theorem steady_loop : PlanFn.Steady planLoop := by
  intro s c o
  unfold planLoop
  repeat refine gives_bind fun _ => ?_
  refine steady_control fun s => (State.starts_sendSignals ..).trans (State.starts_modCore fun k => ?_)
  exact Core.start_either (by rfl) (by rfl)

theorem steady_halt : PlanFn.Steady planHalt := fun _ _ _ => steady_control fun _ => State.starts_modCore fun _ => by rfl

/-- The effect of every op of the table. -/
theorem steady_planFor (o : Op) : PlanFn.Steady (planFor o) := by
  unfold planFor
  split
  · exact steady_matmul
  · exact steady_matvec
  · exact steady_attend
  · split
    · exact steady_rows false
    · exact steady_rows true
    · exact steady_stockSend
    · exact steady_stockStore
    · exact steady_stockAdd
  · exact steady_drain
  · exact steady_whisk
  · exact steady_layout
  · exact steady_convert
  · exact steady_random
  · exact steady_tagfill
  · exact steady_load
  · exact steady_store
  · exact steady_gather
  · exact steady_scatter
  · exact steady_send
  · exact steady_ticket
  · exact steady_loadprog
  · exact steady_wait
  · exact steady_signal
  · exact steady_loop
  · exact steady_halt
  · exact fun _ _ _ => gives_error _

/-! ## Issue -/

section
variable (s : State) (c : Nat) (o : Op)

@[simp] theorem State.starts_stall (cause : Nat) : (s.stall c cause).starts = s.starts := State.starts_modCore fun _ => Core.start_stall ..

@[simp] theorem State.starts_skip (reason : Nat) : (s.skip c o reason).starts = s.starts := by
  unfold State.skip
  extract_lets t
  have logged : t.starts = s.starts := by
    refine State.starts_either rfl ((State.starts_modCore fun _ => by rfl).trans (State.starts_logIllegal ..))
  split
  · rw [State.starts_coreFault, logged]
  · rw [State.starts_stall, logged]
  · rw [State.starts_modCore fun _ => Core.start_advanceOp .., logged]

@[simp] theorem State.starts_look : (s.look c).starts = s.starts :=
  (State.starts_modCore fun _ => Core.start_either (Core.start_notePassed ..) rfl).trans (State.starts_modCore fun _ => by rfl)

@[simp] theorem State.starts_issueFault (f : CFault) : (s.issueFault c f).starts = s.starts := by
  unfold State.issueFault
  exact (State.starts_coreFault ..).trans (State.starts_either (State.starts_noteRefused ..) rfl)

@[simp] theorem State.starts_traceOp : (s.traceOp c o).starts = s.starts := by
  unfold State.traceOp
  split
  · exact State.starts_either (State.starts_logCore ..) rfl
  · rfl

theorem Core.start_issued (k : Core) (i : Issue) (cyc stamp tag id : Nat) : (k.issued o i cyc stamp tag id).start = k.start :=
  Prod.ext (Core.issued_startCyc ..) (Core.issued_micro ..)

theorem State.starts_issue {i : Issue} (h : i.Steady) : (s.issue c o i).starts = s.starts := by
  rw [State.issue_eq_effect, h, State.ahead, State.starts_traceOp]
  exact (State.starts_setCore (Core.start_issued ..)).trans s.starts_takeId

theorem State.starts_tryIssue {l : Legal} (h : Gives l.go Issue.Steady) : (s.tryIssue c o l).starts = s.starts := by
  unfold State.tryIssue
  dsimp only
  split
  · simp
  · simp
  · split
    · simp
    · split
      · simp
      · simp
      · next hgo =>
        split
        · simp
        · simp
        · exact State.starts_issue _ _ _ (h _ hgo)

theorem State.starts_takeOp {plan : PlanFn} (h : plan.Steady) : (s.takeOp plan c).starts = s.starts := by
  unfold State.takeOp
  dsimp only
  split
  · simp
  split
  · simp
  split
  · simp
  · simp
  · next hlegal =>
    rw [State.starts_tryIssue _ _ _ (h _ _ _ _ (gives_legality _ _ _ _ _ hlegal)), State.starts_modCore fun _ => Core.start_noteLegal ..,
      State.starts_look]

@[simp] theorem State.starts_issueAll : s.issueAll.starts = s.starts :=
  State.starts_foldl (fun _ _ => State.starts_either (State.starts_takeOp _ _ (steady_planFor _)) rfl) _ _

/-! ## The cycle -/

theorem State.starts_setClk (k : Clocks) : ({ s with clk := k } : State).starts = s.starts := State.starts_congr rfl rfl

/-- Of what takes place in a cycle of its own accord, the starts of runs alone set this. -/
theorem State.starts_settle (h : s.clk.settled ≠ s.cyc + 1) : s.settle.starts = s.startRuns.starts := by
  unfold State.settle
  rw [if_neg h]
  refine (State.starts_setClk ..).trans ?_
  simp only [State.starts_fallDue, State.starts_staticCommits, State.starts_staticHeaders, State.starts_stampInjected]
  exact (State.starts_foldl State.starts_runJobs _ _).trans (State.starts_issueAll _)

end

end Sys2Proof.Machine
end

section
/-!
# The start of a run (spec/03 R97; spec/11 R284)

What a start makes of a core, the starts of one cycle, and the first two clauses of O30.
-/
namespace Sys2Proof.Machine

/-! ## Many cores changed -/

section
variable (f : Core → Core) (cs : List Nat) (s : State)

/-- A core is changed as often as it is named. -/
theorem State.core_modCores (c : Nat) : (s.modCores cs f).core c = f^[cs.count c] (s.core c) := by
  induction cs generalizing s with
  | nil => rfl
  | cons d cs ih =>
    refine (ih (s.modCore d f)).trans ?_
    rw [State.core_modCore]
    split
    · subst_vars; rw [List.count_cons_self, Function.iterate_succ_apply]
    · next h => rw [List.count_cons_of_ne h]

theorem State.core_modCores_of_notMem {c : Nat} (h : c ∉ cs) : (s.modCores cs f).core c = s.core c := by
  rw [State.core_modCores, List.count_eq_zero_of_not_mem h, Function.iterate_zero_apply]

@[simp] theorem State.modCores_fuses : (s.modCores cs f).fuses = s.fuses := foldl_proj (π := State.fuses) (fun _ _ => by rfl) cs s
@[simp] theorem State.modCores_clk : (s.modCores cs f).clk = s.clk := foldl_proj (π := State.clk) (fun _ _ => by rfl) cs s
@[simp] theorem State.modCores_mem : (s.modCores cs f).mem = s.mem := foldl_proj (π := State.mem) (fun _ _ => by rfl) cs s
@[simp] theorem State.modCores_parts : (s.modCores cs f).parts = s.parts := foldl_proj (π := State.parts) (fun _ _ => by rfl) cs s
@[simp] theorem State.modCores_xfers : (s.modCores cs f).xfers = s.xfers := foldl_proj (π := State.xfers) (fun _ _ => by rfl) cs s
@[simp] theorem State.modCores_err : (s.modCores cs f).err = s.err := foldl_proj (π := State.err) (fun _ _ => by rfl) cs s
@[simp] theorem State.modCores_part (p : Nat) : (s.modCores cs f).part p = s.part p := by
  rw [State.part, State.modCores_parts]; rfl

end

/-! ## A core at its run's start -/

/-- A core that a run starts. -/
def Core.go (k : Core) (diag : Bool) (now cyc : Nat) : Core :=
  let k := { k with tokens := k.burst * 1024 }
  if diag then k.goMicro now cyc else { k with running := true, startCyc := cyc, due := cyc }

/-- Has a core been started in the cycle `cyc`, at the stamp `now`? -/
def Begun (diag : Bool) (now cyc : Nat) (x : Nat × Micro) : Prop :=
  (diag = false → x.1 = cyc) ∧ (diag = true → x.2.running = true ∧ x.2.goStamp = now ∧ x.2.goCycle = cyc)

theorem begun_go (k : Core) (diag : Bool) (now cyc : Nat) : Begun diag now cyc (k.go diag now cyc).start := by
  cases diag
  · exact ⟨fun _ => rfl, nofun⟩
  · exact ⟨nofun, fun _ => ⟨rfl, rfl, rfl⟩⟩

/-- A second start in the same cycle leaves what the first one has set. -/
theorem Begun.go {diag : Bool} {now cyc : Nat} {k : Core} (h : Begun diag now cyc k.start) (d : Bool) :
    Begun diag now cyc (k.go d now cyc).start := by
  cases d <;> cases diag
  · exact ⟨fun _ => rfl, nofun⟩
  · exact ⟨nofun, h.2⟩
  · exact ⟨h.1, nofun⟩
  · exact ⟨nofun, fun _ => ⟨rfl, rfl, rfl⟩⟩

/-! ## The start of one run -/

section
variable (s : State) (p : Nat)

/-- The cores that a run's start reaches. -/
def State.starters : List Nat := (s.part p).run.cores.filter fun c => !s.coreHedged c

theorem State.startRun_eq : s.startRun p =
    (s.modRun p fun r => { r with started := true }).modCores (s.starters p) fun k => k.go (s.part p).run.diag s.now s.cyc := rfl

theorem State.core_startRun (c : Nat) : (s.startRun p).core c =
    (fun k => k.go (s.part p).run.diag s.now s.cyc)^[(s.starters p).count c] (s.core c) := by
  rw [State.startRun_eq, State.core_modCores]
  rfl

theorem State.mem_starters {c : Nat} : c ∈ s.starters p ↔ c ∈ (s.part p).run.cores ∧ s.coreHedged c = false := by
  simp [State.starters]

@[simp] theorem State.startRun_fuses : (s.startRun p).fuses = s.fuses := by simp [State.startRun_eq]
@[simp] theorem State.startRun_clk : (s.startRun p).clk = s.clk := by simp [State.startRun_eq]
@[simp] theorem State.startRun_err : (s.startRun p).err = s.err := by simp [State.startRun_eq]
@[simp] theorem State.startRun_mem : (s.startRun p).mem = s.mem := by simp [State.startRun_eq]
@[simp] theorem State.startRun_xfers : (s.startRun p).xfers = s.xfers := by simp [State.startRun_eq]

theorem State.part_startRun (q : Nat) : (s.startRun p).part q =
    if p = q then { s.part p with run := { (s.part p).run with started := true } } else s.part q := by
  simp only [State.startRun_eq, State.modCores_part, State.part_modRun]

@[simp] theorem State.coreHedged_startRun (c : Nat) : (s.startRun p).coreHedged c = s.coreHedged c := by
  simp only [State.coreHedged, State.dieHedged, State.hedgedUnit, State.startRun_err, State.regionOf, State.localOf, State.dieOf, State.perDie,
    State.startRun_fuses]

/-- Is run `p` of the state `s` started, and each of its cores with it, in the cycle of `s`? -/
def State.RunBegun (t : State) : Prop :=
  (t.part p).run.started = true ∧ ∀ c ∈ s.starters p, Begun (s.part p).run.diag s.now s.cyc (t.core c).start

theorem State.runBegun_startRun : s.RunBegun p (s.startRun p) := by
  refine ⟨by simp [State.part_startRun], fun c hc => ?_⟩
  obtain ⟨n, hn⟩ := Nat.exists_eq_succ_of_ne_zero (List.count_pos_iff.mpr hc).ne'
  rw [State.core_startRun, hn, Function.iterate_succ_apply']
  exact begun_go ..

end

/-! ## The starts of a cycle -/

section
variable {s : State} {p : Nat}

/-- A further start of the same cycle. -/
theorem State.RunBegun.startRun {t : State} (h : s.RunBegun p t) (hclk : t.clk = s.clk) (q : Nat) : s.RunBegun p (t.startRun q) := by
  obtain ⟨started, begun⟩ := h
  refine ⟨by rw [State.part_startRun]; split <;> simp [started], fun c hc => ?_⟩
  have now : t.now = s.now := congrArg Clocks.now hclk
  have cyc : t.cyc = s.cyc := congrArg Clocks.cycles hclk
  rw [State.core_startRun, now, cyc]
  induction (t.starters q).count c with
  | zero => exact begun c hc
  | succ n ih => rw [Function.iterate_succ_apply']; exact ih.go _

/-- The step of `State.startRuns`. -/
def State.startDue (s : State) (p : Nat) : State := if s.runDue p then s.startRun p else s

theorem State.startDue_clk (s : State) (p : Nat) : (s.startDue p).clk = s.clk := by
  unfold State.startDue
  split <;> simp

theorem State.RunBegun.foldl (l : List Nat) : ∀ {t : State}, s.RunBegun p t → t.clk = s.clk → s.RunBegun p (l.foldl State.startDue t) := by
  induction l with
  | nil => exact fun h _ => h
  | cons q l ih =>
    intro t h hclk
    refine ih ?_ ((t.startDue_clk q).trans hclk)
    unfold State.startDue
    split
    · exact h.startRun hclk q
    · exact h

/-- The start of another run leaves a run that is due as it is, and what its start would do. -/
theorem State.runBegun_startDue {q : Nat} (h : q ≠ p) : (s.startDue q).runDue p = s.runDue p ∧
    ((s.startDue q).RunBegun p = s.RunBegun p) := by
  unfold State.startDue
  split
  · have part : (s.startRun q).part p = s.part p := by rw [State.part_startRun, if_neg h]
    have clk := s.startRun_clk q
    have starters : (s.startRun q).starters p = s.starters p := by
      simp only [State.starters, part, State.coreHedged_startRun]
    constructor
    · simp [State.runDue, part]
    · funext t
      simp only [State.RunBegun, starters, part, State.now, State.cyc, clk]
  · exact ⟨rfl, rfl⟩

theorem State.runBegun_foldl (l : List Nat) : ∀ {s : State}, s.runDue p = true → p ∈ l → s.RunBegun p (l.foldl State.startDue s) := by
  induction l with
  | nil => simp
  | cons q l ih =>
    intro s hdue hp
    by_cases h : q = p
    · subst h
      refine State.RunBegun.foldl l ?_ (State.startDue_clk ..)
      rw [State.startDue, if_pos hdue]
      exact s.runBegun_startRun q
    · obtain ⟨due, same⟩ := State.runBegun_startDue (s := s) h
      have begun := ih (due.trans hdue) ((List.mem_cons.mp hp).resolve_left (Ne.symm h))
      rwa [same] at begun

theorem State.RunBegun.congr {t u : State} (h : s.RunBegun p t) (same : u.starts = t.starts) : s.RunBegun p u := by
  obtain ⟨started, begun⟩ := h
  have run : (u.part p).run.started = (t.part p).run.started := congrArg (fun x => x.2 p) same
  have core (c : Nat) : (u.core c).start = (t.core c).start := congrArg (fun x => x.1 c) same
  exact ⟨run.trans started, fun c hc => core c ▸ begun c hc⟩

theorem State.startRuns_eq (s : State) : s.startRuns = partNumbers.foldl State.startDue s := rfl

theorem mem_partNumbers (hp : p < 8) : p ∈ partNumbers := by
  simp only [partNumbers, List.mem_cons, List.not_mem_nil, or_false]
  omega

/-- A run that is due is started when the cycle is settled. -/
theorem State.runBegun_settle (hdue : s.runDue p = true) (hp : p < 8) (h : s.clk.settled ≠ s.cyc + 1) : s.RunBegun p s.settle := by
  refine State.RunBegun.congr ?_ (s.starts_settle h)
  rw [State.startRuns_eq]
  exact State.runBegun_foldl partNumbers hdue (mem_partNumbers hp)

/-- The command of a start settles the cycle. -/
theorem exec_runStart (h : s.runDue p = true) : exec (.runStart p) s = .next s.settle := by
  show execRunStart p s = _
  rw [execRunStart, if_pos h]

/-- What a start makes of a core that the run names once. -/
theorem State.core_startRun_of_once {c : Nat} (h : (s.part p).run.cores.filter (fun d => d == c) = [c]) (hc : s.coreHedged c = false) :
    (s.startRun p).core c = (s.core c).go (s.part p).run.diag s.now s.cyc := by
  have once : (s.starters p).count c = 1 := by
    rw [State.starters, List.count_filter (by simp [hc]), List.count_eq_length_filter, h]
    rfl
  rw [State.core_startRun, once, Function.iterate_one]

theorem State.core_startRun_of_none {c : Nat} (h : c ∉ (s.part p).run.cores ∨ s.coreHedged c = true) :
    (s.startRun p).core c = s.core c := by
  have none : c ∉ s.starters p := by
    rw [State.mem_starters]
    rcases h with h | h <;> simp [h]
  rw [State.startRun_eq, State.core_modCores_of_notMem _ _ _ none]
  rfl

end
end Sys2Proof.Machine
end

section
/-!
# The close of a run (spec/15 R385; spec/12 R305)

Each core's tags are reclaimed, its op entries retire and its open epochs are forced closed.
-/
namespace Sys2Proof.Machine

section
variable (s : State) (c : Nat)

/-- Has no transfer that a core has made a tag? -/
def State.Freed : Prop := ∀ x ∈ s.xfers, x.core = c → x.foreign = false → x.tag = none

theorem State.forceEpochs_xfers : (s.forceEpochs c).xfers = s.xfers := by
  unfold State.forceEpochs
  refine foldl_proj (π := State.xfers) (fun t n => ?_) _ _
  dsimp only
  split
  · rfl
  · rw [State.logCore_xfers, State.modCore_xfers]

theorem State.untraced_forceEpochs : (s.forceEpochs c).untraced = s.untraced := by
  unfold State.forceEpochs
  refine foldl_proj (π := State.untraced) (fun t n => ?_) _ _
  dsimp only
  split
  · rfl
  · rw [State.untraced_logCore]
    exact State.untraced_congr rfl

/-- What the close of a run does to one of its cores. -/
def State.closeCore : State := ((s.reclaim c).modCore c fun k => k.retireOps s.cyc).forceEpochs c

theorem State.closeCore_xfers : (s.closeCore c).xfers = (s.reclaim c).xfers := State.forceEpochs_xfers ..

theorem State.untraced_closeCore : (s.closeCore c).untraced = s.untraced :=
  (State.untraced_forceEpochs ..).trans (State.untraced_congr rfl)

theorem State.freed_closeCore : (s.closeCore c).Freed c := by
  intro y hy hcore hown
  rw [State.closeCore_xfers] at hy
  obtain ⟨x, -, rfl⟩ := List.mem_map.mp hy
  split at hcore
  · next h => rw [if_pos h]
  · next h =>
    rw [if_neg h] at hown ⊢
    simpa [hcore, hown] using h

end

section
variable {s : State} {c : Nat}

/-- A transfer without a tag gets none. -/
theorem State.Freed.closeCore (h : s.Freed c) (d : Nat) : (s.closeCore d).Freed c := by
  intro y hy hcore hown
  rw [State.closeCore_xfers] at hy
  obtain ⟨x, hx, rfl⟩ := List.mem_map.mp hy
  split at hcore
  · next hd => rw [if_pos hd]
  · next hd =>
    rw [if_neg hd] at hown ⊢
    exact h x hx hcore hown

theorem State.Freed.foldl (cs : List Nat) : ∀ {s : State}, s.Freed c → (cs.foldl State.closeCore s).Freed c := by
  induction cs with
  | nil => exact id
  | cons d cs ih =>
    intro s h
    rw [List.foldl_cons]
    exact ih (h.closeCore d)

theorem State.freed_foldl (cs : List Nat) : ∀ {s : State}, c ∈ cs → (cs.foldl State.closeCore s).Freed c := by
  induction cs with
  | nil => simp
  | cons d cs ih =>
    intro s hc
    rw [List.foldl_cons]
    rcases List.mem_cons.mp hc with rfl | hc
    · exact (s.freed_closeCore c).foldl cs
    · exact ih hc

end

/-- A run closes that was aborted or in which a core has faulted, once its cores have ended. -/
theorem exec_runClose {s : State} {p : Nat} (hpresent : (s.part p).run.present = true) (hclosed : (s.part p).run.closed = false)
    (hforced : s.runForced (s.part p).run = true) (hquiet : s.runQuiet (s.part p).run = true)
    (hdone : (∀ c ∈ (s.part p).run.cores, s.heldTags c = []) ∨ (s.part p).run.lastStop + 2000000000 ≤ s.ns) :
    exec (.runClose p) s = .next (((s.part p).run.cores.foldl State.closeCore s).modRun p fun r => { r with closed := true }) := by
  have drained : ((s.part p).run.cores.any (fun c => !(s.heldTags c).isEmpty) &&
      decide (s.ns < (s.part p).run.lastStop + 2000000000)) = false := by
    rcases hdone with h | h
    · simp; tauto
    · simp; omega
  show execRunClose p s = _
  unfold execRunClose
  dsimp only
  rw [if_neg (by simp [hpresent, hclosed, hforced, hquiet]), if_neg (by simp [drained])]
  rfl

/-- The state in which a run has closed. -/
theorem State.closed_run {s t : State} {p : Nat} (h : t.untraced = s.untraced) (hpresent : (s.part p).run.present = true) :
    ((t.modRun p fun r => { r with closed := true }).part p).run.closed = true ∧
      ((t.modRun p fun r => { r with closed := true }).part p).run.present = true := by
  have present : (t.part p).run.present = (s.part p).run.present := congrArg (fun u => (u p).run.present) h
  simp [present, hpresent]

end Sys2Proof.Machine
end

section
/-!
# The end of a run (spec/15 R384)

RUN_END, and what follows in the same command: the commands that wait for the run's end, a twin's comparison, links that join again, repeats
that end, a partition that is vacated. None of these takes back what has been sent, and none touches a run.
-/
namespace Sys2Proof.Machine

/-! ## What follows leaves -/

/-- The runs of the partitions without the counts of their trace buffers. -/
def State.ran (s : State) (p : Nat) : Run := (s.part p).run.untraced

/-- `t` has the runs of `s`, and has sent what `s` has sent. -/
def State.Follows (s t : State) : Prop := s.host.sent ⊆ t.host.sent ∧ t.ran = s.ran

theorem State.ran_of_untraced {s t : State} (h : t.untraced = s.untraced) : t.ran = s.ran :=
  funext fun p => congrArg (fun u => (u p).run) h

theorem State.ran_congr {s t : State} (h : t.parts = s.parts) : t.ran = s.ran := State.ran_of_untraced (State.untraced_congr h)

theorem State.Follows.refl (s : State) : s.Follows s := ⟨List.Subset.refl _, rfl⟩

theorem State.Follows.trans {s t u : State} (h : s.Follows t) (h' : t.Follows u) : s.Follows u :=
  ⟨List.Subset.trans h.1 h'.1, h'.2.trans h.2⟩

theorem State.Follows.of_host {s t : State} (hhost : t.host = s.host) (hran : t.ran = s.ran) : s.Follows t :=
  ⟨fun _ h => hhost ▸ h, hran⟩

theorem State.Follows.of_parts {s t : State} (hsent : s.host.sent ⊆ t.host.sent) (hparts : t.parts = s.parts) : s.Follows t :=
  ⟨hsent, State.ran_congr hparts⟩

theorem State.Follows.foldl {α : Type} {f : State → α → State} (h : ∀ (s : State) x, s.Follows (f s x)) (l : List α) (s : State) :
    s.Follows (l.foldl f s) := by
  induction l generalizing s with
  | nil => exact .refl s
  | cons x l ih => exact (h s x).trans (ih _)

section
variable (s : State)

theorem State.follows_send (x : Sent) : s.Follows (s.send x) := .of_parts (List.subset_cons_self ..) rfl

theorem State.follows_setScope (i : Nat) (x : Scope) : s.Follows (s.setScope i x) := .of_parts (List.Subset.refl _) rfl

theorem State.follows_modPart (p : Nat) {f : Part → Part} (h : ∀ x, (f x).run = x.run) : s.Follows (s.modPart p f) := by
  refine .of_host rfl (funext fun q => ?_)
  simp only [State.ran, State.part_modPart]
  split
  · subst_vars; rw [h]
  · rfl

theorem State.follows_modCascade (p : Nat) (f : Cascade → Cascade) : s.Follows (s.modCascade p f) := s.follows_modPart p fun _ => rfl

theorem State.follows_modLink (l : Nat) (f : Link → Link) : s.Follows (s.modLink l f) := .of_host rfl rfl

theorem State.follows_logEntry (d i : Nat) (p : Option Nat) (code : Nat) (ctx : List Byte) : s.Follows (s.logEntry d i p code ctx) :=
  .of_host (State.logEntry_host ..) (State.ran_of_untraced (State.untraced_logEntry ..))

theorem State.follows_modCores (cs : List Nat) (f : Core → Core) : s.Follows (s.modCores cs f) :=
  .of_host (foldl_proj (π := State.host) (fun _ _ => by rfl) cs s) (State.ran_congr (State.modCores_parts ..))

theorem State.follows_event (i code : Nat) (fields : List Byte) : s.Follows (s.event i code fields) := by
  unfold State.event
  dsimp only
  split
  · split
    · exact s.follows_setScope ..
    · split <;> exact s.follows_setScope ..
  · exact (s.follows_setScope ..).trans (.foldl (fun s _ => s.follows_send _) _ _)

theorem State.follows_longEnd (l : LongCmd) (status : Nat) (result : List Byte) : s.Follows (s.longEnd l status result) := by
  unfold State.longEnd State.cmdDone
  refine State.Follows.trans ?_ (State.follows_event ..)
  exact .of_parts (List.Subset.refl _) rfl

end

/-! ## Links -/

theorem State.follows_pump (l n : Nat) : ∀ s : State, s.Follows (State.pump l n s) := by
  induction n with
  | zero => exact .refl
  | succ n ih =>
    intro s
    unfold State.pump
    split
    · exact .refl s
    · refine State.Follows.trans (State.Follows.trans ?_ (State.follows_send ..)) (ih _)
      exact .of_host rfl rfl

section
variable (s : State)

theorem State.follows_sendOn (p : Nat) (k : Packet) : s.Follows (s.sendOn p k) :=
  (s.follows_modLink ..).trans (State.follows_pump ..)

theorem State.follows_manage (p dst : Nat) (body : List Byte) : s.Follows (s.manage p dst body) := s.follows_sendOn ..

theorem State.follows_spread (p root : Nat) (body : List Byte) : s.Follows (s.spread p root body) :=
  .foldl (fun s _ => s.follows_sendOn ..) _ _

theorem State.follows_tellCascade (p kind rank stamp : Nat) : s.Follows (s.tellCascade p kind rank stamp) := by
  unfold State.tellCascade
  dsimp only
  split
  · exact (s.follows_event ..).trans (State.follows_spread ..)
  · exact s.follows_manage ..

theorem State.follows_rehome (p l : Nat) : s.Follows (s.rehome p l) := by
  unfold State.rehome
  dsimp only
  refine State.Follows.trans (State.Follows.trans ?_ (.foldl (fun s _ => ?_) _ _)) (.foldl (fun s _ => State.follows_pump _ _ s) _ _)
  · exact s.follows_modLink ..
  · exact s.follows_modLink ..

theorem State.follows_memberBack (p l : Nat) : s.Follows (s.memberBack p l) := by
  unfold State.memberBack
  dsimp only
  split
  · exact (s.follows_modCascade ..).trans (State.follows_tellCascade ..)
  · exact .refl s

theorem State.follows_endRecovery (domain index : Nat) : s.Follows (s.endRecovery domain index) :=
  .of_host (State.endRecovery_host ..) (State.ran_congr (State.endRecovery_parts ..))

theorem State.follows_regather (p l : Nat) : s.Follows (s.regather p l) := by
  unfold State.regather
  refine .foldl (fun s j => ?_) _ _
  split
  · exact s.follows_rehome ..
  · exact .refl s

theorem State.follows_reenter (p l : Nat) : s.Follows (s.reenter p l) := by
  unfold State.reenter
  dsimp only
  exact (s.follows_modLink ..).trans ((State.follows_endRecovery ..).trans ((State.follows_memberBack ..).trans
    ((State.follows_rehome ..).trans (State.follows_regather ..))))

theorem State.follows_relink (p : Nat) : s.Follows (s.relink p) := .foldl (fun s _ => s.follows_reenter ..) _ _

/-! ## Repeats -/

theorem State.follows_unhedge (domain index : Nat) : s.Follows (s.unhedge domain index) := by
  unfold State.unhedge
  dsimp only
  refine State.Follows.trans ?_ (State.follows_logEntry ..)
  split <;> exact .of_host rfl rfl

theorem State.follows_endRepeats (p : Nat) : s.Follows (s.endRepeats p) := by
  refine .foldl (fun s h => ?_) _ _
  split
  · exact s.follows_unhedge ..
  · exact .of_host rfl rfl

/-! ## A partition vacated -/

theorem State.follows_leaveCascade (p : Nat) : s.Follows (s.leaveCascade p) := by
  unfold State.leaveCascade
  extract_lets k a b mine
  have answered : s.Follows a := by
    simp only [a]
    split
    · exact s.follows_longEnd ..
    · exact .refl s
  have told : a.Follows b := by
    simp only [b]
    split
    · exact .refl a
    · split
      · exact (a.follows_modCascade ..).trans ((State.follows_spread ..).trans (State.follows_tellCascade ..))
      · exact a.follows_tellCascade ..
  split
  · exact .refl s
  · refine answered.trans (told.trans (State.Follows.trans ?_ (State.follows_modCascade ..)))
    exact .of_host rfl rfl

theorem State.follows_closeWindow (p w : Nat) : s.Follows (s.closeWindow p w) := by
  have changed (s : State) : s.Follows (s.ownerChanged p w false) := by
    unfold State.ownerChanged
    extract_lets k t
    have owned : s.Follows t := s.follows_modCascade ..
    split
    · exact owned
    · split
      · exact owned.trans (State.follows_spread ..)
      · exact owned.trans (State.follows_manage ..)
  unfold State.closeWindow
  dsimp only
  split
  · exact .refl s
  · refine State.Follows.trans (State.Follows.trans ?_ (State.follows_modPart _ _ fun _ => ?_)) (changed _)
    · exact .of_host rfl rfl
    · rfl

theorem State.follows_dropData (f : QPair → Bool) : s.Follows (s.dropData f) := by
  unfold State.dropData
  dsimp only
  refine State.Follows.trans ?_ (.foldl (fun s _ => s.follows_send _) _ _)
  exact .of_parts (List.Subset.refl _) rfl

theorem State.follows_vacatePart (p : Nat) : s.Follows (s.vacatePart p) :=
  (s.follows_leaveCascade p).trans ((State.Follows.foldl (fun s _ => s.follows_closeWindow ..) _ _).trans
    ((State.follows_modCores ..).trans (State.follows_dropData ..)))

end
end Sys2Proof.Machine
end

section
/-!
# RUN_END reaches its scope (spec/15 R370, R384)

An event goes out at once where its scope has mailboxes, and is held else. A held one stays, as the newest of those held, through what follows
in the command of a run's end, unless a command ends that waits for it or the partition tells its cascade; and then it goes out.
-/
namespace Sys2Proof.Machine

/-! ## Events -/

/-- The frame of the next event of a scope. -/
def State.eventFrame (s : State) (i code : Nat) (fields : List Byte) : Frame :=
  ⟨2, scopeByte i, 0, code, 0, (s.scope i).eventSeq + 1, s.now, fields⟩

/-- Has a frame been sent? -/
def State.HasSent (s : State) (f : Frame) : Prop := ∃ q, Sent.frame q f ∈ s.host.sent

/-- Is a frame sent, or held by a scope? -/
def State.Reports (s : State) (i : Nat) (f : Frame) : Prop := s.HasSent f ∨ f ∈ (s.scope i).held

/-- Is a frame sent, or the newest that a scope holds? -/
def State.ReportsLast (s : State) (i : Nat) (f : Frame) : Prop := s.HasSent f ∨ ∃ l, (s.scope i).held = l ++ [f]

section
variable {s t : State} {i : Nat} {f : Frame}

theorem State.HasSent.mono (h : s.HasSent f) (hsent : s.host.sent ⊆ t.host.sent) : t.HasSent f := by
  obtain ⟨q, hq⟩ := h
  exact ⟨q, hsent hq⟩

theorem State.Reports.mono (h : s.Reports i f) (hsent : s.host.sent ⊆ t.host.sent) (hscope : t.scope i = s.scope i) : t.Reports i f :=
  h.imp (fun h => h.mono hsent) fun h => hscope ▸ h

theorem State.Reports.congr (h : s.Reports i f) (hhost : t.host = s.host) : t.Reports i f :=
  h.mono (fun _ h => hhost ▸ h) (by rw [State.scope, State.scope, hhost])

theorem State.ReportsLast.mono (h : s.ReportsLast i f) (hsent : s.host.sent ⊆ t.host.sent) (hscope : t.scope i = s.scope i) :
    t.ReportsLast i f := h.imp (fun h => h.mono hsent) fun h => hscope ▸ h

theorem State.ReportsLast.congr (h : s.ReportsLast i f) (hhost : t.host = s.host) : t.ReportsLast i f :=
  h.mono (fun _ h => hhost ▸ h) (by rw [State.scope, State.scope, hhost])

theorem State.ReportsLast.reports (h : s.ReportsLast i f) : s.Reports i f := by
  refine h.imp id fun h => ?_
  obtain ⟨l, hl⟩ := h
  simp [hl]

end

section
variable (s : State) (i code : Nat) (fields : List Byte)

theorem State.hasSent_foldl (f : Frame) (qs : List QPair) (h : qs ≠ []) : (qs.foldl (fun s q => s.send (.frame q.q f)) s).HasSent f := by
  obtain ⟨q, qs, rfl⟩ := List.exists_cons_of_ne_nil h
  rw [List.foldl_cons]
  have sent : (s.send (.frame q.q f)).HasSent f := ⟨q.q, List.mem_cons_self ..⟩
  exact sent.mono (State.Follows.foldl (fun s _ => s.follows_send _) _ _).1

theorem State.hasSent_event (hpaused : s.mgt.paused = false) (hmail : s.mailboxes i ≠ []) :
    (s.event i code fields).HasSent (s.eventFrame i code fields) := by
  unfold State.event
  dsimp only
  rw [hpaused]
  split
  · next h => exact absurd h hmail
  · exact State.hasSent_foldl _ _ _ hmail

/-- An event is sent, or is held as the newest; a scope that holds 64 drops the oldest of them. -/
theorem State.held_event : (s.event i code fields).HasSent (s.eventFrame i code fields) ∧
      ((s.event i code fields).scope i).held = (s.scope i).held ∨
    ((s.event i code fields).scope i).held =
      (if (s.scope i).held.length < 64 then (s.scope i).held else (s.scope i).held.tail) ++ [s.eventFrame i code fields] := by
  unfold State.event
  dsimp only
  split
  · refine .inr ?_
    split
    · rw [State.scope_setScope, if_pos rfl]; rfl
    · split
      · next h => rw [State.scope_setScope, if_pos rfl, h]; rfl
      · next h => rw [State.scope_setScope, if_pos rfl, h]; rfl
  · next h =>
    refine .inl ⟨State.hasSent_foldl _ _ _ h, ?_⟩
    rw [foldl_proj (π := fun s => s.scope i) (fun _ _ => State.scope_send ..), State.scope_setScope, if_pos rfl]

theorem State.scope_event_of_ne {j : Nat} (h : i ≠ j) : (s.event i code fields).scope j = s.scope j := by
  unfold State.event
  dsimp only
  split
  · split
    · rw [State.scope_setScope, if_neg h]
    · split <;> rw [State.scope_setScope, if_neg h]
  · rw [foldl_proj (π := fun s => s.scope j) (fun _ _ => State.scope_send ..), State.scope_setScope, if_neg h]

theorem State.reportsLast_event : (s.event i code fields).ReportsLast i (s.eventFrame i code fields) :=
  (s.held_event i code fields).imp And.left fun h => ⟨_, h⟩

/-- The newest that a scope holds is held still after a further event. -/
theorem State.ReportsLast.event {s : State} {j : Nat} {f : Frame} (h : s.ReportsLast j f) (i code : Nat) (fields : List Byte) :
    (s.event i code fields).Reports j f := by
  rcases h with h | ⟨l, hl⟩
  · exact .inl (h.mono (s.follows_event i code fields).1)
  · refine .inr ?_
    by_cases hij : i = j
    · subst hij
      rcases s.held_event i code fields with ⟨-, held⟩ | held
      · simp [held, hl]
      · rw [held, hl]
        refine List.mem_append_left _ ?_
        split
        · simp
        · next full => cases l with
          | nil => simp at full
          | cons g l => simp
    · rw [s.scope_event_of_ne i code fields hij, hl]
      simp

theorem State.ReportsLast.longEnd {s : State} {j : Nat} {f : Frame} (h : s.ReportsLast j f) (l : LongCmd) (status : Nat) (result : List Byte) :
    (s.longEnd l status result).Reports j f := by
  unfold State.longEnd State.cmdDone
  refine State.ReportsLast.event (State.ReportsLast.mono h ?_ ?_) ..
  · exact List.Subset.refl _
  · rfl

end

/-! ## A partition without a cascade -/

section
variable {s : State} {p : Nat} {f : Frame}

theorem State.linkServes_of_alone (h : (s.cas p).joined = false) {l : Nat} (hl : s.unitPart 4 l = some p) : s.linkServes l = false := by
  simp [State.linkServes, hl, h]

theorem State.relink_of_alone (h : (s.cas p).joined = false) : s.relink p = s := by
  have none_back : ((List.range 64).filter fun l => s.unitPart 4 l == some p && (s.link l).state == 2 && s.linkServes l) = [] := by
    refine List.filter_eq_nil_iff.mpr fun l _ => ?_
    by_cases hl : s.unitPart 4 l = some p
    · simp [State.linkServes_of_alone h hl]
    · simp [hl]
  unfold State.relink
  rw [none_back]
  rfl

theorem State.host_endRepeats (s : State) (p : Nat) : (s.endRepeats p).host = s.host := by
  unfold State.endRepeats
  refine foldl_proj (π := State.host) (fun t h => ?_) _ _
  split
  · unfold State.unhedge
    dsimp only
    rw [State.logEntry_host]
    split <;> rfl
  · rfl

theorem State.untraced_endRepeats (s : State) (p : Nat) : (s.endRepeats p).untraced = s.untraced := by
  unfold State.endRepeats
  refine foldl_proj (π := State.untraced) (fun t h => ?_) _ _
  split
  · unfold State.unhedge
    dsimp only
    rw [State.untraced_logEntry]
    split <;> exact State.untraced_congr rfl
  · exact State.untraced_congr rfl

theorem State.cas_of_untraced {t : State} (h : t.untraced = s.untraced) (p : Nat) : t.cas p = s.cas p :=
  congrArg (fun u => (u p).cascade) h

theorem State.joined_modCascade (f : Cascade → Cascade) : ((s.modCascade p f).cas p) = f (s.cas p) := by
  simp [State.cas]

/-- A partition alone leaves the cascade that it was about to join. -/
theorem State.leaveCascade_of_alone (h : (s.cas p).joined = false) (hf : s.ReportsLast p f) :
    (s.leaveCascade p).Reports p f ∧ ((s.leaveCascade p).cas p).joined = false := by
  unfold State.leaveCascade
  extract_lets k a b mine
  have answered : a.Reports p f := by
    simp only [a]
    split
    · exact hf.longEnd ..
    · exact hf.reports
  have same : b = a := by simp only [b, k, h]; rfl
  split
  · exact ⟨hf.reports, h⟩
  · refine ⟨State.Reports.congr (s := b) (same ▸ answered) rfl, ?_⟩
    rw [State.joined_modCascade]

theorem State.cas_modWindow (s : State) (p w : Nat) (f : Window → Window) (q : Nat) : (s.modWindow p w f).cas q = s.cas q := by
  simp only [State.cas, State.modWindow, State.part_modPart]
  split
  · subst_vars; rfl
  · rfl

theorem State.closeWindow_of_alone (h : (s.cas p).joined = false) (w : Nat) :
    (s.closeWindow p w).host = s.host ∧ ((s.closeWindow p w).cas p).joined = false := by
  have kept (k : Cascade) (hk : k.joined = false) (rank : Option Nat) : (k.own w rank).joined = false := by simp [Cascade.own, hk]
  have changed {s : State} (h : (s.cas p).joined = false) :
      (s.ownerChanged p w false).host = s.host ∧ ((s.ownerChanged p w false).cas p).joined = false := by
    unfold State.ownerChanged
    dsimp only
    rw [h, if_pos (by rfl), State.joined_modCascade]
    exact ⟨rfl, kept _ h _⟩
  unfold State.closeWindow
  dsimp only
  split
  · exact ⟨rfl, h⟩
  · refine And.imp_left (fun hhost => hhost.trans rfl) (changed ?_)
    rw [State.cas_modWindow]
    exact h

theorem State.reports_closeWindows (ws : List Nat) : ∀ {s : State}, (s.cas p).joined = false → s.Reports p f →
    (ws.foldl (fun s w => s.closeWindow p w) s).Reports p f := by
  induction ws with
  | nil => exact fun _ h => h
  | cons w ws ih =>
    intro s h hf
    obtain ⟨host, alone⟩ := State.closeWindow_of_alone h w
    exact ih alone (hf.congr host)

theorem State.scope_dropData (s : State) (g : QPair → Bool) (i : Nat) : (s.dropData g).scope i = s.scope i := by
  unfold State.dropData
  dsimp only
  exact foldl_proj (π := fun s => s.scope i) (fun _ _ => State.scope_send ..) _ _

theorem State.reports_vacatePart (h : (s.cas p).joined = false) (hf : s.ReportsLast p f) : (s.vacatePart p).Reports p f := by
  obtain ⟨left, alone⟩ := State.leaveCascade_of_alone h hf
  unfold State.vacatePart
  dsimp only
  refine State.Reports.mono ?_ (State.follows_dropData ..).1 (State.scope_dropData ..)
  refine State.Reports.congr ?_ (foldl_proj (π := State.host) (fun _ _ => by rfl) _ _)
  exact State.reports_closeWindows _ alone left

end
end Sys2Proof.Machine
end

section
/-!
# Runs start, close and end (O30)
-/
namespace Sys2Proof.Machine

/-! ## The command of a run's end -/

/-- The state of a run that has ended with the outcome `out`, its cores released. -/
def State.released (s : State) (p out : Nat) : State :=
  let r := (s.part p).run
  let stats := if r.diag then r.cores.map fun c => (s.core c).micro.stat else []
  (s.modRun p fun r => { r with present := false, state := out + 2, endStamp := s.now, outcome := out, micro := stats }).modCores r.cores
    fun k => if r.diag then { k with micro := { k.micro with on := false } } else k.closeRows

theorem State.host_released (s : State) (p out : Nat) : (s.released p out).host = s.host :=
  foldl_proj (π := State.host) (fun _ _ => by rfl) _ _

theorem State.mgt_released (s : State) (p out : Nat) : (s.released p out).mgt = s.mgt :=
  foldl_proj (π := State.mgt) (fun _ _ => by rfl) _ _

theorem State.cas_released (s : State) (p out q : Nat) : (s.released p out).cas q = s.cas q := by
  simp only [State.cas, State.released, State.modCores_part, State.part_modRun]
  split
  · subst_vars; rfl
  · rfl

/-- What follows RUN_END in the same command. -/
def State.afterEnd (s : State) (p out : Nat) : State :=
  let s := (s.longAll p 0x003A).foldl (fun s l => s.longEnd l (if out = 2 then 0 else zeNoRun) []) s
  let k := (s.part p).cascade
  let s := if k.joined && k.twin then
      s.modPart p fun x => { x with cascade := { k with twinOrdinal := k.twinOrdinal + 1, twinDue := some out } }
    else s
  let s := (s.relink p).endRepeats p
  if (s.part p).destroying then s.vacatePart p else s

/-- The fields of RUN_END (R384). -/
def State.endFields (s : State) (p out : Nat) : List Byte :=
  let r := (s.part p).run
  toLE 8 r.seq ++ toLE 1 r.handle ++ toLE 1 out ++ toLE 6 0 ++ toLE 8 (maxOf (r.cores.map s.coreCycle)) ++
    toLE 8 ((r.cores.map fun c => (s.core c).stalls).foldl (· + ·) 0) ++ r.errorBytes

/-- The outcome of a run (R384): 2 aborted, 1 faulted, 0 else. -/
def State.endOutcome (s : State) (p : Nat) : Nat :=
  let r := (s.part p).run
  if r.aborted.isSome then 2 else if s.runFaulty r then 1 else 0

section
variable {s : State} {p : Nat}

theorem exec_runEnd (hpresent : (s.part p).run.present = true) (hquiet : s.runQuiet (s.part p).run = true)
    (hclosed : s.runForced (s.part p).run = true → (s.part p).run.closed = true) (hfault : s.faultWaits p = false) :
    exec (.runEnd p) s = .next (((s.released p (s.endOutcome p)).event p 0x8002 (s.endFields p (s.endOutcome p))).afterEnd p (s.endOutcome p)) := by
  have ready : (!(s.part p).run.present || !s.runQuiet (s.part p).run || (s.runForced (s.part p).run && !(s.part p).run.closed) ||
      s.faultWaits p) = false := by
    simp only [hpresent, hquiet, hfault, Bool.not_true, Bool.or_false, Bool.false_or]
    cases hf : s.runForced (s.part p).run
    · rfl
    · simp [hclosed hf]
  show execRunEnd p s = _
  unfold execRunEnd
  dsimp only
  rw [if_neg (by simp [ready])]
  rfl

theorem State.ran_released (out : Nat) : (s.released p out).ran p =
    { (s.ran p) with present := false, state := out + 2, endStamp := s.now, outcome := out,
                     micro := if (s.part p).run.diag then (s.part p).run.cores.map fun c => (s.core c).micro.stat else [] } := by
  simp only [State.ran, State.released, State.modCores_part, State.part_modRun, if_true]
  rfl

end

section
variable (s : State) (p out : Nat)

theorem State.follows_afterEnd : s.Follows (s.afterEnd p out) := by
  unfold State.afterEnd
  extract_lets a k b c
  have ended : s.Follows a := .foldl (fun s _ => s.follows_longEnd ..) _ _
  have compared : a.Follows b := by
    simp only [b]
    split
    · exact a.follows_modPart _ fun _ => rfl
    · exact .refl a
  have relinked : b.Follows c := (b.follows_relink p).trans (State.follows_endRepeats ..)
  have before := ended.trans (compared.trans relinked)
  split
  · exact before.trans (c.follows_vacatePart p)
  · exact before

variable {s p} in
/-- Where no command waits for the end and the partition is in no cascade, a report that is held stays. -/
theorem State.reports_afterEnd {f : Frame} (hlong : s.longAll p 0x003A = []) (halone : (s.cas p).joined = false)
    (hf : s.ReportsLast p f) : (s.afterEnd p out).Reports p f := by
  unfold State.afterEnd
  extract_lets a k b c
  have ended : a = s := by simp only [a, hlong, List.foldl_nil]
  have alone : k.joined = false := (congrArg (fun u : State => (u.cas p).joined) ended).trans halone
  have compared : b = s := by simp only [b, alone, Bool.false_and, Bool.false_eq_true, if_false, ended]
  have relinked : c = s.endRepeats p := by simp only [c, compared, State.relink_of_alone halone]
  have kept : c.ReportsLast p f := relinked ▸ hf.congr (State.host_endRepeats ..)
  split
  · refine State.reports_vacatePart ?_ kept
    rw [relinked, State.cas_of_untraced (State.untraced_endRepeats ..), halone]
  · exact kept.reports

/-- The event of a run's end changes the scopes and what has been sent, and no command that is under way. -/
theorem State.longAll_event (i code : Nat) (fields : List Byte) (op : Nat) :
    (s.event i code fields).longAll p op = s.longAll p op := by
  have long : (s.event i code fields).host.long = s.host.long := by
    unfold State.event
    dsimp only
    split
    · split
      · rfl
      · split <;> rfl
    · exact foldl_proj (π := fun s => s.host.long) (fun _ _ => by rfl) _ _
  rw [State.longAll, long]
  rfl

end

section
variable {s : State} {p out : Nat}

theorem State.run_ended (u : State) (h : u.ran = (s.released p out).ran) :
    (u.part p).run.present = false ∧ (u.part p).run.state = out + 2 ∧ (u.part p).run.outcome = out := by
  have run : (u.part p).run.untraced = _ := (congrFun h p).trans (s.ran_released out)
  exact ⟨(congrArg Run.present run :), (congrArg Run.state run :), (congrArg Run.outcome run :)⟩

/-- RUN_END is sent, or its scope holds it. -/
theorem State.tells_of_reports {t u : State} {code : Nat} {fields : List Byte} (h : u.Reports p (t.eventFrame p code fields)) :
    u.Tells p code fields := ⟨_, rfl, rfl, rfl, rfl, h⟩

theorem State.tells_runEnd (fields : List Byte)
    (h : (s.mgt.paused = false ∧ s.mailboxes p ≠ []) ∨ (s.longAll p 0x003A = [] ∧ (s.cas p).joined = false)) :
    (((s.released p out).event p 0x8002 fields).afterEnd p out).Tells p 0x8002 fields := by
  rcases h with ⟨hpaused, hmail⟩ | ⟨hlong, halone⟩
  · have sent := (s.released p out).hasSent_event p 0x8002 fields (by rw [State.mgt_released, hpaused])
      (by rw [State.mailboxes, State.host_released]; exact hmail)
    exact State.tells_of_reports (.inl (sent.mono (State.follows_afterEnd ..).1))
  · have last := (s.released p out).reportsLast_event p 0x8002 fields
    refine State.tells_of_reports (State.reports_afterEnd out ?_ ?_ last)
    · rw [State.longAll_event, State.longAll, State.host_released]; exact hlong
    · rw [State.cas, State.part, State.event_parts]
      exact (congrArg Cascade.joined (State.cas_released ..)).trans halone

end

/-! ## The statement -/

/-- Settles O30: a start by `State.runBegun_settle` and `State.core_startRun`, a close by `State.freed_foldl`, an end by
`State.run_ended` and `State.tells_runEnd`. -/
theorem runsStartAndEnd : Obligations.RunsStartAndEnd := by
  intro s p
  refine ⟨?start, ?started, ?close, ?ends⟩
  case start =>
    intro hpresent hstarted haborted hstamp
    have hdue : s.runDue p = true := by simp [State.runDue, hpresent, hstarted, haborted, hstamp]
    refine ⟨_, exec_runStart hdue, rfl, fun hsettled hp => ?_⟩
    obtain ⟨started, begun⟩ := State.runBegun_settle hdue hp hsettled
    exact ⟨started, fun c hc hhedge => begun c ((s.mem_starters p).mpr ⟨hc, hhedge⟩)⟩
  case started =>
    refine ⟨by simp [State.part_startRun], s.startRun_mem p, s.startRun_xfers p, fun c => State.core_startRun_of_none, fun c hc hhedge => ?_⟩
    simp only [State.core_startRun_of_once hc hhedge]
    cases (s.part p).run.diag
    · exact ⟨Nat.mul_comm .., fun _ => ⟨rfl, rfl, rfl⟩, nofun⟩
    · exact ⟨Nat.mul_comm .., nofun, fun _ => ⟨rfl, rfl⟩⟩
  case close =>
    intro hpresent hclosed hforced hquiet hdone
    refine ⟨_, exec_runClose hpresent hclosed hforced hquiet hdone, ?_⟩
    have same := foldl_proj (π := State.untraced) State.untraced_closeCore (s.part p).run.cores s
    obtain ⟨closed, present⟩ := State.closed_run same hpresent
    exact ⟨closed, present, fun c hc => State.freed_foldl _ hc⟩
  case ends =>
    intro hpresent hquiet hclosed hfault
    refine ⟨_, exec_runEnd hpresent hquiet hclosed hfault, ?_⟩
    have told := (s.released p (s.endOutcome p)).follows_event p 0x8002 (s.endFields p (s.endOutcome p))
    obtain ⟨present, state, outcome⟩ := State.run_ended _ (told.trans (State.follows_afterEnd _ p (s.endOutcome p))).2
    exact ⟨present, state, outcome, State.tells_runEnd _⟩

end Sys2Proof.Machine
end

section
/-!
# Rows of the stockpot (spec/04 R108, R111)

What a row holds after a write, an opening, and the products of an op. The products that an op adds are followed as one list per element: each
step of an op appends to these lists, and the whole op adds the appended lists.
-/
namespace Sys2Proof.Machine

/-! ## Elements written and rows opened -/

theorem Core.elem_setElem (k : Core) (row col : Nat) (x : Elem) {r j : Nat} (hcol : col < 128) (hj : j < 128) :
    (k.setElem row col x).elem r j = if r = row ∧ j = col then x else k.elem r j := by
  have place : 128 * row + col = 128 * r + j ↔ r = row ∧ j = col := by omega
  simp only [Core.elem, Core.setElem, Tab.get_set, place]

/-- Writing elements changes the elements alone. -/
theorem Core.setElems_eq (row : Nat) (xs : List Elem) : ∀ (k : Core) (col : Nat),
    k.setElems row col xs = { k with stock := (k.setElems row col xs).stock } := by
  induction xs with
  | nil => exact fun _ _ => rfl
  | cons x xs ih => exact fun k col => ih (k.setElem row col x) (col + 1)

theorem Core.elem_setElems (row : Nat) {r j : Nat} (hj : j < 128) (xs : List Elem) : ∀ (k : Core) (col : Nat), col + xs.length ≤ 128 →
    (k.setElems row col xs).elem r j = if r = row ∧ col ≤ j ∧ j < col + xs.length then xs.getD (j - col) {} else k.elem r j := by
  induction xs with
  | nil =>
    intro k col _
    rw [if_neg (by simp only [List.length_nil]; omega)]
    rfl
  | cons x xs ih =>
    intro k col hcol
    rw [List.length_cons] at hcol ⊢
    rw [Core.setElems, ih _ _ (by omega), Core.elem_setElem _ _ _ _ (by omega) hj]
    by_cases first : j = col
    · subst first
      rw [if_neg (by omega)]
      simp
    · have next : col ≤ j ∧ j < col + (xs.length + 1) ↔ col + 1 ≤ j ∧ j < col + 1 + xs.length := by omega
      simp only [first, and_false, if_false, next]
      split
      · next here => rw [show j - col = (j - (col + 1)) + 1 by omega, List.getD_cons_succ]
      · rfl

/-- Opening a row changes rows and elements alone. -/
theorem Core.openRow_eq (k : Core) (row mode fmt opAddr unit : Nat) (l : Nat → Int) :
    k.openRow row mode fmt opAddr unit l = { k with
      rows := Tab.set {} k.rows row ⟨true, mode, fmt, opAddr, unit⟩, stock := (k.openRow row mode fmt opAddr unit l).stock } :=
  Core.setElems_eq ..

theorem Core.row_openRow (k : Core) (row mode fmt opAddr unit : Nat) (l : Nat → Int) (r : Nat) :
    (k.openRow row mode fmt opAddr unit l).row r = if r = row then ⟨true, mode, fmt, opAddr, unit⟩ else k.row r := by
  rw [Core.openRow_eq]
  simp only [Core.row, Tab.get_set, eq_comm]

theorem Core.elem_openRow (k : Core) (row mode fmt opAddr unit : Nat) (l : Nat → Int) {r j : Nat} (hj : j < 128) :
    (k.openRow row mode fmt opAddr unit l).elem r j = if r = row then openElem (l j) else k.elem r j := by
  rw [Core.openRow, Core.elem_setElems _ hj _ _ _ (by simp)]
  simp [hj, openElem, Core.elem]

/-- Rows opened one after the other, row `i` of them with `l i` for the L of its elements. -/
def Core.openRows (k : Core) (r0 n mode fmt opAddr unit : Nat) (l : Nat → Nat → Int) : Core :=
  (List.range n).foldl (fun k i => k.openRow (r0 + i) mode fmt opAddr unit (l i)) k

section
variable (k : Core) (r0 n mode fmt opAddr unit : Nat) (l : Nat → Nat → Int)

theorem Core.openRows_succ : k.openRows r0 (n + 1) mode fmt opAddr unit l =
    (k.openRows r0 n mode fmt opAddr unit l).openRow (r0 + n) mode fmt opAddr unit (l n) := by
  simp [Core.openRows, List.range_succ]

theorem Core.openRows_eq : k.openRows r0 n mode fmt opAddr unit l = { k with
    rows := (k.openRows r0 n mode fmt opAddr unit l).rows, stock := (k.openRows r0 n mode fmt opAddr unit l).stock } := by
  induction n with
  | zero => rfl
  | succ n ih => rw [Core.openRows_succ, Core.openRow_eq, ih]

@[simp] theorem Core.scratch_openRows : (k.openRows r0 n mode fmt opAddr unit l).scratch = k.scratch := by
  rw [Core.openRows_eq]

@[simp] theorem Core.vhold_openRows : (k.openRows r0 n mode fmt opAddr unit l).vhold = k.vhold := by
  rw [Core.openRows_eq]

theorem Core.row_openRows (r : Nat) : (k.openRows r0 n mode fmt opAddr unit l).row r =
    if r0 ≤ r ∧ r < r0 + n then ⟨true, mode, fmt, opAddr, unit⟩ else k.row r := by
  induction n with
  | zero => rw [if_neg (by omega)]; rfl
  | succ n ih =>
    rw [Core.openRows_succ, Core.row_openRow, ih]
    grind

theorem Core.elem_openRows (r : Nat) {j : Nat} (hj : j < 128) : (k.openRows r0 n mode fmt opAddr unit l).elem r j =
    if r0 ≤ r ∧ r < r0 + n then openElem (l (r - r0) j) else k.elem r j := by
  induction n with
  | zero => rw [if_neg (by omega)]; rfl
  | succ n ih =>
    rw [Core.openRows_succ, Core.elem_openRow _ _ _ _ _ _ _ hj, ih]
    grind

theorem Core.sameRows_openRows : k.sameRows (k.openRows r0 n mode fmt opAddr unit l) r0 n := by
  intro r hr
  have outside : ¬ (r0 ≤ r ∧ r < r0 + n) := by omega
  exact ⟨by rw [Core.row_openRows, if_neg outside], fun j hj => by rw [Core.elem_openRows _ _ _ _ _ _ _ _ _ hj, if_neg outside]⟩

end

/-! ## Products -/

/-- The products of two operands at some K indices. -/
def products (ks : List Nat) (a b : Nat → Dec × Arith) : List Dec := ks.map fun k => (product (a k).1 (b k).1 0).1

theorem sumOf_eq_products (x : Elem) (ks : List Nat) (a b : Nat → Dec × Arith) : sumOf x ks a b = (products ks a b).foldl addProduct x :=
  List.foldl_map.symm

/-- Products of which none breaches leave no breach noted. -/
theorem Acc.foldl_add {mode : AccMode} {a b : Nat → Dec × Arith} (ks : List Nat) : ∀ {x : Acc}, keepsAnchor mode x.elem ks a b →
    let y := ks.foldl (fun x k => x.add mode k (a k) (b k)) x
    y.elem = sumOf x.elem ks a b ∧ y.breach = x.breach := by
  induction ks with
  | nil => exact fun _ => ⟨rfl, rfl⟩
  | cons k ks ih =>
    intro x safe
    have added : (x.add mode k (a k) (b k)).elem = addProduct x.elem (product (a k).1 (b k).1 0).1 ∧
        (x.add mode k (a k) (b k)).breach = x.breach := by
      simp [Acc.add, safe k List.mem_cons_self]
    have later : keepsAnchor mode (x.add mode k (a k) (b k)).elem ks a b := by
      intro m hm
      rw [added.1, addProduct_l]
      exact safe m (List.mem_cons_of_mem _ hm)
    obtain ⟨elem, breach⟩ := ih later
    exact ⟨by rw [List.foldl_cons, elem, added.1]; rfl, by rw [List.foldl_cons, breach, added.2]⟩

theorem firstBreach_eq_none : ∀ {xs : List Acc} (c : Nat), (∀ x ∈ xs, x.breach = none) → firstBreach c xs = none
  | [], _, _ => rfl
  | x :: xs, c, h => by
    rw [firstBreach, h x List.mem_cons_self]
    exact firstBreach_eq_none _ fun y hy => h y (List.mem_cons_of_mem _ hy)

theorem AccMode.ofCode_code (m : AccMode) : AccMode.ofCode m.code = some m := by cases m <;> rfl

/-! ## What an op adds -/

/-- `m` is `k` with products added: `p r j` to element `j` of row `r`. -/
def Core.Adds (k m : Core) (p : Nat → Nat → List Dec) : Prop :=
  m = { k with stock := m.stock, arith := m.arith } ∧ ∀ r j, j < 128 → m.elem r j = (p r j).foldl addProduct (k.elem r j)

section
variable {k m n : Core} {p q : Nat → Nat → List Dec}

theorem Core.Adds.refl (k : Core) : k.Adds k fun _ _ => [] := ⟨rfl, fun _ _ _ => rfl⟩

theorem Core.Adds.trans (h : k.Adds m p) (h' : m.Adds n q) : k.Adds n fun r j => p r j ++ q r j := by
  obtain ⟨rest, elem⟩ := h
  obtain ⟨rest', elem'⟩ := h'
  refine ⟨by rw [rest', rest], fun r j hj => ?_⟩
  rw [elem' r j hj, elem r j hj, List.foldl_append]

theorem Core.Adds.congr (h : k.Adds m p) (same : ∀ r j, p r j = q r j) : k.Adds m q := by
  rwa [show q = p from funext fun r => funext fun j => (same r j).symm]

theorem Core.Adds.scratch (h : k.Adds m p) : m.scratch = k.scratch := by rw [h.1]
theorem Core.Adds.vhold (h : k.Adds m p) : m.vhold = k.vhold := by rw [h.1]
theorem Core.Adds.row (h : k.Adds m p) (r : Nat) : m.row r = k.row r := by rw [h.1]; rfl

theorem Core.Adds.elem_l (h : k.Adds m p) {r j : Nat} (hj : j < 128) : (m.elem r j).l = (k.elem r j).l := by
  rw [h.2 r j hj, foldl_addProduct_l]

/-- The steps of an op, each of which adds products however the steps before it have added theirs. -/
theorem Core.Adds.foldlM {α : Type} {f : Core → α → Except CFault Core} {p : α → Nat → Nat → List Dec} {k : Core} (xs : List α)
    (step : ∀ x ∈ xs, ∀ m q, k.Adds m q → ∃ m', f m x = .ok m' ∧ m.Adds m' (p x)) :
    ∀ {m q}, k.Adds m q → ∃ m', xs.foldlM f m = .ok m' ∧ m.Adds m' fun r j => xs.flatMap fun x => p x r j := by
  induction xs with
  | nil => exact fun {m} _ _ => ⟨m, rfl, .refl m⟩
  | cons x xs ih =>
    intro m q before
    obtain ⟨m₁, first, added⟩ := step x List.mem_cons_self m q before
    obtain ⟨m₂, others, rest⟩ := ih (fun y hy => step y (List.mem_cons_of_mem _ hy)) (before.trans added)
    refine ⟨m₂, ?_, added.trans rest⟩
    rw [List.foldlM_cons, first]
    exact others

end

/-- The terms of one pass of a row, where none of them breaches. -/
theorem Core.adds_addTerms {k : Core} {mode : AccMode} {opAddr row recRow n : Nat} {ks : List Nat} {a : Nat → Dec × Arith}
    {w : Nat → Nat → Dec × Arith} (hmode : (k.row row).mode = mode.code) (hn : n ≤ 128)
    (safe : ∀ j, j < n → keepsAnchor mode (k.elem row j) ks a (w · j)) :
    ∃ m, k.addTerms opAddr row recRow n ks a w = .ok m ∧
      k.Adds m fun r j => if r = row ∧ j < n then products ks a (w · j) else [] := by
  let sums := (List.range n).map fun c => ks.foldl (fun x kk => Acc.add x mode kk (a kk) (w kk c)) { elem := k.elem row c }
  have unbroken : firstBreach 0 sums = none := by
    refine firstBreach_eq_none 0 fun x hx => ?_
    obtain ⟨c, hc, rfl⟩ := List.mem_map.mp hx
    exact (Acc.foldl_add ks (x := { elem := k.elem row c }) (safe c (List.mem_range.mp hc))).2
  refine ⟨(k.setElems row 0 (sums.map Acc.elem)).orArith (sums.foldl (fun s x => s.or x.arith) {}), ?_, ?_, fun r j hj => ?_⟩
  · simp only [Core.addTerms, hmode, AccMode.ofCode_code, Option.getD_some]
    rw [unbroken]
  · rw [Core.orArith, Core.setElems_eq]
  · have length : (sums.map Acc.elem).length = n := by simp [sums]
    have written : ((k.setElems row 0 (sums.map Acc.elem)).orArith (sums.foldl (fun s x => s.or x.arith) {})).elem r j =
        if r = row ∧ 0 ≤ j ∧ j < 0 + (sums.map Acc.elem).length then (sums.map Acc.elem).getD (j - 0) {} else k.elem r j :=
      Core.elem_setElems row hj _ k 0 (by omega)
    rw [written, length]
    by_cases here : r = row ∧ j < n
    · obtain ⟨rfl, hj'⟩ := here
      have sum := (Acc.foldl_add ks (x := { elem := k.elem r j }) (safe j hj')).1
      simp only [hj', Nat.zero_le, Nat.zero_add, and_self, if_true, ← sumOf_eq_products, ← sum]
      simp [sums, hj']
    · rw [if_neg (by omega)]
      simp only [here, if_false, List.foldl_nil]

/-- Steps that all go through. -/
theorem runSteps_of_foldlM {α : Type} {at_ : α → Nat} {f : Core → α → Except CFault Core} {m : Core} (xs : List α) :
    ∀ {k : Core}, xs.foldlM f k = .ok m → runSteps at_ f k xs = m := by
  induction xs with
  | nil => rintro k ⟨⟩; rfl
  | cons x xs ih =>
    intro k h
    rw [List.foldlM_cons] at h
    rw [runSteps]
    cases step : f k x with
    | error e => rw [step] at h; cases h
    | ok k' => rw [step] at h; exact ih h

end Sys2Proof.Machine
end

section
/-!
# MATVEC (spec/04 R117 to R121, spec/07 R183)

The rows it opens, the products of its beats, and its issue.
-/
namespace Sys2Proof.Machine

/-! ## Whole numbers cut into pieces -/

theorem mem_span {lo hi k : Nat} : k ∈ span lo hi ↔ lo ≤ k ∧ k < hi := by
  rw [span, List.mem_map]
  constructor
  · rintro ⟨i, inside, rfl⟩
    have := List.mem_range.mp inside
    omega
  · rintro ⟨h, h'⟩
    exact ⟨k - lo, List.mem_range.mpr (by omega), by omega⟩

theorem span_eq_range' (lo hi : Nat) : span lo hi = List.range' lo (hi - lo) := by
  rw [span, List.range_eq_range', List.map_add_range', Nat.add_zero]

/-- A span up to a bound, cut at a number. -/
theorem span_append {lo mid hi : Nat} (h : lo ≤ mid) (h' : mid ≤ hi) (bound : Nat) :
    span lo (min mid bound) ++ span mid (min hi bound) = span lo (min hi bound) := by
  simp only [span_eq_range']
  rcases Nat.le_total mid bound with inside | outside
  · have cut : lo + (mid - lo) = mid := by omega
    rw [Nat.min_eq_left inside]
    calc List.range' lo (mid - lo) ++ List.range' mid (min hi bound - mid)
        = List.range' lo (mid - lo) ++ List.range' (lo + (mid - lo)) (min hi bound - mid) := by rw [cut]
      _ = List.range' lo (min hi bound - lo) := by rw [List.range'_append_1]; congr 1; omega
  · rw [Nat.min_eq_right outside, Nat.min_eq_right (outside.trans h'), Nat.sub_eq_zero_of_le outside]
    exact List.append_nil _

/-- The pieces of `g` numbers, one after the other. -/
theorem flatMap_span (lo g bound n : Nat) :
    ((List.range n).flatMap fun q => span (lo + q * g) (min (lo + q * g + g) bound)) = span lo (min (lo + n * g) bound) := by
  induction n with
  | zero => simp [span]
  | succ n ih =>
    rw [List.range_succ, List.flatMap_append, ih, List.flatMap_singleton, Nat.succ_mul, ← Nat.add_assoc]
    exact span_append (Nat.le_add_right ..) (Nat.le_add_right ..) bound

theorem le_ceilDiv_mul (a : Nat) {b : Nat} (hb : 0 < b) : a ≤ ceilDiv a b * b := by
  have := Nat.div_add_mod (a + b - 1) b
  have := Nat.mod_lt (a + b - 1) hb
  rw [ceilDiv, Nat.mul_comm]
  omega

theorem Fmt.g_pos (f : Fmt) : 0 < f.g := by cases f <;> decide

/-- Of lists of which all but one are empty that one remains. -/
theorem flatMap_range_eq {α : Type} {f : Nat → List α} {n i : Nat} (hi : i < n) (others : ∀ j, j < n → j ≠ i → f j = []) :
    (List.range n).flatMap f = f i := by
  induction n with
  | zero => omega
  | succ n ih =>
    rw [List.range_succ, List.flatMap_append, List.flatMap_singleton]
    by_cases last : i = n
    · subst last
      rw [List.flatMap_eq_nil_iff.mpr fun j hj => ?_, List.nil_append]
      have := List.mem_range.mp hj
      exact others j (by omega) (by omega)
    · rw [ih (by omega) fun j hj => others j (by omega), others n (by omega) (by omega), List.append_nil]

/-- A row of the stockpot belongs to one vector and one tile. -/
theorem row_unique {vc v v' i i' : Nat} (hv : v < vc) (hv' : v' < vc) (h : vc * i + v = vc * i' + v') : i = i' ∧ v = v' := by
  have tile : (vc * i + v) / vc = (vc * i' + v') / vc := by rw [h]
  rw [Nat.mul_add_div (by omega), Nat.mul_add_div (by omega), Nat.div_eq_of_lt hv, Nat.div_eq_of_lt hv'] at tile
  have tile : i = i' := tile
  subst tile
  exact ⟨rfl, by omega⟩

theorem row_lt {vc v i t : Nat} (hv : v < vc) (hi : i < t) : vc * i + v < vc * t := by
  calc vc * i + v < vc * (i + 1) := by rw [Nat.mul_succ]; omega
    _ ≤ vc * t := Nat.mul_le_mul_left _ hi

/-! ## The rows of a MATVEC -/

namespace MatvecArgs

variable (a : MatvecArgs) (x : Core)

/-- The tiles of 128 columns. -/
def tiles : Nat := ceilDiv a.nc 128

/-- The mode its rows accumulate in. -/
def mode : AccMode := accModeOf a.w.fmt a.w.scaleV

/-- The core with its rows opened, where it opens them. -/
def opened (l : Nat → Nat → Int) : Core :=
  if !a.isOpen then x else x.openRows a.srow (a.vc * a.tiles) a.mode.code a.w.fmt.code a.opAddr 1 l

section
variable (l : Nat → Nat → Int)

theorem opened_eq : a.opened x l = { x with rows := (a.opened x l).rows, stock := (a.opened x l).stock } := by
  unfold opened
  split
  · rfl
  · rw [Core.openRows_eq]

@[simp] theorem scratch_opened : (a.opened x l).scratch = x.scratch := by rw [opened_eq]
@[simp] theorem vhold_opened : (a.opened x l).vhold = x.vhold := by rw [opened_eq]

theorem opened_of_not_open (h : a.isOpen = false) : a.opened x l = x := by simp [opened, h]

theorem sameRows_opened : x.sameRows (a.opened x l) a.srow (a.vc * a.tiles) := by
  unfold opened
  split
  · exact fun _ _ => ⟨rfl, fun _ _ => rfl⟩
  · exact x.sameRows_openRows _ _ _ _ _ _ _

theorem row_opened (h : a.isOpen = true) {r : Nat} (hr : r < a.vc * a.tiles) :
    (a.opened x l).row (a.srow + r) = ⟨true, a.mode.code, a.w.fmt.code, a.opAddr, 1⟩ := by
  simp only [opened, h, Bool.not_true, Bool.false_eq_true, if_false]
  rw [Core.row_openRows, if_pos (by omega)]

theorem elem_opened {r j : Nat} (hr : r < a.vc * a.tiles) (hj : j < 128) :
    (a.opened x l).elem (a.srow + r) j = if a.isOpen then openElem (l r j) else x.elem (a.srow + r) j := by
  cases h : a.isOpen
  · rw [opened_of_not_open _ _ _ h]; rfl
  · simp only [opened, h, Bool.not_true, Bool.false_eq_true, if_false, if_true]
    rw [Core.elem_openRows _ _ _ _ _ _ _ _ _ hj, if_pos (by omega), Nat.add_sub_cancel_left]

end

/-- The L of its elements rests on the scratchpad and the vector hold alone (R61, R120). -/
theorem openL_congr {x y : Core} (hscratch : y.scratch = x.scratch) (hhold : y.vhold = x.vhold) : a.openL y = a.openL x := by
  have plane : Core.vecPlane y = Core.vecPlane x := by
    funext f m ko n v b
    simp only [Core.vecPlane, hhold]
  have byte : Core.byte y = Core.byte x := by
    funext b
    simp only [Core.byte, hscratch]
  have column (m : AccMode) (nb n : Nat) : a.w.panelByte y m nb n = a.w.panelByte x m nb n := by
    funext b
    simp only [Desc.panelByte, byte]
  funext r j
  simp only [openL, plane, Desc.planeByte, column, byte]

/-- The rows that its run opens one after the other. -/
theorem foldl_openRow (n mode fmt opAddr : Nat) :
    ((List.range n).foldl (fun k r => k.openRow (a.srow + r) mode fmt opAddr 1 fun j => a.openL k r j) x) =
      x.openRows a.srow n mode fmt opAddr 1 (a.openL x) := by
  induction n with
  | zero => simp only [Core.openRows, List.range_zero, List.foldl_nil]
  | succ n ih =>
    have l : a.openL (x.openRows a.srow n mode fmt opAddr 1 (a.openL x)) = a.openL x :=
      a.openL_congr (Core.scratch_openRows ..) (Core.vhold_openRows ..)
    rw [List.range_succ, List.foldl_append, ih, Core.openRows_succ, List.foldl_cons, List.foldl_nil, l]

/-! ## The products of a MATVEC -/

/-- The beats of its panel: tile and pass. -/
def beats : List (Nat × Nat) := (List.range a.tiles).flatMap fun i => (List.range (ceilDiv a.ko a.w.fmt.g)).map fun q => (i, q)

/-- The K indices of a pass. -/
def pass (q : Nat) : List Nat := span (a.k0 + q * a.w.fmt.g) (min (a.k0 + q * a.w.fmt.g + a.w.fmt.g) a.kEnd)

/-- The element of a held vector at a K index. -/
def vec (v kk : Nat) : Dec × Arith := x.vecElem a.w.fmt a.w.scaleV a.ko v (kk - a.k0)

/-- The element of the panel in a column of a tile at a K index. -/
def col (i j kk : Nat) : Dec × Arith := a.w.panel x.scratch kk (128 * i + j)

/-- One beat of the panel against one vector. -/
def vecBeat (k : Core) (tq : Nat × Nat) (v : Nat) : Except CFault Core :=
  k.addTerms a.opAddr (a.srow + a.vc * tq.1 + v) (a.srow + a.vc * tq.1 + v) (min 128 (a.n - 128 * tq.1)) (a.pass tq.2)
    (fun kk => a.vec k v kk) (fun kk j => a.col k tq.1 j kk)

/-- The products of one beat against one vector, element by element. -/
def vecBeatTerms (tq : Nat × Nat) (v r j : Nat) : List Dec :=
  if r = a.srow + a.vc * tq.1 + v ∧ j < min 128 (a.n - 128 * tq.1) then products (a.pass tq.2) (a.vec x v) (a.col x tq.1 j) else []

/-- One beat of the panel against every vector. -/
def beat (k : Core) (tq : Nat × Nat) : Except CFault Core := (List.range a.vc).foldlM (fun k v => a.vecBeat k tq v) k

/-- The products of one beat, element by element. -/
def beatTerms (tq : Nat × Nat) (r j : Nat) : List Dec := (List.range a.vc).flatMap fun v => a.vecBeatTerms x tq v r j

/-- The products of the whole op, element by element. -/
def terms (r j : Nat) : List Dec := a.beats.flatMap fun tq => a.beatTerms x tq r j

/-- The K indices whose products an element of a tile takes. -/
def indices (i j : Nat) : List Nat := if 128 * i + j < a.n then span a.k0 a.kEnd else []

theorem run_eq (tp : Bool) : a.run tp x =
    runSteps (fun tq => a.cyc + a.f + tq.1 * ceilDiv a.ko a.w.fmt.g + tq.2 + latMvu tp + latPot tp) a.beat
      (a.opened x (a.openL x)) a.beats := by
  rw [opened, ← a.foldl_openRow]
  rfl

theorem pass_subset {q kk : Nat} (h : kk ∈ a.pass q) : kk ∈ span a.k0 a.kEnd := by
  rw [pass, mem_span] at h
  rw [mem_span]
  omega

theorem mem_beats {tq : Nat × Nat} (h : tq ∈ a.beats) : tq.1 < a.tiles := by
  obtain ⟨i, hi, htq⟩ := List.mem_flatMap.mp h
  obtain ⟨q, -, rfl⟩ := List.mem_map.mp htq
  exact List.mem_range.mp hi

/-- The passes together take every K index once. -/
theorem flatMap_pass (h : a.kEnd ≤ a.k0 + a.ko) :
    (List.range (ceilDiv a.ko a.w.fmt.g)).flatMap a.pass = span a.k0 a.kEnd := by
  have whole := le_ceilDiv_mul a.ko a.w.fmt.g_pos
  calc (List.range (ceilDiv a.ko a.w.fmt.g)).flatMap a.pass
      = span a.k0 (min (a.k0 + ceilDiv a.ko a.w.fmt.g * a.w.fmt.g) a.kEnd) := flatMap_span ..
    _ = span a.k0 a.kEnd := by rw [Nat.min_eq_right (by omega)]

/-- A row outside its own takes no product. -/
theorem terms_of_other {r : Nat} (hr : r < a.srow ∨ a.srow + a.vc * a.tiles ≤ r) (j : Nat) : a.terms x r j = [] := by
  refine List.flatMap_eq_nil_iff.mpr fun tq htq => List.flatMap_eq_nil_iff.mpr fun v hv => if_neg fun here => ?_
  have := row_lt (List.mem_range.mp hv) (a.mem_beats htq)
  omega

/-- An element of its rows takes the products of one vector and one column, over the K indices that the op names. -/
theorem terms_of_own (h : a.kEnd ≤ a.k0 + a.ko) {v i j : Nat} (hv : v < a.vc) (hi : i < a.tiles) (hj : j < 128) :
    a.terms x (a.srow + (a.vc * i + v)) j = products (a.indices i j) (a.vec x v) (a.col x i j) := by
  have inside : j < min 128 (a.n - 128 * i) ↔ 128 * i + j < a.n := by omega
  have onePass (i' q : Nat) : a.beatTerms x (i', q) (a.srow + (a.vc * i + v)) j =
      if i' = i ∧ 128 * i + j < a.n then products (a.pass q) (a.vec x v) (a.col x i j) else [] := by
    have own {v' : Nat} (hv' : v' < a.vc) (here : a.srow + (a.vc * i + v) = a.srow + a.vc * i' + v') : i' = i ∧ v' = v :=
      row_unique hv' hv (by omega)
    by_cases tile : i' = i
    · subst tile
      have others (v' : Nat) (hv' : v' < a.vc) (other : v' ≠ v) : a.vecBeatTerms x (i', q) v' (a.srow + (a.vc * i' + v)) j = [] :=
        if_neg fun here => other (own hv' here.1).2
      rw [beatTerms, flatMap_range_eq hv others]
      simp only [vecBeatTerms, Nat.add_assoc, inside, true_and]
    · rw [if_neg fun here => tile here.1]
      exact List.flatMap_eq_nil_iff.mpr fun v' hv' => if_neg fun here => tile (own (List.mem_range.mp hv') here.1).1
  calc a.terms x (a.srow + (a.vc * i + v)) j
      = (List.range a.tiles).flatMap fun i' => (List.range (ceilDiv a.ko a.w.fmt.g)).flatMap fun q =>
          if i' = i ∧ 128 * i + j < a.n then products (a.pass q) (a.vec x v) (a.col x i j) else [] := by
        simp only [terms, beats, List.flatMap_assoc, List.flatMap_map, onePass]
    _ = (List.range (ceilDiv a.ko a.w.fmt.g)).flatMap fun q =>
          if 128 * i + j < a.n then products (a.pass q) (a.vec x v) (a.col x i j) else [] := by
        rw [flatMap_range_eq hi fun i' _ other => List.flatMap_eq_nil_iff.mpr fun q _ => if_neg fun here => other here.1]
        simp only [true_and]
    _ = products (a.indices i j) (a.vec x v) (a.col x i j) := by
        unfold indices
        split
        · rw [← a.flatMap_pass h, products, List.map_flatMap]
          rfl
        · exact List.flatMap_eq_nil_iff.mpr fun _ _ => rfl

/-- A core in which the op can add its products to the end: it has the operands of `x`, its rows are in the op's mode, and no product
breaches the anchor of an element of theirs. -/
structure Ready (k : Core) : Prop where
  scratch : k.scratch = x.scratch
  vhold : k.vhold = x.vhold
  mode : ∀ r, r < a.vc * a.tiles → (k.row (a.srow + r)).mode = a.mode.code
  safe : ∀ v i j, v < a.vc → i < a.tiles → j < 128 →
    keepsAnchor a.mode (k.elem (a.srow + (a.vc * i + v)) j) (a.indices i j) (a.vec x v) (a.col x i j)

section
variable {a x} {k : Core} (ready : a.Ready x k)
include ready

/-- A beat against one vector, where products have been added before it. -/
theorem Ready.adds_vecBeat {m : Core} {q : Nat → Nat → List Dec} (before : k.Adds m q) {tq : Nat × Nat} (htile : tq.1 < a.tiles)
    {v : Nat} (hv : v < a.vc) : ∃ m', a.vecBeat m tq v = .ok m' ∧ m.Adds m' (a.vecBeatTerms x tq v) := by
  have vec : a.vec m v = a.vec x v := by
    funext kk
    simp only [MatvecArgs.vec, Core.vecElem, before.vhold, ready.vhold]
  have col (j : Nat) : a.col m tq.1 j = a.col x tq.1 j := by
    funext kk
    simp only [MatvecArgs.col, before.scratch, ready.scratch]
  have row : a.srow + a.vc * tq.1 + v = a.srow + (a.vc * tq.1 + v) := Nat.add_assoc ..
  have mode : (m.row (a.srow + a.vc * tq.1 + v)).mode = a.mode.code := by
    rw [before.row, row]
    exact ready.mode _ (row_lt hv htile)
  have anchors (j : Nat) (hj : j < min 128 (a.n - 128 * tq.1)) :
      keepsAnchor a.mode (m.elem (a.srow + a.vc * tq.1 + v) j) (a.pass tq.2) (a.vec m v) (a.col m tq.1 j) := by
    have named : a.indices tq.1 j = span a.k0 a.kEnd := if_pos (by omega)
    intro kk hkk
    rw [before.elem_l (by omega), vec, col, row]
    exact ready.safe v tq.1 j hv htile (by omega) kk (named ▸ a.pass_subset hkk)
  obtain ⟨m', done, added⟩ := Core.adds_addTerms (opAddr := a.opAddr) (recRow := a.srow + a.vc * tq.1 + v)
    (w := fun kk j => a.col m tq.1 j kk) mode (Nat.min_le_left ..) anchors
  refine ⟨m', done, added.congr fun r j => ?_⟩
  simp only [vecBeatTerms, vec, col]

/-- A beat against every vector, where products have been added before it. -/
theorem Ready.adds_beat {m : Core} {q : Nat → Nat → List Dec} (before : k.Adds m q) {tq : Nat × Nat} (htile : tq.1 < a.tiles) :
    ∃ m', a.beat m tq = .ok m' ∧ m.Adds m' (a.beatTerms x tq) := by
  have step (v : Nat) (hv : v ∈ List.range a.vc) (n : Core) (q' : Nat → Nat → List Dec) (inner : m.Adds n q') :
      ∃ m', a.vecBeat n tq v = .ok m' ∧ n.Adds m' (a.vecBeatTerms x tq v) :=
    ready.adds_vecBeat (before.trans inner) htile (List.mem_range.mp hv)
  exact Core.Adds.foldlM _ step (.refl m)

/-- All beats. -/
theorem Ready.adds_beats : ∃ m, a.beats.foldlM a.beat k = .ok m ∧ k.Adds m (a.terms x) := by
  have step (tq : Nat × Nat) (htq : tq ∈ a.beats) (m : Core) (q : Nat → Nat → List Dec) (before : k.Adds m q) :
      ∃ m', a.beat m tq = .ok m' ∧ m.Adds m' (a.beatTerms x tq) :=
    ready.adds_beat before (a.mem_beats htq)
  exact Core.Adds.foldlM _ step (.refl k)

end

/-- Its run opens its rows and adds its products. -/
theorem adds_run (tp : Bool) (ready : a.Ready x (a.opened x (a.openL x))) : (a.opened x (a.openL x)).Adds (a.run tp x) (a.terms x) := by
  obtain ⟨m, done, added⟩ := ready.adds_beats
  rw [run_eq, runSteps_of_foldlM _ done]
  exact added

/-- An element of its rows before its products: opened, or as it stands. -/
def start (v i j : Nat) : Elem :=
  if a.isOpen then openElem (a.openL x (a.vc * i + v) j) else x.elem (a.srow + (a.vc * i + v)) j

theorem elem_opened_eq_start {v i j : Nat} (hv : v < a.vc) (hi : i < a.tiles) (hj : j < 128) :
    (a.opened x (a.openL x)).elem (a.srow + (a.vc * i + v)) j = a.start x v i j :=
  a.elem_opened x _ (row_lt hv hi) hj

/-- What a run leaves, where no product breaches an anchor. -/
theorem run_spec (tp : Bool) (hkEnd : a.kEnd ≤ a.k0 + a.ko)
    (hmode : a.isOpen = false → ∀ r, r < a.vc * a.tiles → (x.row (a.srow + r)).mode = a.mode.code)
    (safe : ∀ v i j, v < a.vc → i < a.tiles → j < 128 →
      keepsAnchor a.mode (a.start x v i j) (a.indices i j) (a.vec x v) (a.col x i j)) :
    (a.run tp x).scratch = x.scratch ∧ x.sameRows (a.run tp x) a.srow (a.vc * a.tiles) ∧
      (∀ v i j, v < a.vc → i < a.tiles → j < 128 → (a.run tp x).elem (a.srow + (a.vc * i + v)) j =
        sumOf (a.start x v i j) (a.indices i j) (a.vec x v) (a.col x i j)) ∧
      (a.isOpen = true → ∀ r, r < a.vc * a.tiles →
        (a.run tp x).row (a.srow + r) = ⟨true, a.mode.code, a.w.fmt.code, a.opAddr, 1⟩) := by
  have mode (r : Nat) (hr : r < a.vc * a.tiles) : ((a.opened x (a.openL x)).row (a.srow + r)).mode = a.mode.code := by
    cases h : a.isOpen
    · rw [opened_of_not_open _ _ _ h]; exact hmode h r hr
    · rw [row_opened _ _ _ h hr]
  have ready : a.Ready x (a.opened x (a.openL x)) :=
    ⟨scratch_opened .., vhold_opened .., mode, fun v i j hv hi hj => by
      rw [elem_opened_eq_start _ _ hv hi hj]; exact safe v i j hv hi hj⟩
  have added := a.adds_run x tp ready
  refine ⟨added.scratch.trans (scratch_opened ..), fun r hr => ?_, fun v i j hv hi hj => ?_, fun hopen r hr => ?_⟩
  · obtain ⟨row, elem⟩ := a.sameRows_opened x (a.openL x) r hr
    refine ⟨(added.row r).trans row, fun j hj => ?_⟩
    rw [added.2 r j hj, a.terms_of_other x hr, List.foldl_nil, elem j hj]
  · rw [added.2 _ j hj, a.terms_of_own x hkEnd hv hi hj, elem_opened_eq_start _ _ hv hi hj, sumOf_eq_products]
  · rw [added.row, row_opened _ _ _ hopen hr]

end MatvecArgs
end Sys2Proof.Machine
end

section
/-!
# The issue of a MATVEC (spec/04 R118, spec/10 R257)
-/
namespace Sys2Proof.Machine

/-! ## What an issue leaves of the module -/

section
variable (k : Core) (o : Op) (i : Issue) (cyc stamp tag id : Nat)

@[simp] theorem Core.issued_rows : (k.issued o i cyc stamp tag id).rows = k.rows := by
  simp only [Core.issued, Core.advanceOp, Core.grant]
  split <;> rfl

@[simp] theorem Core.issued_shape : (k.issued o i cyc stamp tag id).shape = k.shape := by
  simp only [Core.issued, Core.advanceOp, Core.grant]
  split <;> rfl

@[simp] theorem Core.issued_jobs : (k.issued o i cyc stamp tag id).jobs = k.jobs := by
  simp only [Core.issued, Core.advanceOp, Core.grant]
  split <;> rfl

end

@[simp] theorem State.traceOp_sigs (s : State) (c : Nat) (o : Op) : (s.traceOp c o).sigs = s.sigs := by
  unfold State.traceOp
  split
  · split <;> simp
  · rfl

@[simp] theorem State.ahead_sigs (s : State) (c : Nat) (o : Op) (i : Issue) : (s.ahead c o i).sigs = s.sigs := State.traceOp_sigs ..

/-- `t` is `s` as an op of the row may leave it, with the stores and the jobs of the op's core as they were. -/
structure State.StoresKept (s t : State) (c : Nat) : Prop where
  rowOp : s.RowOp t c
  scratch : (t.core c).scratch = (s.core c).scratch
  stock : (t.core c).stock = (s.core c).stock
  rows : (t.core c).rows = (s.core c).rows
  jobs : (t.core c).jobs = (s.core c).jobs

section
variable {s : State} {c : Nat}

/-- Whatever issues, the stores stand as its effect sets in. -/
theorem State.storesKept_ahead (s : State) (c : Nat) (i : Issue) : s.StoresKept ((s.look c).ahead c (s.core c).nextOp i) c := by
  obtain ⟨-, -, -, -, scratch, cnts, stock, others, xfers⟩ := s.ahead_look c (s.core c).nextOp i
  have look := s.core_look c
  generalize ((s.look c).core c).passed = n at look
  refine ⟨⟨others, cnts, ?_, xfers, State.ahead_sigs .., fun htrace => (State.ahead_of_untraced htrace c i).1⟩, scratch, stock, ?_, ?_⟩
  · rw [State.core_ahead, Core.issued_shape, look]; rfl
  · rw [State.core_ahead, Core.issued_rows, look]; rfl
  · rw [State.core_ahead, Core.issued_jobs, look]; rfl

/-- A change of an op's own core leaves the rest, if it leaves the counters and the shape. -/
theorem State.RowOp.modCore {t : State} (h : s.RowOp t c) {f : Core → Core} (hcnts : ∀ k, (f k).cnts = k.cnts)
    (hshape : ∀ k, (f k).shape = k.shape) : s.RowOp (t.modCore c f) c := by
  obtain ⟨others, cnts, shape, xfers, sigs, mem⟩ := h
  refine ⟨fun d hd => ?_, ?_, ?_, xfers, sigs, mem⟩
  · rw [State.core_modCore, if_neg hd.symm]; exact others d hd
  · rw [State.core_modCore, if_pos rfl, hcnts]; exact cnts
  · rw [State.core_modCore, if_pos rfl, hshape]; exact shape

end

/-! ## What a MATVEC does as it issues -/

theorem Core.elem_congr {k m : Core} (h : m.stock = k.stock) (r j : Nat) : m.elem r j = k.elem r j := by unfold Core.elem; rw [h]

theorem Core.row_congr {k m : Core} (h : m.rows = k.rows) (r : Nat) : m.row r = k.row r := by unfold Core.row; rw [h]

theorem gives_bind_eq {α β : Type} {P : α → Prop} {x : Check β} {f : β → Check α} (h : ∀ b, x = .ok b → Gives (f b) P) :
    Gives (x >>= f) P := by
  cases x with
  | error e => exact gives_error e
  | ok b => exact h b rfl

namespace MatvecArgs

variable (a : MatvecArgs)

/-- Its core as it issues: its rows open, and, unless it keeps the vectors of the hold, the record of those to come (R184). -/
def entered (keep : Bool) (k : Core) : Core :=
  if keep then a.opened k fun _ _ => 0
  else { a.opened k fun _ _ => 0 with holdV := a.vc, holdK := a.ko, holdFmt := a.w.fmt.code }

theorem entered_eq (keep : Bool) (k : Core) : a.entered keep k = { k with
    rows := (a.opened k fun _ _ => 0).rows, stock := (a.opened k fun _ _ => 0).stock, holdV := (a.entered keep k).holdV,
    holdK := (a.entered keep k).holdK, holdFmt := (a.entered keep k).holdFmt } := by
  unfold entered
  split <;> rw [opened_eq]

/-- Does it do nothing (spec/10 R257)? -/
def masked : Bool := decide (a.n = 0) || decide (a.kEnd ≤ a.k0)

/-- What it does as it issues: its core enters it and waits for the beats of its vectors and for its first panel beat, at `due`. -/
def enter (keep : Bool) (due : List (Nat × Nat)) (c : Nat) (s : State) : State :=
  if a.masked then s else (s.modCore c (a.entered keep)).feed c 0 a.opAddr due (.matvec a)

end MatvecArgs

/-- What the plan of a MATVEC gives. -/
def Issue.EntersMatvec (s : State) (c : Nat) (o : Op) (ds : List Desc) (i : Issue) : Prop :=
  ∃ f keep due, let a := (s.core c).matvecArgs o (ds.getD 0 planMatmul.default_desc) (ds.getD 1 planMatmul.default_desc) f s.cyc
    ∀ id t, i.effect id t = a.enter keep due c t

theorem gives_matvec (s : State) (c : Nat) (o : Op) (ds : List Desc) (hrefs : (s.core c).refs o o.nd [] = .ok ds) :
    Gives (planMatvec s c o) fun l => Gives l.go (Issue.EntersMatvec s c o ds) := by
  unfold planMatvec
  refine gives_bind_eq fun ds' same => ?_
  obtain rfl : ds = ds' := by rw [hrefs] at same; exact Except.ok.inj same
  repeat refine gives_bind fun _ => ?_
  refine gives_legal ?_
  repeat refine gives_bind fun _ => ?_
  exact gives_when (gives_ok ⟨_, bit o.var 1, _, fun id t => rfl⟩)

theorem Core.refs_looked (k : Core) (cyc now n : Nat) (o : Op) (m : Nat) (written : List Nat) :
    (k.looked cyc now n).refs o m written = k.refs o m written := rfl

theorem planFor_matvec {o : Op} (h : o.opc = 0x02) : planFor o = planMatvec := by simp only [planFor, h]

/-- What issues where a MATVEC is due. -/
theorem State.dueIssue_matvec {s : State} {c : Nat} {i : Issue} (h : s.dueIssue c = some i) (hopc : (s.core c).nextOp.opc = 0x02)
    {ds : List Desc} (hrefs : (s.core c).refs (s.core c).nextOp (s.core c).nextOp.nd [] = .ok ds) :
    i.EntersMatvec s c (s.core c).nextOp ds := by
  obtain ⟨-, l, hlegal, -, hgo, -⟩ := State.dueIssue_spec h
  have plan := gives_legality _ _ _ _ _ hlegal
  rw [planFor_matvec hopc] at plan
  have look := s.core_look c
  obtain ⟨f, keep, due, effect⟩ := gives_matvec (s.look c) c (s.core c).nextOp ds (by rw [look, Core.refs_looked, hrefs]) l plan i hgo
  refine ⟨f, keep, due, ?_⟩
  rw [look] at effect
  exact effect

namespace MatvecArgs

variable (a : MatvecArgs) (keep : Bool) (due : List (Nat × Nat)) (c : Nat) (t : State)

theorem enter_of_masked (h : a.n = 0 ∨ a.kEnd ≤ a.k0) : a.enter keep due c t = t := if_pos (by simpa [masked] using h)

theorem core_enter (hn : 0 < a.n) (hk : a.k0 < a.kEnd) : (a.enter keep due c t).core c =
    { a.entered keep (t.core c) with
      jobs := (t.core c).jobs ++ [⟨0, a.opAddr, due.map fun b => (t.cyc + b.1, b.2), [], .matvec a⟩] } := by
  have live : a.masked = false := by simp [masked]; omega
  simp only [enter, live, Bool.false_eq_true, if_false, State.feed, State.core_modCore, if_true]
  rw [entered_eq]
  rfl

/-- What a MATVEC leaves as it issues: its rows open, and a job; a masked one leaves all as it is. -/
theorem enter_spec {s : State} (h : s.StoresKept t c) : let u := a.enter keep due c t
    s.RowOp u c ∧ (u.core c).scratch = (s.core c).scratch ∧
      (a.n = 0 ∨ a.kEnd ≤ a.k0 → (u.core c).jobs = (s.core c).jobs ∧ (u.core c).stock = (s.core c).stock ∧
        (u.core c).rows = (s.core c).rows) ∧
      (0 < a.n → a.k0 < a.kEnd → (∃ beats, (u.core c).jobs = (s.core c).jobs ++ [⟨0, a.opAddr, beats, [], .matvec a⟩]) ∧
        (s.core c).sameRows (u.core c) a.srow (a.vc * a.tiles) ∧
        (a.isOpen = false → (u.core c).stock = (s.core c).stock ∧ (u.core c).rows = (s.core c).rows) ∧
        (a.isOpen = true → ∀ r, r < a.vc * a.tiles → ((u.core c).row (a.srow + r)).isOpen = true)) := by
  intro u
  refine ⟨?_, ?_, fun masked => ?_, fun hn hk => ?_⟩
  · simp only [u, enter]
    split
    · exact h.rowOp
    · exact (h.rowOp.modCore (fun k => by rw [entered_eq]) fun k => by rw [entered_eq]).modCore (fun _ => rfl) fun _ => rfl
  · simp only [u, enter]
    split
    · exact h.scratch
    · simp only [State.feed, State.core_modCore, if_true]
      rw [entered_eq]
      exact h.scratch
  · simp only [u, a.enter_of_masked keep due c t masked]
    exact ⟨h.jobs, h.stock, h.rows⟩
  · have core : u.core c = _ := a.core_enter keep due c t hn hk
    have rows : (u.core c).rows = (a.opened (t.core c) fun _ _ => 0).rows := by rw [core, entered_eq]
    have stock : (u.core c).stock = (a.opened (t.core c) fun _ _ => 0).stock := by rw [core, entered_eq]
    refine ⟨⟨_, by rw [core, h.jobs]⟩, fun r hr => ?_, fun hclosed => ?_, fun hopen r hr => ?_⟩
    · obtain ⟨row, elem⟩ := a.sameRows_opened (t.core c) (fun _ _ => 0) r hr
      exact ⟨(Core.row_congr rows r).trans (row.trans (Core.row_congr h.rows r)), fun j hj =>
        (Core.elem_congr stock r j).trans ((elem j hj).trans (Core.elem_congr h.stock r j))⟩
    · rw [a.opened_of_not_open _ _ hclosed] at rows stock
      exact ⟨stock.trans h.stock, rows.trans h.rows⟩
    · rw [Core.row_congr rows, a.row_opened _ _ hopen hr]

end MatvecArgs

/-- Where a MATVEC is due, its command issues it. -/
theorem exec_matvec {s : State} {c : Nat} {i : Issue} (h : s.dueIssue c = some i) (hopc : (s.core c).nextOp.opc = 0x02) :
    exec (.matvec c) s = .next (i.effect (s.look c).nextId ((s.look c).ahead c (s.core c).nextOp i)) := by
  rw [← State.issue_eq_effect]
  exact issueRow_of_dueIssue h (beq_iff_eq.mpr hopc) (planFor_matvec hopc)

/-! ## The statement -/

/-- Settles O15: the issue by `State.dueIssue_matvec`, what it leaves by `MatvecArgs.enter_spec`, and the products of the run by
`MatvecArgs.run_spec`. -/
theorem matvecSums : Obligations.MatvecSums := by
  refine ⟨?issue, ?run⟩
  case issue =>
    intro s c i w ds h k o hopc hrefs
    obtain ⟨f, keep, due, effect⟩ := State.dueIssue_matvec h hopc hrefs
    exact ⟨f, _, (exec_matvec h hopc).trans (congrArg _ (effect ..)), MatvecArgs.enter_spec _ keep due c _ (s.storesKept_ahead c i)⟩
  case run =>
    intro k x o w pl f cyc tp
    exact fun hmode safe => (k.matvecArgs o w pl f cyc).run_spec x tp (Nat.min_le_left ..) hmode safe

end Sys2Proof.Machine
end

section
/-!
# Elements as bits (spec/02 R42, spec/10 R247)

The elements of a row by their width: a nibble, or some whole bytes. What a row of packed elements reads as, and what the write of one
element leaves of the others.
-/
namespace Sys2Proof.Machine

/-! ## Little-endian numbers -/

@[simp] theorem length_toLE (n x : Nat) : (toLE n x).length = n := by
  induction n generalizing x with
  | zero => rfl
  | succ n ih => rw [toLE, List.length_cons, ih]

theorem leNat_toLE (n x : Nat) : leNat (toLE n x) = x % 256 ^ n := by
  induction n generalizing x with
  | zero => rw [Nat.pow_zero, Nat.mod_one]; rfl
  | succ n ih => rw [toLE, leNat, ih, BitVec.toNat_ofNat, Nat.pow_succ' (m := 256), Nat.mod_mul]

theorem leNat_lt (bs : List Byte) : leNat bs < 256 ^ bs.length := by
  induction bs with
  | nil => exact Nat.one_pos
  | cons b bs ih =>
    have := b.isLt
    rw [leNat, List.length_cons, Nat.pow_succ']
    omega

theorem Memory.nat_lt (m : Memory) (a n : Nat) : Memory.nat m a n < 256 ^ n := by
  have bound := leNat_lt (Memory.read m a n)
  rwa [Memory.read_length] at bound

theorem Memory.nat_congr {m m' : Memory} {a a' n : Nat} (h : ∀ b, b < n → Memory.get m (a + b) = Memory.get m' (a' + b)) :
    Memory.nat m a n = Memory.nat m' a' n := by
  have bytes : Memory.read m a n = Memory.read m' a' n := by
    refine List.ext_getElem (by simp) fun i hi hi' => ?_
    have inside : i < n := by simpa using hi
    rw [← List.getD_eq_getElem _ 0, ← List.getD_eq_getElem _ 0, Memory.read_getD _ _ _ _ inside, Memory.read_getD _ _ _ _ inside,
      h i inside]
  rw [Memory.nat, Memory.nat, bytes]

theorem Memory.nat_write (m : Memory) (a n x : Nat) : Memory.nat (Memory.write m a (toLE n x)) a n = x % 256 ^ n := by
  have bytes := Memory.read_write (toLE n x) m a
  rw [length_toLE] at bytes
  rw [Memory.nat, bytes, leNat_toLE]

theorem Memory.nat_of_blank {m : Memory} {a n : Nat} (h : ∀ b, b < n → Memory.get m (a + b) = 0) : Memory.nat m a n = 0 := by
  induction n generalizing a with
  | zero => rfl
  | succ n ih =>
    have rest : leNat (Memory.read m (a + 1) n) = 0 :=
      ih fun b hb => by rw [Nat.add_assoc, Nat.add_comm 1]; exact h _ (Nat.succ_lt_succ hb)
    rw [Memory.nat, Memory.read, leNat, rest, ← Nat.add_zero a, h 0 n.succ_pos]
    rfl

/-- Bytes written into a blank memory. -/
theorem Memory.get_write_blank (bs : List Byte) (a b : Nat) : Memory.get (Memory.write [] a bs) (a + b) = bs.getD b 0 := by
  rw [Memory.get_write, Nat.add_sub_cancel_left]
  split
  · rfl
  · rw [List.getD_eq_default _ _ (by omega), Memory.get_nil]

/-! ## One element -/

/-- An element fills a nibble or whole bytes (R42). -/
def ElemWidth (w : Nat) : Prop := w = 4 ∨ 8 ∣ w

theorem Fmt.elemWidth (f : Fmt) : ElemWidth f.width := by
  cases f with
  | fp4 | int4 => exact .inl rfl
  | fp32 | bf16 | fp16 | e5m2 | e4m3 | int8 | int32 => exact .inr (by decide)

/-- Bytes that `n` elements of `w` bits fill. -/
def bitBytes (w n : Nat) : Nat := (n * w + 7) / 8

theorem bitBytes_whole (n i : Nat) : bitBytes (8 * n) i = i * n := by
  rw [bitBytes, Nat.mul_left_comm]
  omega

theorem bitBytes_mono (w : Nat) {i n : Nat} (h : i ≤ n) : bitBytes w i ≤ bitBytes w n :=
  Nat.div_le_div_right (Nat.add_le_add_right (Nat.mul_le_mul_right w h) 7)

theorem Fmt.bytes_eq (f : Fmt) (n : Nat) : f.bytes n = bitBytes f.width n := rfl

theorem loadElem_eq_bitsElem (m : Memory) (f : Fmt) (a i : Nat) : loadElem m f a i = bitsElem m f.width a i := by
  cases f <;> rfl

theorem bitsElem_nibble (m : Memory) (a i : Nat) : bitsElem m 4 a i =
    if i % 2 = 0 then (Memory.get m (a + i / 2)).toNat % 16 else (Memory.get m (a + i / 2)).toNat / 16 := rfl

theorem bitsElem_whole (m : Memory) {n : Nat} (a i : Nat) : bitsElem m (8 * n) a i = Memory.nat m (a + i * n) n := by
  rw [bitsElem, if_neg (by omega), Nat.mul_div_cancel_left n (by decide)]

theorem putBits_nibble (m : Memory) (a i x : Nat) : putBits m 4 a i x =
    Memory.set m (a + i / 2) (BitVec.ofNat 8 (if i % 2 = 0 then (Memory.get m (a + i / 2)).toNat / 16 * 16 + x % 16
      else (Memory.get m (a + i / 2)).toNat % 16 + 16 * (x % 16))) := rfl

theorem putBits_whole (m : Memory) {n : Nat} (a i x : Nat) : putBits m (8 * n) a i x = Memory.write m (a + i * n) (toLE n x) := by
  rw [putBits, if_neg (by omega), Nat.mul_div_cancel_left n (by decide)]

/-- Element `i` lies in the bytes of a row of more than `i` elements. -/
theorem whole_inside {i n w : Nat} (h : i < n) : i * w + w ≤ n * w := by
  rw [← Nat.succ_mul]
  exact Nat.mul_le_mul_right w h

section
variable {w : Nat} (hw : ElemWidth w)
include hw

theorem bitsElem_lt (m : Memory) (a i : Nat) : bitsElem m w a i < 2 ^ w := by
  obtain rfl | ⟨n, rfl⟩ := hw
  · have := (Memory.get m (a + i / 2)).isLt
    rw [bitsElem_nibble]
    split <;> omega
  · rw [bitsElem_whole, Nat.pow_mul]
    exact Memory.nat_lt ..

/-- An element rests on the bytes of its row alone. -/
theorem bitsElem_congr {m m' : Memory} {a a' n i : Nat} (hi : i < n)
    (h : ∀ b, b < bitBytes w n → Memory.get m (a + b) = Memory.get m' (a' + b)) : bitsElem m w a i = bitsElem m' w a' i := by
  obtain rfl | ⟨k, rfl⟩ := hw
  · rw [bitsElem_nibble, bitsElem_nibble, h (i / 2) (by unfold bitBytes; omega)]
  · have inside := whole_inside (w := k) hi
    rw [bitsElem_whole, bitsElem_whole]
    refine Memory.nat_congr fun b hb => ?_
    rw [Nat.add_assoc, Nat.add_assoc]
    exact h _ (by rw [bitBytes_whole]; omega)

/-- The write of one element leaves the others. -/
theorem bitsElem_putBits (m : Memory) (a i j x : Nat) :
    bitsElem (putBits m w a i x) w a j = if i = j then x % 2 ^ w else bitsElem m w a j := by
  obtain rfl | ⟨n, rfl⟩ := hw
  · have := (Memory.get m (a + j / 2)).isLt
    rw [bitsElem_nibble, bitsElem_nibble, putBits_nibble, Memory.get_set]
    by_cases same : i / 2 = j / 2
    · rw [same, if_pos rfl, BitVec.toNat_ofNat]
      split <;> split <;> split <;> omega
    · have other : i ≠ j := fun h => same (h ▸ rfl)
      rw [if_neg fun h => same (Nat.add_left_cancel h), if_neg other]
  · rw [bitsElem_whole, bitsElem_whole, putBits_whole]
    split
    case isTrue same => rw [same, Memory.nat_write, Nat.pow_mul]
    case isFalse other =>
      refine Memory.nat_congr fun b hb => ?_
      have apart : i * n + n ≤ j * n ∨ j * n + n ≤ i * n := (Nat.lt_or_gt_of_ne other).imp whole_inside whole_inside
      rw [Memory.get_write, length_toLE, if_neg (by omega)]

/-- The write of one element stays in the bytes of its row. -/
theorem get_putBits_of_outside {m : Memory} {a i n x b : Nat} (hi : i < n) (hb : b < a ∨ a + bitBytes w n ≤ b) :
    Memory.get (putBits m w a i x) b = Memory.get m b := by
  obtain rfl | ⟨k, rfl⟩ := hw
  · rw [putBits_nibble, Memory.get_set, if_neg]
    unfold bitBytes at hb
    omega
  · have := whole_inside (w := k) hi
    rw [bitBytes_whole] at hb
    rw [putBits_whole, Memory.get_write, length_toLE, if_neg (by omega)]

/-! ## Several elements of a row -/

theorem bitsElem_foldl_putBits (a x : Nat) (g : Nat → Nat) (is : List Nat) (m : Memory) :
    bitsElem (is.foldl (fun t i => putBits t w a i (g i)) m) w a x = if x ∈ is then g x % 2 ^ w else bitsElem m w a x := by
  induction is generalizing m with
  | nil => rfl
  | cons i is ih =>
    rw [List.foldl_cons, ih, bitsElem_putBits hw]
    grind

theorem get_foldl_putBits_of_outside {a n b : Nat} (g : Nat → Nat) {is : List Nat} (inside : ∀ i ∈ is, i < n)
    (hb : b < a ∨ a + bitBytes w n ≤ b) (m : Memory) :
    Memory.get (is.foldl (fun t i => putBits t w a i (g i)) m) b = Memory.get m b := by
  induction is generalizing m with
  | nil => rfl
  | cons i is ih =>
    rw [List.foldl_cons, ih (fun j hj => inside j (.tail _ hj)), get_putBits_of_outside hw (inside i (.head _)) hb]

end

/-! ## Packed rows -/

theorem packBits_whole_cons {n : Nat} (x : Nat) (xs : List Nat) : packBits (8 * n) (x :: xs) = toLE n x ++ packBits (8 * n) xs := by
  have whole : ¬ 8 * n = 4 := by omega
  calc packBits (8 * n) (x :: xs) = toLE (8 * n / 8) x ++ packBits (8 * n) xs := by cases xs <;> exact if_neg whole
    _ = toLE n x ++ packBits (8 * n) xs := by rw [Nat.mul_div_cancel_left n (by decide)]

theorem packBits_nibbles_cons (x y : Nat) (xs : List Nat) :
    packBits 4 (x :: y :: xs) = BitVec.ofNat 8 (x % 16 + 16 * (y % 16)) :: packBits 4 xs := rfl

theorem packRow_eq_packBits (f : Fmt) : ∀ xs, packRow f xs = packBits f.width xs
  | [] => rfl
  | [x] => by cases f <;> rfl
  | x :: y :: xs => by
    have rest := packRow_eq_packBits f xs
    have tail := packRow_eq_packBits f (y :: xs)
    cases f with
    | fp4 | int4 => exact congrArg _ rest
    | fp32 | bf16 | fp16 | e5m2 | e4m3 | int8 | int32 => exact congrArg (toLE _ x ++ ·) tail

theorem length_packBits_nibbles : ∀ xs, (packBits 4 xs).length = bitBytes 4 xs.length
  | [] => rfl
  | [_] => by rw [List.length_singleton]; rfl
  | x :: y :: xs => by
    have rest := length_packBits_nibbles xs
    rw [packBits_nibbles_cons, List.length_cons, rest]
    simp only [bitBytes, List.length_cons]
    omega

theorem length_packBits_whole (n : Nat) (xs : List Nat) : (packBits (8 * n) xs).length = xs.length * n := by
  induction xs with
  | nil => exact (Nat.zero_mul n).symm
  | cons x xs ih => rw [packBits_whole_cons, List.length_append, length_toLE, ih, List.length_cons, Nat.succ_mul, Nat.add_comm]

theorem length_packBits {w : Nat} (hw : ElemWidth w) (xs : List Nat) : (packBits w xs).length = bitBytes w xs.length := by
  obtain rfl | ⟨n, rfl⟩ := hw
  · exact length_packBits_nibbles xs
  · rw [length_packBits_whole, bitBytes_whole]

/-- A byte with two nibbles, and the elements after it. -/
theorem bitsElem_nibbles_cons {m : Memory} {a x y : Nat} {xs : List Nat} (byte : Memory.get m a = BitVec.ofNat 8 (x % 16 + 16 * (y % 16)))
    (rest : ∀ j, bitsElem m 4 (a + 1) j = xs.getD j 0 % 16) : ∀ j, bitsElem m 4 a j = (x :: y :: xs).getD j 0 % 16
  | 0 => by
    rw [bitsElem_nibble, if_pos rfl, Nat.zero_div, Nat.add_zero, byte, BitVec.toNat_ofNat]
    change _ = x % 16
    omega
  | 1 => by
    change (Memory.get m a).toNat / 16 = y % 16
    rw [byte, BitVec.toNat_ofNat]
    omega
  | j + 2 => by
    have place : a + (j + 2) / 2 = a + 1 + j / 2 := by omega
    refine Eq.trans ?_ (rest j)
    rw [bitsElem_nibble, bitsElem_nibble, place, Nat.add_mod_right]

theorem bitsElem_of_packBits_nibbles {m : Memory} : ∀ {a : Nat} {xs : List Nat},
    (∀ b, Memory.get m (a + b) = (packBits 4 xs).getD b 0) → ∀ j, bitsElem m 4 a j = xs.getD j 0 % 16
  | a, [], h => fun j => by
    have blank : (packBits 4 []).getD (j / 2) 0 = 0 := rfl
    rw [bitsElem_nibble, h, blank]
    exact ite_self 0
  | a, [x], h => fun j => by
    have blank (i : Nat) : bitsElem m 4 (a + 1) i = ([] : List Nat).getD i 0 % 16 :=
      bitsElem_of_packBits_nibbles (fun b => by rw [Nat.add_assoc, h, Nat.add_comm 1]; rfl) i
    refine (bitsElem_nibbles_cons (x := x) (y := 0) (h 0) blank j).trans ?_
    match j with
    | 0 | 1 | j + 2 => rfl
  | a, x :: y :: xs, h =>
    bitsElem_nibbles_cons (h 0) (bitsElem_of_packBits_nibbles fun b => by rw [Nat.add_assoc, h, Nat.add_comm 1]; rfl)

theorem bitsElem_of_packBits_whole {m : Memory} {n : Nat} {xs : List Nat} : ∀ {a : Nat},
    (∀ b, Memory.get m (a + b) = (packBits (8 * n) xs).getD b 0) → ∀ j, bitsElem m (8 * n) a j = xs.getD j 0 % 256 ^ n := by
  induction xs with
  | nil =>
    intro a h j
    rw [bitsElem_whole, Memory.nat_of_blank fun b _ => by rw [Nat.add_assoc, h]; rfl]
    exact (Nat.zero_mod _).symm
  | cons x xs ih =>
    intro a h j
    rw [packBits_whole_cons] at h
    cases j with
    | zero =>
      rw [bitsElem_whole, List.getD_cons_zero, ← Memory.nat_write [] 0]
      refine Memory.nat_congr fun b hb => ?_
      rw [Nat.zero_mul, Nat.add_zero, h, Memory.get_write_blank, List.getD_append _ _ _ _ (by rwa [length_toLE])]
    | succ j =>
      rw [bitsElem_whole, Nat.succ_mul, Nat.add_comm (j * n), ← Nat.add_assoc, ← bitsElem_whole]
      refine ih (fun b => ?_) j
      rw [Nat.add_assoc, h, List.getD_append_right _ _ _ _ (by simp), length_toLE, Nat.add_sub_cancel_left]

/-- What a row of packed elements reads as: zero beyond them. -/
theorem bitsElem_of_packBits {w : Nat} (hw : ElemWidth w) {m : Memory} {a : Nat} {xs : List Nat}
    (h : ∀ b, Memory.get m (a + b) = (packBits w xs).getD b 0) (j : Nat) : bitsElem m w a j = xs.getD j 0 % 2 ^ w := by
  obtain rfl | ⟨n, rfl⟩ := hw
  · exact bitsElem_of_packBits_nibbles h j
  · rw [Nat.pow_mul]
    exact bitsElem_of_packBits_whole h j

end Sys2Proof.Machine
end

section
/-!
# The rows of a tensor (spec/10 R247 to R250)

Where the rows of a tensor lie. The outer dimensions are pairs of a stride and an extent; the check of R249 (`Desc.writable`) keeps the rows
apart, whatever order the strides have.
-/
namespace Sys2Proof.Machine

/-! ## Digits of a row's number -/

/-- The offset of row `r` over outer dimensions, the first one fastest. -/
def rowOffset : List (Nat × Nat) → Nat → Nat
  | [], _ => 0
  | (stride, extent) :: ds, r => r % extent * stride + rowOffset ds (r / extent)

/-- The offset of the last row over outer dimensions. -/
def lastOffset (ds : List (Nat × Nat)) : Nat := (ds.map fun d => (d.2 - 1) * d.1).sum

/-- A dimension with the index of one row and that of another. -/
abbrev DigitPair := (Nat × Nat) × Nat × Nat

/-- The outer dimensions with the indices of rows `r` and `r'`. -/
def digitPairs : List (Nat × Nat) → Nat → Nat → List DigitPair
  | [], _, _ => []
  | d :: ds, r, r' => (d, r % d.2, r' % d.2) :: digitPairs ds (r / d.2) (r' / d.2)

/-- The offset that the indices of the first row add up to. -/
def leftOffset (l : List DigitPair) : Nat := (l.map fun x => x.2.1 * x.1.1).sum

/-- The offset that the indices of the second row add up to. -/
def rightOffset (l : List DigitPair) : Nat := (l.map fun x => x.2.2 * x.1.1).sum

section
variable (ds : List (Nat × Nat)) (r r' : Nat)

@[simp] theorem map_fst_digitPairs : (digitPairs ds r r').map Prod.fst = ds := by
  induction ds generalizing r r' with
  | nil => rfl
  | cons d ds ih => rw [digitPairs, List.map_cons, ih]

theorem leftOffset_digitPairs : leftOffset (digitPairs ds r r') = rowOffset ds r := by
  induction ds generalizing r r' with
  | nil => rfl
  | cons d ds ih => rw [digitPairs, rowOffset, ← ih _ (r' / d.2)]; rfl

theorem rightOffset_digitPairs : rightOffset (digitPairs ds r r') = rowOffset ds r' := by
  induction ds generalizing r r' with
  | nil => rfl
  | cons d ds ih => rw [digitPairs, rowOffset, ← ih (r / d.2)]; rfl

end

section
variable {ds : List (Nat × Nat)} (pos : ∀ d ∈ ds, 0 < d.2)
include pos

theorem rowOffset_le (r : Nat) : rowOffset ds r ≤ lastOffset ds := by
  induction ds generalizing r with
  | nil => exact le_rfl
  | cons d ds ih =>
    have digit : r % d.2 ≤ d.2 - 1 := Nat.le_pred_of_lt (Nat.mod_lt _ (pos d (.head _)))
    exact Nat.add_le_add (Nat.mul_le_mul_right _ digit) (ih (fun x hx => pos x (.tail _ hx)) _)

theorem digitPairs_lt (r r' : Nat) : ∀ x ∈ digitPairs ds r r', x.2.1 < x.1.2 ∧ x.2.2 < x.1.2 := by
  induction ds generalizing r r' with
  | nil => exact fun _ h => absurd h List.not_mem_nil
  | cons d ds ih =>
    rw [digitPairs, List.forall_mem_cons]
    have extent := pos d (.head _)
    exact ⟨⟨Nat.mod_lt _ extent, Nat.mod_lt _ extent⟩, ih (fun x hx => pos x (.tail _ hx)) _ _⟩

/-- Rows with the same indices are the same row. -/
theorem eq_of_digitPairs {r r' : Nat} (hr : r < (ds.map Prod.snd).prod) (hr' : r' < (ds.map Prod.snd).prod)
    (same : ∀ x ∈ digitPairs ds r r', x.2.1 = x.2.2) : r = r' := by
  induction ds generalizing r r' with
  | nil =>
    rw [List.map_nil, List.prod_nil] at hr hr'
    omega
  | cons d ds ih =>
    rw [List.map_cons, List.prod_cons] at hr hr'
    obtain ⟨digit, others⟩ := List.forall_mem_cons.mp same
    have rest : r / d.2 = r' / d.2 :=
      ih (fun x hx => pos x (.tail _ hx)) (Nat.div_lt_of_lt_mul hr) (Nat.div_lt_of_lt_mul hr') others
    rw [← Nat.mod_add_div r d.2, ← Nat.mod_add_div r' d.2, rest]
    exact congrArg (· + _) digit

end

/-! ## The check of R249 -/

/-- Two ranges of `n` bytes share none. -/
def RowsApart (n a a' : Nat) : Prop := a + n ≤ a' ∨ a' + n ≤ a

theorem insertPair_perm (x : Nat × Nat) (l : List (Nat × Nat)) : (insertPair x l).Perm (x :: l) := by
  induction l with
  | nil => exact .refl _
  | cons y l ih =>
    rw [insertPair]
    split
    · exact .refl _
    · exact (ih.cons y).trans (.swap ..)

theorem foldr_insertPair_perm (l : List (Nat × Nat)) : (l.foldr insertPair []).Perm l := by
  induction l with
  | nil => exact .refl _
  | cons x l ih => exact (insertPair_perm ..).trans (ih.cons x)

theorem offsets_eq {l : List DigitPair} (same : ∀ x ∈ l, x.2.1 = x.2.2) : leftOffset l = rightOffset l :=
  congrArg List.sum (List.map_congr_left fun x hx => congrArg (· * x.1.1) (same x hx))

/-- An order of the images is one of the things themselves. -/
theorem exists_map_eq_of_perm {α β : Type} {f : α → β} {l : List β} {v : List α} (h : l.Perm (v.map f)) :
    ∃ u : List α, u.map f = l ∧ u.Perm v := by
  have paired : List.Forall₂ (fun b a => b = f a) (v.map f) v :=
    List.forall₂_map_left_iff.mpr (List.forall₂_same.mpr fun _ _ => rfl)
  obtain ⟨u, images, perm⟩ := List.perm_comp_forall₂ h paired
  exact ⟨u, (List.forall₂_eq_eq_eq ▸ List.forall₂_map_right_iff.mpr images : l = u.map f).symm, perm⟩

/-- A dimension of extent 1 adds nothing to an offset. -/
theorem sum_filter_wide {l : List DigitPair} {g : DigitPair → Nat} (narrow : ∀ x ∈ l, x.1.2 ≤ 1 → g x = 0) :
    ((l.filter fun x => decide (1 < x.1.2)).map g).sum = (l.map g).sum := by
  induction l with
  | nil => rfl
  | cons x l ih =>
    obtain ⟨here, others⟩ := List.forall_mem_cons.mp narrow
    rw [List.filter_cons, List.map_cons, List.sum_cons, ← ih others]
    split
    · rw [List.map_cons, List.sum_cons]
    case isFalse h => rw [here (by simpa using h), Nat.zero_add]

/-- Over dimensions whose spans keep apart, the offsets of two rows are equal or at least a row's bytes apart. -/
theorem offsets_apart {l : List DigitPair} (lt : ∀ x ∈ l, x.2.1 < x.1.2 ∧ x.2.2 < x.1.2) {n : Nat}
    (spans : spansOk n (l.map Prod.fst) = true) : (∀ x ∈ l, x.2.1 = x.2.2) ∨ RowsApart n (leftOffset l) (rightOffset l) := by
  induction l generalizing n with
  | nil => exact .inl fun _ h => absurd h List.not_mem_nil
  | cons x l ih =>
    obtain ⟨⟨stride, extent⟩, i, i'⟩ := x
    rw [List.map_cons, spansOk, Bool.and_eq_true, decide_eq_true_eq] at spans
    obtain ⟨first, rest⟩ := spans
    obtain ⟨⟨hi : i < extent, hi' : i' < extent⟩, others⟩ := List.forall_mem_cons.mp lt
    have inside {j k : Nat} (h : j < k) : j * stride + n ≤ k * stride := (Nat.add_le_add_left first _).trans (whole_inside h)
    have left : leftOffset (((stride, extent), i, i') :: l) = i * stride + leftOffset l := rfl
    have right : rightOffset (((stride, extent), i, i') :: l) = i' * stride + rightOffset l := rfl
    rw [List.forall_mem_cons, left, right]
    rcases ih others rest with same | apart
    case inr =>
      have last : i * stride + n ≤ stride * extent := (inside hi).trans_eq (Nat.mul_comm ..)
      have last' : i' * stride + n ≤ stride * extent := (inside hi').trans_eq (Nat.mul_comm ..)
      refine .inr ?_
      unfold RowsApart at apart ⊢
      omega
    case inl =>
      rw [offsets_eq same]
      rcases Nat.lt_trichotomy i i' with lower | equal | higher
      · have := inside lower
        exact .inr (.inl (by omega))
      · exact .inl ⟨equal, same⟩
      · have := inside higher
        exact .inr (.inr (by omega))

theorem rowOffsets_apart {ds : List (Nat × Nat)} (pos : ∀ d ∈ ds, 0 < d.2) {n : Nat}
    (spans : spansOk n ((ds.filter fun x => decide (1 < x.2)).foldr insertPair []) = true) {r r' : Nat}
    (hr : r < (ds.map Prod.snd).prod) (hr' : r' < (ds.map Prod.snd).prod) (other : r ≠ r') :
    RowsApart n (rowOffset ds r) (rowOffset ds r') := by
  have digits := digitPairs_lt pos r r'
  have offsets : leftOffset (digitPairs ds r r') = rowOffset ds r ∧ rightOffset (digitPairs ds r r') = rowOffset ds r' :=
    ⟨leftOffset_digitPairs .., rightOffset_digitPairs ..⟩
  have dims : (ds.filter fun x => decide (1 < x.2)) = ((digitPairs ds r r').filter fun x => decide (1 < x.1.2)).map Prod.fst := by
    conv_lhs => rw [← map_fst_digitPairs ds r r', List.filter_map]
    rfl
  obtain ⟨sorted, images, perm⟩ := exists_map_eq_of_perm ((foldr_insertPair_perm _).trans (.of_eq dims))
  rw [← images] at spans
  have members {x : DigitPair} : x ∈ sorted ↔ x ∈ digitPairs ds r r' ∧ 1 < x.1.2 := by
    rw [perm.mem_iff, List.mem_filter, decide_eq_true_eq]
  have sums (g : DigitPair → Nat) (narrow : ∀ x ∈ digitPairs ds r r', x.1.2 ≤ 1 → g x = 0) :
      (sorted.map g).sum = ((digitPairs ds r r').map g).sum := (perm.map g).sum_eq.trans (sum_filter_wide narrow)
  have zero {x : DigitPair} (hx : x ∈ digitPairs ds r r') (narrow : x.1.2 ≤ 1) : x.2.1 = 0 ∧ x.2.2 = 0 := by
    have := digits x hx
    omega
  rcases offsets_apart (fun x hx => digits x (members.mp hx).1) spans with same | apart
  · refine absurd (eq_of_digitPairs pos hr hr' fun x hx => ?_) other
    by_cases wide : 1 < x.1.2
    · exact same x (members.mpr ⟨hx, wide⟩)
    · have := zero hx (Nat.le_of_not_lt wide)
      omega
  · rw [← offsets.1, ← offsets.2]
    rw [leftOffset, rightOffset, sums _ fun x hx narrow => by rw [(zero hx narrow).1, Nat.zero_mul],
      sums _ fun x hx narrow => by rw [(zero hx narrow).2, Nat.zero_mul]] at apart
    exact apart

/-! ## The rows of a tensor -/

/-- The outer dimensions of a tensor. -/
def Desc.outerDims (d : Desc) : List (Nat × Nat) := ((List.range d.rank).drop 1).map fun i => (dim d.stride i, dim d.ext i)

/-- What the checks of R249 leave of a descriptor. -/
structure Desc.Formed (d : Desc) : Prop where
  rank_pos : 0 < d.rank
  rank_le : d.rank ≤ 6
  length_ext : d.ext.length = 6
  length_stride : d.stride.length = 6
  extent : ∀ i, i < 6 → (dim d.ext i ≠ 0 ↔ i < d.rank)

theorem foldl_offset (ds : List (Nat × Nat)) (rest : List Nat) (r t : Nat) :
    ((unrank (ds.map Prod.snd) r).zip (ds.map Prod.fst ++ rest)).foldl (fun t x => t + x.1 * x.2) t = t + rowOffset ds r := by
  induction ds generalizing r t with
  | nil => rfl
  | cons d ds ih =>
    rw [List.map_cons, List.map_cons, unrank, List.cons_append, List.zip_cons_cons, List.foldl_cons, ih, rowOffset, Nat.add_assoc]

theorem drop_take_eq_map_dim {l : List Nat} {n : Nat} (h : n ≤ l.length) : (l.take n).drop 1 = ((List.range n).drop 1).map (dim l) := by
  have whole : l.take n = (List.range n).map (dim l) := by
    refine List.ext_getElem (by simpa using h) fun i hi hi' => ?_
    rw [List.length_take] at hi
    rw [List.getElem_take, List.getElem_map, List.getElem_range, dim, List.getD_eq_getElem]
  rw [whole, List.map_drop]

theorem foldl_span (d : Desc) (is : List Nat) (t : Nat) :
    is.foldl (fun t i => t + (dim d.ext i - 1) * dim d.stride i) t = t + lastOffset (is.map fun i => (dim d.stride i, dim d.ext i)) := by
  induction is generalizing t with
  | nil => rfl
  | cons i is ih => rw [List.foldl_cons, ih, Nat.add_assoc]; rfl

namespace Desc

/-- Bytes of a row. -/
def rowBytes (d : Desc) : Nat := d.fmt.bytes (dim d.ext 0)

variable {d : Desc}

theorem span_eq : d.span = d.rowBytes + lastOffset d.outerDims := foldl_span ..

section
variable (formed : d.Formed)
include formed

theorem Formed.dims_eq : (d.ext.take d.rank).drop 1 = d.outerDims.map Prod.snd := by
  rw [drop_take_eq_map_dim (formed.rank_le.trans_eq formed.length_ext.symm), outerDims, List.map_map]
  rfl

theorem Formed.strides_eq : d.stride.drop 1 = d.outerDims.map Prod.fst ++ d.stride.drop d.rank := by
  have le : d.rank ≤ d.stride.length := formed.rank_le.trans_eq formed.length_stride.symm
  have outer : d.outerDims.map Prod.fst = (d.stride.take d.rank).drop 1 := by
    rw [drop_take_eq_map_dim le, outerDims, List.map_map]
    rfl
  have pos := formed.rank_pos
  rw [outer, ← List.drop_append_of_le_length (by rw [List.length_take]; omega), List.take_append_drop]

theorem Formed.extent_pos : ∀ x ∈ d.outerDims, 0 < x.2 := by
  intro x hx
  obtain ⟨i, hi, rfl⟩ := List.mem_map.mp hx
  have inside : i < d.rank := List.mem_range.mp (List.mem_of_mem_drop hi)
  exact Nat.pos_of_ne_zero ((formed.extent i (by have := formed.rank_le; omega)).mpr inside)

theorem Formed.rowAddr_rowIdx (r : Nat) : d.rowAddr (d.rowIdx r) = d.base + rowOffset d.outerDims r := by
  rw [rowAddr, rowIdx, formed.dims_eq, formed.strides_eq, foldl_offset, Nat.zero_add]

theorem Formed.rows_eq : d.rows = (d.outerDims.map Prod.snd).prod := by
  rw [rows, prod, formed.dims_eq, List.prod_eq_foldl]

/-- A row lies within the span of its tensor (R250). -/
theorem Formed.row_inside (r : Nat) : d.base ≤ d.rowAddr (d.rowIdx r) ∧ d.rowAddr (d.rowIdx r) + d.rowBytes ≤ d.base + d.span := by
  have := rowOffset_le formed.extent_pos r
  rw [formed.rowAddr_rowIdx, span_eq]
  omega

/-- The rows of a tensor that may be written share no byte (R249). -/
theorem Formed.rows_apart (writable : d.writable = true) {r r' : Nat} (hr : r < d.rows) (hr' : r' < d.rows) (other : r ≠ r') :
    RowsApart d.rowBytes (d.rowAddr (d.rowIdx r)) (d.rowAddr (d.rowIdx r')) := by
  rw [formed.rows_eq] at hr hr'
  have apart := rowOffsets_apart formed.extent_pos writable hr hr' other
  rw [formed.rowAddr_rowIdx, formed.rowAddr_rowIdx]
  unfold RowsApart at apart ⊢
  change _ + d.rowBytes ≤ _ ∨ _ + d.rowBytes ≤ _ at apart
  omega

end
end Desc

end Sys2Proof.Machine
end

section
/-!
# What a LAYOUT writes (spec/05 R122, R126; spec/08 R205)

PASS copies the stream of the source's rows, TRANSPOSE writes the columns of the source as rows; both write row by row, each row within its
own bytes.
-/
namespace Sys2Proof.Machine

/-! ## Rows written one after the other -/

section
variable {ρ : Type} {f : Memory → ρ → Memory} {addr : ρ → Nat} {n : Nat}
  (within : ∀ t r b, b < addr r ∨ addr r + n ≤ b → Memory.get (f t r) b = Memory.get t b)
include within

theorem get_foldl_rows_of_outside {rs : List ρ} {b : Nat} (outside : ∀ r ∈ rs, b < addr r ∨ addr r + n ≤ b) (m : Memory) :
    Memory.get (rs.foldl f m) b = Memory.get m b := by
  induction rs generalizing m with
  | nil => rfl
  | cons r rs ih => rw [List.foldl_cons, ih fun x hx => outside x (.tail _ hx), within m r b (outside r (.head _))]

/-- Of rows that lie apart each ends as the write of it left it. -/
theorem get_foldl_rows {rs : List ρ} (apart : rs.Pairwise fun r r' => RowsApart n (addr r) (addr r')) {r : ρ} (hr : r ∈ rs) (m : Memory) :
    ∃ t, ∀ b, b < n → Memory.get (rs.foldl f m) (addr r + b) = Memory.get (f t r) (addr r + b) := by
  induction rs generalizing m with
  | nil => exact absurd hr List.not_mem_nil
  | cons x rs ih =>
    rw [List.pairwise_cons] at apart
    obtain ⟨first, others⟩ := apart
    rw [List.foldl_cons]
    rcases List.mem_cons.mp hr with rfl | later
    · refine ⟨m, fun b hb => get_foldl_rows_of_outside within (fun y hy => ?_) _⟩
      have := first y hy
      unfold RowsApart at this
      omega
    · exact ih others later _

end

/-- The bytes outside the data of a tensor stand as they did. -/
def Desc.KeepsOutside (d : Desc) (m n : Memory) : Prop := ∀ b, b < d.base ∨ d.base + d.span ≤ b → Memory.get n b = Memory.get m b

section
variable {d : Desc} (formed : d.Formed) {f : Memory → Nat → Memory}
  (within : ∀ t r b, b < d.rowAddr (d.rowIdx r) ∨ d.rowAddr (d.rowIdx r) + d.rowBytes ≤ b → Memory.get (f t r) b = Memory.get t b)
include formed within

/-- Rows of a tensor, written one after the other. -/
theorem Desc.Formed.keepsOutside_foldl (rs : List Nat) (m : Memory) : d.KeepsOutside m (rs.foldl f m) := by
  intro b hb
  refine get_foldl_rows_of_outside within (fun r _ => ?_) m
  have := formed.row_inside r
  omega

/-- What a row of a tensor reads as, after some of them have been written: as the write of it left it. -/
theorem Desc.Formed.loadElem_foldl (writable : d.writable = true) {p : Nat → Bool} {r j : Nat} (hr : r < d.rows) (hp : p r = true)
    (hj : j < dim d.ext 0) (m : Memory) :
    ∃ t, loadElem (((List.range d.rows).filter p).foldl f m) d.fmt (d.rowAddr (d.rowIdx r)) j =
      bitsElem (f t r) d.fmt.width (d.rowAddr (d.rowIdx r)) j := by
  have row {r : Nat} (h : r ∈ (List.range d.rows).filter p) : r < d.rows := List.mem_range.mp (List.mem_of_mem_filter h)
  have apart : ((List.range d.rows).filter p).Pairwise fun r r' =>
      RowsApart d.rowBytes (d.rowAddr (d.rowIdx r)) (d.rowAddr (d.rowIdx r')) :=
    (List.nodup_range.filter p).imp_of_mem fun hr hr' other => formed.rows_apart writable (row hr) (row hr') other
  obtain ⟨t, same⟩ := get_foldl_rows within apart (List.mem_filter.mpr ⟨List.mem_range.mpr hr, hp⟩) m
  exact ⟨t, (loadElem_eq_bitsElem ..).trans (bitsElem_congr d.fmt.elemWidth hj same)⟩

end

/-! ## The lines of a stream -/

theorem sum_lines (q n : Nat) : ((List.range n).map fun i => min 512 (q - 512 * i)).sum = min (n * 512) q := by
  induction n with
  | zero => simp
  | succ n ih =>
    rw [List.range_succ, List.map_append, List.sum_append, ih, List.map_singleton, List.sum_singleton]
    omega

/-- The lines that a range occupies hold its bytes. -/
theorem sum_lineSegs (a n : Nat) : (lineSegs a n).sum = n := by
  have enough := le_ceilDiv_mul (n - min n (512 - a % 512)) (b := 512) (by decide)
  simp only [lineSegs, List.sum_cons]
  rw [sum_lines]
  omega

theorem flatten_cutBy {α : Type} (ns : List Nat) (l : List α) : (cutBy ns l).flatten = l.take ns.sum := by
  induction ns generalizing l with
  | nil => rfl
  | cons n ns ih => rw [cutBy, List.flatten_cons, ih, List.sum_cons, List.take_add]

section
variable {α : Type} {g : Nat → List α} {n : Nat} (length : ∀ r, (g r).length = n)
include length

theorem length_flatMap_range (rows : Nat) : ((List.range rows).flatMap g).length = rows * n := by
  rw [List.length_flatMap, funext length, List.map_const', List.sum_replicate, List.length_range, smul_eq_mul]

/-- Of lists of one length, laid end to end, each stands at its place. -/
theorem take_drop_flatMap {r rows k : Nat} (hr : r < rows) (hk : k ≤ n) :
    (((List.range rows).flatMap g).drop (r * n)).take k = (g r).take k := by
  induction rows with
  | zero => omega
  | succ rows ih =>
    have whole := length_flatMap_range length rows
    rw [List.range_succ, List.flatMap_append, List.flatMap_singleton]
    rcases Nat.lt_succ_iff_lt_or_eq.mp hr with before | rfl
    · have inside := whole_inside (w := n) before
      rw [List.drop_append_of_le_length (by omega), List.take_append_of_le_length (by rw [List.length_drop]; omega), ih before]
    · rw [List.drop_append, whole, Nat.sub_self, List.drop_zero, List.drop_eq_nil_of_le (by omega), List.nil_append]

end

theorem bitsElem_write_packBits {w : Nat} (hw : ElemWidth w) {xs : List Nat} {j : Nat} (hj : j < xs.length) (m : Memory) (a : Nat) :
    bitsElem (Memory.write m a (packBits w xs)) w a j = xs.getD j 0 % 2 ^ w := by
  rw [← bitsElem_of_packBits hw (Memory.get_write_blank (packBits w xs) a) j]
  refine bitsElem_congr hw hj fun b hb => ?_
  rw [Memory.get_write_blank, Memory.get_write, length_packBits hw, if_pos (by omega), Nat.add_sub_cancel_left]

theorem length_loadRow (m : Memory) (f : Fmt) (a n : Nat) : (loadRow m f a n).length = n := by
  rw [loadRow, List.length_map, List.length_range]

theorem length_unpackBytes (f : Fmt) (bs : List Byte) (n : Nat) : (unpackBytes f bs n).length = n := length_loadRow ..

theorem unpackBytes_getD (f : Fmt) (bs : List Byte) {n j : Nat} (hj : j < n) :
    (unpackBytes f bs n).getD j 0 = bitsElem (Memory.write [] 0 bs) f.width 0 j := by
  rw [List.getD_eq_getElem _ _ (by rwa [length_unpackBytes]), ← loadElem_eq_bitsElem]
  simp [unpackBytes, loadRow]

/-! ## PASS -/

namespace Desc

variable (d : Desc) (m : Memory) (rt : List Nat)

/-- The codes of a row in the stream of a tensor: none of a row that is masked. -/
def streamCodes (r : Nat) : List Nat := if rowLive d rt (d.rowIdx r) then loadRow m d.fmt (d.rowAddr (d.rowIdx r)) (dim rt 0) else []

/-- The bytes of a row in the stream of a tensor. -/
def streamRow (r : Nat) : List Byte :=
  packRow d.fmt (d.streamCodes m rt r) ++ List.replicate (d.rowBytes - d.fmt.bytes (d.streamCodes m rt r).length) 0

theorem stream_eq : d.stream m rt = (List.range d.rows).flatMap (d.streamRow m rt) := by
  rw [stream, allRows, List.flatMap_map]
  refine congrArg (List.flatMap · _) (funext fun r => ?_)
  simp only [streamRow, streamCodes]
  split
  · rw [length_loadRow]; rfl
  · have empty : d.fmt.bytes 0 = 0 := by rw [Fmt.bytes, Nat.zero_mul]
    rw [List.length_nil, empty, Nat.sub_zero]; rfl

theorem streamCodes_getD (r j : Nat) : (d.streamCodes m rt r).getD j 0 =
    if rowLive d rt (d.rowIdx r) && decide (j < dim rt 0) then loadElem m d.fmt (d.rowAddr (d.rowIdx r)) j else 0 := by
  unfold streamCodes
  split
  case isTrue live =>
    by_cases inside : j < dim rt 0
    · simp [live, inside, loadRow]
    · simp [inside, loadRow]
  case isFalse masked => simp [masked]

theorem streamCodes_getD_lt (r j : Nat) : (d.streamCodes m rt r).getD j 0 < 2 ^ d.fmt.width := by
  rw [streamCodes_getD]
  split
  · rw [loadElem_eq_bitsElem]; exact bitsElem_lt d.fmt.elemWidth _ _ _
  · exact Nat.two_pow_pos _

theorem length_streamRow (le : dim rt 0 ≤ dim d.ext 0) (r : Nat) : (d.streamRow m rt r).length = d.rowBytes := by
  have codes : (d.streamCodes m rt r).length ≤ dim d.ext 0 := by
    unfold streamCodes
    split
    · rwa [length_loadRow]
    · exact Nat.zero_le _
  have bytes : d.fmt.bytes (d.streamCodes m rt r).length ≤ d.rowBytes := bitBytes_mono _ codes
  rw [streamRow, List.length_append, List.length_replicate, packRow_eq_packBits, length_packBits d.fmt.elemWidth, ← Fmt.bytes_eq]
  omega

theorem streamRow_getD (r b : Nat) : (d.streamRow m rt r).getD b 0 = (packBits d.fmt.width (d.streamCodes m rt r)).getD b 0 := by
  rw [streamRow, packRow_eq_packBits]
  rcases Nat.lt_or_ge b (packBits d.fmt.width (d.streamCodes m rt r)).length with inside | beyond
  · rw [List.getD_append _ _ _ _ inside]
  · rw [List.getD_append_right _ _ _ _ beyond, List.getD_eq_default _ _ beyond, List.getD_eq_getElem?_getD, List.getElem?_replicate]
    split <;> rfl

theorem sum_segs (le : dim rt 0 ≤ dim d.ext 0) : d.segs.sum = (d.stream m rt).length := by
  rw [stream_eq, length_flatMap_range (d.length_streamRow m rt le), segs, allRows, List.flatMap_map, List.flatMap, List.sum_flatten,
    List.map_map]
  simp [Function.comp_def, sum_lineSegs, rowBytes]

/-- A row as PASS writes it, from the bytes of the stream. -/
def putRowBytes (bs : List Byte) (t : Memory) (r : Nat) : Memory :=
  let row := (bs.drop (r * d.rowBytes)).take (d.fmt.bytes (dim rt 0))
  Memory.write t (d.rowAddr (d.rowIdx r)) ((packRow d.fmt (unpackBytes d.fmt row (dim rt 0))).take row.length)

theorem putStream_eq (bs : List Byte) :
    d.putStream rt bs m = ((List.range d.rows).filter fun r => rowLive d rt (d.rowIdx r)).foldl (d.putRowBytes rt bs) m := by
  rw [putStream, liveRows, allRows, List.filter_map, List.foldl_map]
  rfl

/-- The write of a row stays in its bytes. -/
theorem get_putRowBytes_of_outside (le : dim rt 0 ≤ dim d.ext 0) (bs : List Byte) (t : Memory) (r b : Nat)
    (hb : b < d.rowAddr (d.rowIdx r) ∨ d.rowAddr (d.rowIdx r) + d.rowBytes ≤ b) :
    Memory.get (d.putRowBytes rt bs t r) b = Memory.get t b := by
  have bytes : d.fmt.bytes (dim rt 0) ≤ d.rowBytes := bitBytes_mono _ le
  rw [putRowBytes, Memory.get_write, if_neg]
  simp only [List.length_take]
  omega

end Desc

/-- The first bytes of a row of the stream hold its first codes, and zeros beyond the last. -/
theorem Desc.unpackBytes_streamRow_getD (d : Desc) (m : Memory) (rt : List Nat) (r : Nat) {n j : Nat} (hj : j < n) :
    (unpackBytes d.fmt ((d.streamRow m rt r).take (d.fmt.bytes n)) n).getD j 0 = (d.streamCodes m rt r).getD j 0 := by
  rw [unpackBytes_getD _ _ hj, ← Nat.mod_eq_of_lt (d.streamCodes_getD_lt m rt r j),
    ← bitsElem_of_packBits d.fmt.elemWidth (Memory.get_write_blank _ 0) j]
  refine bitsElem_congr d.fmt.elemWidth hj fun b (hb : b < d.fmt.bytes n) => ?_
  rw [Memory.get_write_blank, Memory.get_write_blank, ← streamRow_getD, List.getD_eq_getElem?_getD, List.getElem?_take_of_lt hb,
    ← List.getD_eq_getElem?_getD]

/-- A row as PASS writes it holds the codes of the stream, and zeros beyond them. -/
theorem Desc.bitsElem_putRowBytes {d src : Desc} {srt drt : List Nat} (fmt : src.fmt = d.fmt) (bytes : src.rowBytes = d.rowBytes)
    (rows : src.rows = d.rows) (le : dim srt 0 ≤ dim src.ext 0) (le' : dim drt 0 ≤ dim d.ext 0) (m t : Memory) {r j : Nat}
    (hr : r < d.rows) (hj : j < dim drt 0) :
    bitsElem (d.putRowBytes drt (src.stream m srt) t r) d.fmt.width (d.rowAddr (d.rowIdx r)) j = (src.streamCodes m srt r).getD j 0 := by
  have fits : d.fmt.bytes (dim drt 0) ≤ src.rowBytes := bytes ▸ bitBytes_mono _ le'
  have row : ((src.stream m srt).drop (r * d.rowBytes)).take (d.fmt.bytes (dim drt 0)) =
      (src.streamRow m srt r).take (d.fmt.bytes (dim drt 0)) := by
    rw [stream_eq, ← bytes]
    exact take_drop_flatMap (src.length_streamRow m srt le) (rows ▸ hr) fits
  have length : ((src.streamRow m srt r).take (d.fmt.bytes (dim drt 0))).length = d.fmt.bytes (dim drt 0) := by
    rw [List.length_take, src.length_streamRow m srt le, Nat.min_eq_left fits]
  have codes := src.unpackBytes_streamRow_getD m srt r hj
  rw [fmt] at codes
  rw [putRowBytes, row, length, packRow_eq_packBits, List.take_of_length_le, bitsElem_write_packBits d.fmt.elemWidth, codes,
    Nat.mod_eq_of_lt (fmt ▸ src.streamCodes_getD_lt m srt r j)]
  · rwa [length_unpackBytes]
  · rw [length_packBits d.fmt.elemWidth, length_unpackBytes, Fmt.bytes_eq]

/-- PASS writes the stream of the source over the destination. -/
theorem LayoutArgs.run_stream (a : LayoutArgs) (k : Core) (plan : a.plan = none) (fifo : a.ctl.fifo = false) (mode : a.ctl.mode = 0)
    (le : dim a.srt 0 ≤ dim a.src.ext 0) : (a.run [] k).scratch = a.dst.putStream a.drt (a.src.stream k.scratch a.srt) k.scratch := by
  have stream : streamOut a.ctl a.tab ((streamBeats a.ctl.mode a.ctl.factor a.src.segs).getLastD (0, 0, 512)).2.1
      (cutBy a.src.segs (a.src.stream k.scratch a.srt)) = a.src.stream k.scratch a.srt := by
    simp only [streamOut, mode]
    rw [flatten_cutBy, a.src.sum_segs k.scratch a.srt le, List.take_length]
  simp only [run, plan, fifo, Bool.false_eq_true, if_false]
  rw [stream]

/-- The extents of a tensor say its rank. -/
theorem Desc.Formed.rank_eq {d d' : Desc} (formed : d.Formed) (formed' : d'.Formed) (ext : d.ext = d'.ext) : d.rank = d'.rank := by
  have le := formed.rank_le
  have le' := formed'.rank_le
  have same (i : Nat) (hi : i < 6) : i < d.rank ↔ i < d'.rank := by rw [← formed.extent i hi, ← formed'.extent i hi, ext]
  by_contra other
  rcases Nat.lt_or_gt_of_ne other with lower | higher
  · have := same d.rank (by omega)
    omega
  · have := same d'.rank (by omega)
    omega

/-- What PASS leaves. -/
theorem LayoutArgs.run_pass {a : LayoutArgs} {k : Core} (plan : a.plan = none) (fifo : a.ctl.fifo = false) (mode : a.ctl.mode = 0)
    (fmt : a.src.fmt = a.dst.fmt) (ext : a.src.ext = a.dst.ext) (src : a.src.Formed) (dst : a.dst.Formed)
    (writable : a.dst.writable = true) (le : dim a.srt 0 ≤ dim a.src.ext 0) (le' : dim a.drt 0 ≤ dim a.dst.ext 0) :
    a.dst.KeepsOutside k.scratch (a.run [] k).scratch ∧
      ∀ r ∈ a.dst.liveRows a.drt, ∀ j, j < dim a.drt 0 → loadElem (a.run [] k).scratch a.dst.fmt (a.dst.rowAddr r.2) j =
        if rowLive a.src a.srt r.2 && decide (j < dim a.srt 0) then loadElem k.scratch a.src.fmt (a.src.rowAddr r.2) j else 0 := by
  have rank := src.rank_eq dst ext
  have rowIdx (r : Nat) : a.src.rowIdx r = a.dst.rowIdx r := by rw [Desc.rowIdx, Desc.rowIdx, ext, rank]
  have rows : a.src.rows = a.dst.rows := by rw [Desc.rows, Desc.rows, ext, rank]
  have bytes : a.src.rowBytes = a.dst.rowBytes := by rw [Desc.rowBytes, Desc.rowBytes, ext, fmt]
  rw [a.run_stream k plan fifo mode le, Desc.putStream_eq]
  have within := a.dst.get_putRowBytes_of_outside a.drt le' (a.src.stream k.scratch a.srt)
  refine ⟨dst.keepsOutside_foldl within _ _, fun x hx j hj => ?_⟩
  obtain ⟨member, live⟩ := List.mem_filter.mp hx
  obtain ⟨r, hr, rfl⟩ := List.mem_map.mp member
  obtain ⟨t, elem⟩ := dst.loadElem_foldl within writable (p := fun r => rowLive a.dst a.drt (a.dst.rowIdx r)) (List.mem_range.mp hr) live
    (hj.trans_le le') k.scratch
  rw [elem, Desc.bitsElem_putRowBytes fmt bytes rows le le' _ _ (List.mem_range.mp hr) hj, Desc.streamCodes_getD, rowIdx]

/-! ## TRANSPOSE -/

/-- A row as TRANSPOSE writes it: the elements of the places `is`, and a zero nibble behind a row of an odd number `n` of nibbles. -/
def putColumn (w a n : Nat) (is : List Nat) (get : Nat → Nat) (t : Memory) : Memory :=
  let t := is.foldl (fun t i => putBits t w a i (get i)) t
  if w = 4 ∧ n % 2 = 1 ∧ is.contains (n - 1) then putBits t w a n 0 else t

section
variable {w : Nat} (hw : ElemWidth w) {a n cols : Nat} {is : List Nat} (inside : ∀ i ∈ is, i < n) (get : Nat → Nat) (t : Memory)
include hw inside

/-- The write of a row stays in its bytes. -/
theorem get_putColumn_of_outside (le : n ≤ cols) {b : Nat} (hb : b < a ∨ a + bitBytes w cols ≤ b) :
    Memory.get (putColumn w a n is get t) b = Memory.get t b := by
  have bytes := bitBytes_mono w le
  have elems : Memory.get (is.foldl (fun t i => putBits t w a i (get i)) t) b = Memory.get t b :=
    get_foldl_putBits_of_outside hw get inside (by omega) t
  simp only [putColumn]
  split
  case isFalse => exact elems
  case isTrue odd =>
    obtain ⟨rfl, odd, -⟩ := odd
    rw [putBits_nibble, Memory.get_set, if_neg, elems]
    unfold bitBytes at bytes hb
    omega

theorem bitsElem_putColumn {x : Nat} (hx : x ∈ is) : bitsElem (putColumn w a n is get t) w a x = get x % 2 ^ w := by
  have elem := bitsElem_foldl_putBits hw a x get is t
  rw [if_pos hx] at elem
  have other : n ≠ x := (inside x hx).ne'
  simp only [putColumn]
  split
  · rw [bitsElem_putBits hw, if_neg other, elem]
  · exact elem

end

/-- The places of a row that TRANSPOSE writes: the live rows of the source, within the run-time extents. -/
def liveColumns (ts : Tiles) (src : Desc) (srt drt : List Nat) : List Nat :=
  (List.range (min src.rows (min ts.em (dim drt 0)))).filter fun i => rowLive src srt (src.rowIdx i)

/-- Does TRANSPOSE write a row of the destination? -/
def writesRow (ts : Tiles) (dst : Desc) (srt drt : List Nat) (j : Nat) : Bool :=
  decide (j < min ts.en (dim srt 0)) && rowLive dst drt (dst.rowIdx j)

theorem tileMode_transpose {ctl : LCtl} (mode : ctl.mode = 2) (fifo : ctl.fifo = false) {ts : Tiles} (live : ts.ek ≠ 0) (src dst : Desc)
    (srt drt : List Nat) (m : Memory) : tileMode ctl ts src dst srt drt [] m =
      ((List.range dst.rows).filter (writesRow ts dst srt drt)).foldl (fun t j =>
        putColumn (widthBits ctl.width) (dst.rowAddr (dst.rowIdx j)) (dim drt 0) (liveColumns ts src srt drt)
          (fun i => bitsElem m (widthBits ctl.width) (src.rowAddr (src.rowIdx i)) j) t) m := by
  simp only [tileMode, if_neg live, mode, fifo]
  rfl

/-- What TRANSPOSE leaves. -/
theorem LayoutArgs.run_transpose {a : LayoutArgs} {k : Core} {p : Plan} (plan : a.plan = some p) (fifo : a.ctl.fifo = false)
    (mode : a.ctl.mode = 2) (srcWidth : a.src.fmt.width = widthBits a.ctl.width) (dstWidth : a.dst.fmt.width = widthBits a.ctl.width)
    (dst : a.dst.Formed) (writable : a.dst.writable = true) (le : dim a.drt 0 ≤ dim a.dst.ext 0) : let ts := p.tiles a.ctl k.shape a.src
    a.dst.KeepsOutside k.scratch (a.run [] k).scratch ∧
      ∀ x y, ts.ek ≠ 0 → y < a.dst.rows → rowLive a.dst a.drt (a.dst.rowIdx y) = true → y < min ts.en (dim a.srt 0) →
        x < min a.src.rows (min ts.em (dim a.drt 0)) → rowLive a.src a.srt (a.src.rowIdx x) = true →
        loadElem (a.run [] k).scratch a.dst.fmt (a.dst.rowAddr (a.dst.rowIdx y)) x =
          loadElem k.scratch a.src.fmt (a.src.rowAddr (a.src.rowIdx x)) y := by
  intro ts
  have ran : (a.run [] k).scratch = tileMode a.ctl ts a.src a.dst a.srt a.drt [] k.scratch := by simp only [run, plan, ts]
  rw [ran]
  by_cases masked : ts.ek = 0
  · refine ⟨fun b _ => ?_, fun x y live => absurd masked live⟩
    rw [tileMode, if_pos masked]
  rw [tileMode_transpose mode fifo masked, ← dstWidth]
  have places : ∀ i ∈ liveColumns ts a.src a.srt a.drt, i < dim a.drt 0 := fun i hi => by
    have := List.mem_range.mp (List.mem_of_mem_filter hi)
    omega
  have within (t : Memory) (j b : Nat) := get_putColumn_of_outside a.dst.fmt.elemWidth (a := a.dst.rowAddr (a.dst.rowIdx j)) places
    (fun i => bitsElem k.scratch a.dst.fmt.width (a.src.rowAddr (a.src.rowIdx i)) j) t le (b := b)
  refine ⟨dst.keepsOutside_foldl within _ _, fun x y _ hy live hyn hx liveX => ?_⟩
  have written : writesRow ts a.dst a.srt a.drt y = true := by rw [writesRow, decide_eq_true hyn, live]; rfl
  have place : x ∈ liveColumns ts a.src a.srt a.drt := List.mem_filter.mpr ⟨List.mem_range.mpr hx, liveX⟩
  obtain ⟨t, elem⟩ := dst.loadElem_foldl within writable hy written ((places x place).trans_le le) k.scratch
  rw [elem, bitsElem_putColumn a.dst.fmt.elemWidth places _ _ place, Nat.mod_eq_of_lt (bitsElem_lt a.dst.fmt.elemWidth ..), loadElem_eq_bitsElem,
    srcWidth, dstWidth]

end Sys2Proof.Machine
end

section
/-!
# LAYOUT (spec/08 R205, R206; spec/05 R122 to R129)

What a LAYOUT does as it issues.
-/
namespace Sys2Proof.Machine

/-! ## Descriptors -/

theorem gives_need {α : Type} {P : α → Prop} {b : Bool} {reason : Nat} {f : Unit → Check α} (h : b = true → Gives (f ()) P) :
    Gives (need b reason >>= f) P := by
  cases b with
  | false => exact gives_error _
  | true => exact h rfl

theorem gives_branch_eq {α β : Type} {P : α → Prop} {p : Prop} [Decidable p] {x y : Check β} {f : β → Check α}
    (h : ∀ b, (if p then x else y) = .ok b → Gives (f b) P) : Gives (if p then x >>= f else y >>= f) P := by
  split
  case isTrue yes => exact gives_bind_eq fun b hb => h b ((if_pos yes).trans hb)
  case isFalse no => exact gives_bind_eq fun b hb => h b ((if_neg no).trans hb)

/-- A descriptor that passes the checks of R249 is formed. -/
theorem gives_parse (bs : List Byte) (sized : Bool) : Gives (Desc.parse bs sized) Desc.Formed := by
  unfold Desc.parse
  refine gives_bind fun _ => ?_
  split
  · exact gives_error _
  refine gives_need fun rank => ?_
  iterate 4 refine gives_bind fun _ => ?_
  refine gives_need fun extents => ?_
  repeat refine gives_bind fun _ => ?_
  refine gives_ok ?_
  simp only [Bool.and_eq_true, decide_eq_true_eq] at rank
  obtain ⟨⟨pos, le⟩, -⟩ := rank
  refine ⟨pos, le, by simp, by simp, fun i hi => ?_⟩
  have entry := List.all_eq_true.mp extents i (List.mem_range.mpr hi)
  refine ⟨fun nonzero => ?_, fun inside => ?_⟩
  · by_contra outside
    rw [if_neg outside, Bool.and_eq_true, Bool.and_eq_true, beq_iff_eq] at entry
    exact nonzero entry.1.1
  · rw [if_pos inside] at entry
    exact bne_iff_ne.mp entry

theorem Core.formed_of_desc {k : Core} {slot : Nat} {sized : Bool} : Gives (k.desc slot sized) Desc.Formed := by
  unfold Core.desc
  refine gives_bind_eq fun d parsed => gives_ok ?_
  obtain ⟨pos, le, ext, stride, extent⟩ := gives_parse _ _ _ parsed
  exact ⟨pos, le, ext, stride, extent⟩

/-- Two tensors that an op names are formed, and one that it writes may be written. -/
theorem Core.refs_two {k : Core} {o : Op} {written : List Nat} {a b : Desc} (h : k.refs o 2 written = .ok [a, b]) :
    a.Formed ∧ b.Formed ∧ (written.contains 1 = true → b.writable = true) := by
  have refs : Gives (k.refs o 2 written) fun ds => ds = [a, b] → a.Formed ∧ b.Formed ∧ (written.contains 1 = true → b.writable = true) := by
    unfold Core.refs
    simp only [List.range_succ, List.range_zero, List.nil_append, List.cons_append, List.mapM_cons, List.mapM_nil, bind_assoc, pure_bind]
    refine gives_bind_eq fun x hx => gives_bind fun _ => gives_bind_eq fun x' same => ?_
    cases same
    refine gives_bind_eq fun y hy => gives_need fun checked => gives_bind_eq fun y' same => ?_
    cases same
    refine gives_ok ?_
    rintro ⟨⟩
    exact ⟨Core.formed_of_desc _ hx, Core.formed_of_desc _ hy, fun writes => by rwa [writes] at checked⟩
  exact refs _ h rfl

/-- A run-time extent is at most the compiled one (R251). -/
theorem dim_rt_le {d : Desc} (formed : d.Formed) (k : Core) : dim (k.rt d) 0 ≤ dim d.ext 0 := by
  have first : dim (k.rt d) 0 = rtExtent k.shape (dim d.ext 0) (dim d.bind 0) := if_pos formed.rank_pos
  rw [first, rtExtent]
  split
  · exact le_rfl
  · exact Nat.min_le_left ..

/-! ## The issue -/

/-- What a LAYOUT does as it issues: it runs, or waits for the beats of the layout port FIFO, at `due`; a masked one does nothing. -/
def LayoutArgs.enter (a : LayoutArgs) (due : List (Nat × Nat)) (c : Nat) (s : State) : State :=
  if a.dst.masked a.drt then s else if a.ctl.fifo then s.feed c 2 a.opAddr due (.layout a) else s.modCore c (a.run [])

/-- What the plan of a LAYOUT gives. -/
theorem gives_layout (s : State) (c : Nat) (o : Op) {src dst : Desc} {plan : Option Plan} {ctl : LCtl}
    (hrefs : (s.core c).refs o 2 (if o.fld 2 0 = 3 then [] else [1]) = .ok [src, dst]) (hctl : LCtl.parse (o.fld 31 0) = .ok ctl)
    (hplan : (if o.nd = 3 then (Plan.parse (Memory.read (s.core c).dtable (64 * o.drefs.getD 2 0) 64)).map some else .ok none) = .ok plan)
    (htab : tableOk ((s.core c).layoutArgs o src dst plan ctl).tab = true) :
    Gives (planLayout s c o) fun l => Gives l.go fun i =>
      ∃ due, ∀ id t, i.effect id t = ((s.core c).layoutArgs o src dst plan ctl).enter due c t := by
  unfold planLayout
  refine gives_bind_eq fun ds same => ?_
  obtain rfl := Except.ok.inj (hrefs.symm.trans same)
  refine gives_bind fun _ => gives_branch_eq fun plan' same => ?_
  obtain rfl := Except.ok.inj (hplan.symm.trans same)
  refine gives_bind fun _ => gives_bind_eq fun ctl' same => ?_
  obtain rfl := Except.ok.inj (hctl.symm.trans same)
  refine gives_legal ?_
  repeat refine gives_bind fun _ => ?_
  refine gives_when ?_
  have issue {i j : Issue} {p q : Bool} {Q : Issue → Prop} (hj : Q j) :
      Gives (.ok (if p && q && !tableOk ((s.core c).layoutArgs o src dst plan ctl).tab then i else j)) Q :=
    gives_ok (by rw [htab, Bool.not_true, Bool.and_false, if_neg Bool.false_ne_true]; exact hj)
  cases plan with
  | none => exact gives_bind fun _ => issue ⟨_, fun id t => rfl⟩
  | some p => exact gives_branch fun _ => issue ⟨_, fun id t => rfl⟩

theorem planFor_layout {o : Op} (h : o.opc = 0x11) : planFor o = planLayout := by simp only [planFor, h]

theorem Core.layoutArgs_looked (k : Core) (cyc now n : Nat) (o : Op) (src dst : Desc) (plan : Option Plan) (ctl : LCtl) :
    (k.looked cyc now n).layoutArgs o src dst plan ctl = k.layoutArgs o src dst plan ctl := rfl

namespace LayoutArgs

variable (a : LayoutArgs) (due : List (Nat × Nat)) (c : Nat) (t : State)

theorem scratch_run_congr {x y : Core} (scratch : y.scratch = x.scratch) (shape : y.shape = x.shape) (fifo : List Byte) :
    (a.run fifo y).scratch = (a.run fifo x).scratch := by
  simp only [run, scratch, shape]

/-- What a LAYOUT leaves as it issues. -/
theorem enter_spec {s : State} (h : s.StoresKept t c) : let u := a.enter due c t
    s.ScratchOp u c ∧
      (a.dst.masked a.drt = true → (u.core c).scratch = (s.core c).scratch ∧ (u.core c).jobs = (s.core c).jobs) ∧
      (a.dst.masked a.drt = false → a.ctl.fifo = true → (u.core c).scratch = (s.core c).scratch ∧
        ∃ beats, (u.core c).jobs = (s.core c).jobs ++ [⟨2, a.opAddr, beats, [], .layout a⟩]) ∧
      (a.dst.masked a.drt = false → a.ctl.fifo = false → (u.core c).scratch = (a.run [] (s.core c)).scratch) := by
  intro u
  obtain ⟨rowOp, scratch, stock, rows, jobs⟩ := h
  have ⟨_, _, shape, _⟩ := rowOp
  cases masked : a.dst.masked a.drt with
  | true =>
    have same : u = t := by simp only [u, enter, masked, if_true]
    rw [same]
    exact ⟨⟨rowOp, stock, rows⟩, fun _ => ⟨scratch, jobs⟩, nofun, nofun⟩
  | false =>
  cases fifo : a.ctl.fifo with
  | true =>
    have same : u = t.feed c 2 a.opAddr due (.layout a) := by simp only [u, enter, masked, fifo, if_true, Bool.false_eq_true, if_false]
    rw [same]
    refine ⟨⟨rowOp.modCore (fun _ => rfl) fun _ => rfl, ?_, ?_⟩, nofun, fun _ _ => ⟨?_, due.map fun b => (t.cyc + b.1, b.2), ?_⟩, nofun⟩
    all_goals rw [State.feed, State.core_modCore, if_pos rfl]
    · exact stock
    · exact rows
    · exact scratch
    · exact congrArg (· ++ _) jobs
  | false =>
    have same : u = t.modCore c (a.run []) := by simp only [u, enter, masked, fifo, Bool.false_eq_true, if_false]
    rw [same]
    refine ⟨⟨rowOp.modCore (fun _ => rfl) fun _ => rfl, ?_, ?_⟩, nofun, nofun, fun _ _ => ?_⟩
    all_goals rw [State.core_modCore, if_pos rfl]
    · exact stock
    · exact rows
    · exact a.scratch_run_congr scratch shape []

end LayoutArgs

/-! ## An op that names what its mode asks for -/

theorem mode_of_parse {w : Nat} {ctl : LCtl} (h : LCtl.parse w = .ok ctl) : ctl.mode = bits w 2 0 := by
  have parsed : Gives (LCtl.parse w) fun ctl => ctl.mode = bits w 2 0 := by
    unfold LCtl.parse
    exact gives_bind fun _ => gives_bind fun _ => gives_ok rfl
  exact parsed ctl h

theorem Op.fld_low (o : Op) : bits (o.fld 31 0) 2 0 = o.fld 2 0 := by
  simp only [Op.fld, bits]
  omega

theorem writable_of_refs {k : Core} {o : Op} {src dst : Desc} {ctl : LCtl}
    (hrefs : k.refs o 2 (if o.fld 2 0 = 3 then [] else [1]) = .ok [src, dst]) (hctl : LCtl.parse (o.fld 31 0) = .ok ctl)
    (mode : ctl.mode ≠ 3) : dst.writable = true := by
  rw [mode_of_parse hctl, Op.fld_low] at mode
  obtain ⟨-, -, writable⟩ := Core.refs_two hrefs
  exact writable (by rw [if_neg mode]; rfl)

/-- A PASS that names as many references as R205 asks for names no plan. -/
theorem nd_of_pass {k : Core} {o : Op} {ctl : LCtl} (hopc : o.opc = 0x11) (nd : k.ndOk o = true)
    (hctl : LCtl.parse (o.fld 31 0) = .ok ctl) (mode : ctl.mode = 0) : o.nd = 2 := by
  have field : o.fld 2 0 = 0 := by rw [← Op.fld_low, ← mode_of_parse hctl, mode]
  simpa [Core.ndOk, hopc, field] using nd

/-- What passes check 2 of R157 names as many references as its mode asks for. -/
theorem Core.gives_checkWord (k : Core) (o : Op) : Gives (k.checkWord o) fun _ => k.ndOk o = true := by
  unfold Core.checkWord
  split
  · exact gives_error _
  refine gives_bind fun _ => gives_need fun named => ?_
  rw [Bool.and_eq_true] at named
  exact fun _ _ => named.2

/-- An op whose checks are made as it issues names as many references as its mode asks for. -/
theorem State.ndOk_of_dueIssue {s : State} {c : Nat} {i : Issue} (h : s.dueIssue c = some i) (unchecked : (s.core c).legalBlk = none) :
    (s.core c).ndOk (s.core c).nextOp = true := by
  obtain ⟨-, l, hlegal, -⟩ := State.dueIssue_spec h
  have look := s.core_look c
  have fresh : ((s.look c).core c).legalBlk.isNone = true := by rw [look]; exact Option.isNone_iff_eq_none.mpr unchecked
  have checked : Gives (legality (planFor (s.core c).nextOp) (s.look c) c (s.core c).nextOp) fun _ =>
      ((s.look c).core c).ndOk (s.core c).nextOp = true := by
    rw [legality, if_pos fresh]
    exact gives_bind_eq fun u hu _ _ => Core.gives_checkWord _ _ u hu
  have named := checked l hlegal
  rw [look] at named
  exact named

section
variable {s : State} {c : Nat} {i : Issue} (h : s.dueIssue c = some i) (hopc : (s.core c).nextOp.opc = 0x11)
  {src dst : Desc} {ctl : LCtl} {plan : Option Plan}
  (hrefs : (s.core c).refs (s.core c).nextOp 2 (if (s.core c).nextOp.fld 2 0 = 3 then [] else [1]) = .ok [src, dst])
  (hctl : LCtl.parse ((s.core c).nextOp.fld 31 0) = .ok ctl)
  (hplan : (if (s.core c).nextOp.nd = 3 then
      (Plan.parse (Memory.read (s.core c).dtable (64 * (s.core c).nextOp.drefs.getD 2 0) 64)).map some else .ok none) = .ok plan)
include h hopc hrefs hctl hplan

/-- Where a LAYOUT is due, its command issues it. -/
theorem exec_layout (htab : tableOk ((s.core c).layoutArgs (s.core c).nextOp src dst plan ctl).tab = true) :
    ∃ due, exec (.layout c) s =
      .next (((s.core c).layoutArgs (s.core c).nextOp src dst plan ctl).enter due c ((s.look c).ahead c (s.core c).nextOp i)) := by
  obtain ⟨-, l, hlegal, -, hgo, -⟩ := State.dueIssue_spec h
  have given := gives_legality _ _ _ _ _ hlegal
  rw [planFor_layout hopc] at given
  have look := s.core_look c
  obtain ⟨due, effect⟩ := gives_layout (s.look c) c (s.core c).nextOp (src := src) (dst := dst) (plan := plan) (ctl := ctl)
    (by rw [look, Core.refs_looked, hrefs]) hctl (by rw [look]; exact hplan) (by rw [look]; exact htab) l given i hgo
  rw [look, Core.layoutArgs_looked] at effect
  refine ⟨due, Eq.trans ?_ (congrArg _ (effect (s.look c).nextId _))⟩
  rw [← State.issue_eq_effect]
  exact issueRow_of_dueIssue h (beq_iff_eq.mpr hopc) (planFor_layout hopc)

/-- What LAYOUT writes, where its op names as many references as its mode asks for (R205), as every op does that is checked as it issues
(`State.ndOk_of_dueIssue`): all that `Obligations.LayoutOps` says of it. -/
theorem layoutOps_of_ndOk (nd : (s.core c).ndOk (s.core c).nextOp = true) :
    let k := s.core c
    let a := k.layoutArgs k.nextOp src dst plan ctl
    tableOk a.tab = true →
    Leads (exec (.layout c) s) fun t => s.ScratchOp t c ∧
      (dst.masked a.drt = true → (t.core c).scratch = k.scratch ∧ (t.core c).jobs = k.jobs) ∧
      (dst.masked a.drt = false → ctl.fifo = true → (t.core c).scratch = k.scratch ∧
        ∃ due, (t.core c).jobs = k.jobs ++ [⟨2, k.nextOp.addr, due, [], .layout a⟩]) ∧
      (dst.masked a.drt = false → ctl.fifo = false → (t.core c).scratch = (a.run [] k).scratch ∧
        (ctl.mode = 0 → src.fmt = dst.fmt → src.ext = dst.ext → dst.KeepsOutside k.scratch (t.core c).scratch ∧
          ∀ r ∈ dst.liveRows a.drt, ∀ j, j < dim a.drt 0 → loadElem (t.core c).scratch dst.fmt (dst.rowAddr r.2) j =
            if rowLive src a.srt r.2 && decide (j < dim a.srt 0) then loadElem k.scratch src.fmt (src.rowAddr r.2) j else 0) ∧
        (∀ p, ctl.mode = 2 → plan = some p → src.fmt.width = widthBits ctl.width → dst.fmt.width = widthBits ctl.width →
          let ts := p.tiles ctl k.shape src
          dst.KeepsOutside k.scratch (t.core c).scratch ∧
          ∀ x y, ts.ek ≠ 0 → y < dst.rows → rowLive dst a.drt (dst.rowIdx y) = true → y < min ts.en (dim a.srt 0) →
            x < min src.rows (min ts.em (dim a.drt 0)) → rowLive src a.srt (src.rowIdx x) = true →
            loadElem (t.core c).scratch dst.fmt (dst.rowAddr (dst.rowIdx y)) x =
              loadElem k.scratch src.fmt (src.rowAddr (src.rowIdx x)) y)) := by
  intro k a htab
  obtain ⟨due, issued⟩ := exec_layout h hopc hrefs hctl hplan htab
  obtain ⟨scratchOp, masked, waits, runs⟩ := a.enter_spec due c _ (s.storesKept_ahead c i)
  obtain ⟨srcFormed, dstFormed, -⟩ := Core.refs_two hrefs
  refine ⟨_, issued, scratchOp, masked, waits, fun live fifo => ?_⟩
  have scratch := runs live fifo
  rw [scratch]
  refine ⟨rfl, fun mode fmt ext => ?_, fun p mode planned srcWidth dstWidth => ?_⟩
  · have unplanned : plan = none := by
      rw [nd_of_pass hopc nd hctl mode] at hplan
      exact (Except.ok.inj hplan).symm
    exact LayoutArgs.run_pass (a := a) unplanned fifo mode fmt ext srcFormed dstFormed
      (writable_of_refs hrefs hctl (by omega)) (dim_rt_le srcFormed k) (dim_rt_le dstFormed k)
  · exact LayoutArgs.run_transpose (a := a) planned fifo mode srcWidth dstWidth dstFormed
      (writable_of_refs hrefs hctl (by omega)) (dim_rt_le dstFormed k)

end

end Sys2Proof.Machine
end

section
/-!
# A PASS with a plan (spec/08 R205)

Check 2 of R157 is not made again for an op that its station holds as checked. So a state may hold a LAYOUT in mode PASS that names a plan.
-/
namespace Sys2Proof.Machine

namespace PlannedPass

/-- A tensor in the scratchpad: one row of 64 INT8 elements (spec/10 R245). -/
def descBytes (base : Nat) : List Byte :=
  toLE 8 (4 * Fmt.int8.code + 128) ++ toLE 8 base ++ List.replicate 16 0 ++ toLE 24 64 ++ List.replicate 72 0

/-- A tile plan that fits one row of 64 elements (spec/10 R259). -/
def planBytes : List Byte :=
  toLE 4 0 ++ (toLE 2 128 ++ toLE 2 128 ++ toLE 2 1) ++ List.replicate 14 0 ++ (toLE 4 1 ++ toLE 4 64 ++ toLE 4 1) ++ List.replicate 28 0

/-- A LAYOUT in mode PASS that names three references (spec/06 R146). -/
def opBytes : List Byte :=
  toLE 4 (0x11 + 2 ^ 20 * 3) ++ toLE 4 16 ++ List.replicate 32 0 ++ (toLE 2 0 ++ toLE 2 2 ++ toLE 2 4 ++ toLE 2 0) ++ toLE 16 0

/-- A core at which the op is due, and counts as checked. The source's first element is 1, the destination at 1,024 is zero. -/
def core : Core :=
  { running := true, due := 1000, legalBlk := some [], pstore := Memory.write [] 0 opBytes, pvalid := 1,
    dtable := Memory.write [] 0 (descBytes 0 ++ descBytes 1024 ++ planBytes), dvalid := 1, scratch := Memory.set [] 0 1 }

def state : State := State.setCore { State.reset with clk := { cycles := 1000 } } 0 core

/-- The tensor that `descBytes` describes. -/
def tensor (base : Nat) : Desc :=
  { part := false, fmt := .int8, rank := 1, tagV := false, scaleV := false, base := base, tagPtr := 0, scalePtr := 0,
    ext := [64, 0, 0, 0, 0, 0], bind := [0, 0, 0, 0, 0, 0], stride := [0, 0, 0, 0, 0, 0], lrow := 0 }

/-- The plan that `planBytes` describes. -/
def plan : Plan :=
  { order0 := 0, order1 := 0, l1v := false, t0 := [128, 128, 1], t1 := [0, 0, 0], ext := [1, 64, 1], bind := [0, 0, 0], abase := 0, alen := 0 }

/-- The control word 0. -/
def ctl : LCtl := { mode := 0, width := 0, owidth := 0, sgn := false, fifo := false, table := 0 }

theorem dueIssue_isSome : (state.dueIssue 0).isSome = true := by decide +kernel

theorem opc_eq : (state.core 0).nextOp.opc = 0x11 := by decide +kernel

theorem refs_eq : (state.core 0).refs (state.core 0).nextOp 2 (if (state.core 0).nextOp.fld 2 0 = 3 then [] else [1]) =
    .ok [tensor 0, tensor 1024] := by decide +kernel

theorem ctl_eq : LCtl.parse ((state.core 0).nextOp.fld 31 0) = .ok ctl := by decide +kernel

theorem plan_eq : (if (state.core 0).nextOp.nd = 3 then
      (Plan.parse (Memory.read (state.core 0).dtable (64 * (state.core 0).nextOp.drefs.getD 2 0) 64)).map some else .ok none) =
    .ok (some plan) := by decide +kernel

/-- What the op works with. -/
def args : LayoutArgs := (state.core 0).layoutArgs (state.core 0).nextOp (tensor 0) (tensor 1024) (some plan) ctl

/-- The run takes the source for a panel, of which one row of elements has none, and writes nothing. -/
theorem run_leaves_zero : loadElem (args.run [] (state.core 0)).scratch .int8 1024 0 = 0 := by decide +kernel

theorem source_elem : loadElem (state.core 0).scratch .int8 0 0 = 1 := by decide +kernel

end PlannedPass

open PlannedPass in
/-- Refutes O19: a state may hold an op as checked (`legalBlk`) that names a plan in mode PASS, though R205 gives PASS none. The model then runs
the plan's tile mode, and a source of one row leaves the destination as it was. Where the op names what its mode asks for, all that O19 says
holds, by `layoutOps_of_ndOk`. -/
theorem not_layoutOps : ¬ Obligations.LayoutOps := by
  intro holds
  obtain ⟨i, due⟩ := Option.isSome_iff_exists.mp dueIssue_isSome
  have leads := holds state 0 i (tensor 0) (tensor 1024) ctl (some plan) due opc_eq refs_eq ctl_eq plan_eq rfl
  obtain ⟨t, -, -, -, -, runs⟩ := leads
  obtain ⟨scratch, pass, -⟩ := runs (by decide +kernel) rfl
  obtain ⟨-, moved⟩ := pass rfl rfl rfl
  have first := moved (0, []) (by decide +kernel) 0 (by decide +kernel)
  rw [scratch] at first
  exact absurd (run_leaves_zero.symm.trans (first.trans source_elem)) (by decide)

end Sys2Proof.Machine
end

section
/-!
# Illegal ops (spec/06 R158, R161)

What the station makes of an op that it finds illegal: logged and skipped as its waits pass, or held by them.
-/
namespace Sys2Proof.Machine

/-! ## An op that a station is offered -/

theorem State.offered_spec {s : State} {c : Nat} (h : s.offered c = true) : s.issuing c = true ∧ (s.core c).running = true := by
  have issuing : s.issuing c = true := by
    unfold State.offered at h
    simp only [Bool.and_eq_true] at h
    exact h.1.1
  unfold State.issuing at issuing
  simp only [Bool.and_eq_true] at issuing
  exact ⟨by simp [State.issuing, issuing], issuing.1.1.1.2⟩

@[simp] theorem State.blockValid_look (s : State) (c : Nat) :
    ((s.look c).core c).blockValid ((s.look c).core c).next = (s.core c).blockValid (s.core c).next := by
  rw [State.core_look]; rfl

@[simp] theorem State.illDue_look (s : State) (c : Nat) : ((s.look c).core c).illDue = (s.core c).illDue := by
  rw [State.core_look]; rfl

/-- The command of an illegal op has the station take it up. -/
theorem exec_illegalOp {s : State} {c : Nat} (hoffered : s.offered c = true)
    (hfinds : (s.look c).findsIllegal c (s.core c).nextOp = true) :
    exec (.illegalOp c) s = .next (s.takeOp (planFor (s.core c).nextOp) c) := by
  show execIllegalOp c s = _
  simp [execIllegalOp, (State.offered_spec hoffered).1, hoffered, hfinds]

/-! ## The skip -/

/-- A core that has counted an op as illegal (R161). -/
def Core.counted (k : Core) (opAddr reason : Nat) : Core :=
  { k with illCount := satAdd 32 k.illCount 1, illOp := opAddr, illReason := reason, illDue := true }

section
variable {s : State} {c : Nat}

/-- The record of an illegal op leaves all but its own core's count, transfers and messages included. -/
theorem State.logIllegal_counted (o : Op) (reason : Nat) :
    let t := (s.logIllegal c o.addr o.opc o.var reason).modCore c fun k => { k with illDue := true }
    t.core c = (s.core c).counted o.addr reason ∧ (∀ d, d ≠ c → t.core d = s.core d) ∧ t.clk = s.clk ∧ t.xfers = s.xfers ∧
      t.sigs = s.sigs := by
  have cores (d : Nat) (ctx : List Byte) : (s.logCore c 0x0001 ctx).core d = s.core d := State.core_congr (State.logCore_cores ..) d
  refine ⟨?_, fun d hd => ?_, ?_, ?_, ?_⟩
  · simp [State.logIllegal, cores, Core.counted]
  · simp [State.logIllegal, cores, hd.symm]
  all_goals simp [State.logIllegal]

/-- An op found illegal as its waits pass is counted, and the next one comes up (R158). -/
theorem State.skip_of_pass {o : Op} (hill : (s.core c).illDue = false) (hwaits : (s.core c).waits o s.cyc s.coreNow = .pass) (reason : Nat) :
    (s.skip c o reason).core c = ((s.core c).counted o.addr reason).advanceOp o.addr o.dur s.cyc ∧
      (∀ d, d ≠ c → (s.skip c o reason).core d = s.core d) ∧ (s.skip c o reason).xfers = s.xfers ∧ (s.skip c o reason).sigs = s.sigs := by
  obtain ⟨own, others, clk, xfers, sigs⟩ := State.logIllegal_counted (s := s) (c := c) o reason
  unfold State.skip
  simp only [hill, Bool.false_eq_true, if_false]
  generalize (s.logIllegal c o.addr o.opc o.var reason).modCore c (fun k => { k with illDue := true }) = t at own others clk xfers sigs
  have cyc : t.cyc = s.cyc := congrArg Clocks.cycles clk
  have now : t.coreNow = s.coreNow := congrArg Clocks.edgeAt clk
  have passes : (t.core c).waits o t.cyc t.coreNow = .pass := by rw [own, cyc, now]; exact hwaits
  rw [passes]
  refine ⟨by simp [own, cyc], fun d hd => ?_, xfers, sigs⟩
  rw [State.core_modCore, if_neg hd.symm, others d hd]

/-- An op found illegal before is not counted again while a wait holds it. -/
theorem State.skip_of_held {o : Op} (hill : (s.core c).illDue = true) (hwaits : (s.core c).waits o s.cyc s.coreNow = .held) (reason : Nat) :
    s.skip c o reason = s.stall c 0 := by
  simp only [State.skip, hill, if_true, hwaits]

end

theorem Core.stall_eq (k : Core) (cause now : Nat) : k.stall cause now =
    { k with stalls := (k.stall cause now).stalls, stallValid := (k.stall cause now).stallValid, stallOpen := (k.stall cause now).stallOpen,
             stallOp := (k.stall cause now).stallOp, stallCause := (k.stall cause now).stallCause,
             stallStamp := (k.stall cause now).stallStamp } := by
  unfold Core.stall
  dsimp only
  split
  · rfl
  · split <;> rfl

/-! ## The station takes up an illegal op -/

section
variable {s : State} {c : Nat}

theorem State.dueIllegal_spec {r : Nat} (h : s.dueIllegal c r = true) :
    s.clear c = true ∧ legality (planFor (s.core c).nextOp) (s.look c) c (s.core c).nextOp = .error (.illegal r) := by
  simp only [State.dueIllegal, State.nextOp_look, Bool.and_eq_true] at h
  obtain ⟨clear, illegal⟩ := h
  refine ⟨clear, ?_⟩
  split at illegal
  · next found => rw [found, beq_iff_eq.mp illegal]
  · cases illegal

theorem State.takeOp_of_illegal {r : Nat} (hvalid : (s.core c).blockValid (s.core c).next = true) (hill : (s.core c).illDue = false)
    (hlegal : legality (planFor (s.core c).nextOp) (s.look c) c (s.core c).nextOp = .error (.illegal r)) :
    s.takeOp (planFor (s.core c).nextOp) c = (s.look c).skip c (s.core c).nextOp r := by
  simp [State.takeOp, hvalid, hill, hlegal]

theorem State.takeOp_of_illDue (hvalid : (s.core c).blockValid (s.core c).next = true) (hill : (s.core c).illDue = true) (plan : PlanFn) :
    s.takeOp plan c = (s.look c).skip c (s.core c).nextOp 0 := by
  simp [State.takeOp, hvalid, hill]

end

/-! ## The statement -/

/-- Settles O10: an op found illegal as its waits pass is skipped by `State.skip_of_pass`, one that a wait holds stalls by
`State.skip_of_held`. -/
theorem illegalOpIsSkipped : Obligations.IllegalOpIsSkipped := by
  intro s c r o kept
  have others := (s.coreEffect_look c).2.1
  have look := s.core_look c
  refine ⟨fun hdue hcount => ?skipped, fun hoffered hvalid hill hwaits => ?held⟩
  case skipped =>
    obtain ⟨hclear, hlegal⟩ := State.dueIllegal_spec hdue
    obtain ⟨hoffered, hvalid, hill, hwaits⟩ := State.clear_spec hclear
    rw [State.blockValid_look] at hvalid
    have taken := State.takeOp_of_illegal hvalid (by rwa [State.illDue_look] at hill) hlegal
    obtain ⟨own, others', xfers, sigs⟩ := State.skip_of_pass hill hwaits r
    refine ⟨_, exec_illegalOp hoffered (by simp [State.findsIllegal, hlegal]), ?_⟩
    have counts : satAdd 32 (s.core c).illCount 1 = (s.core c).illCount + 1 := by unfold satAdd; omega
    rw [look] at own
    simp only [taken, kept, own]
    exact ⟨⟨(State.offered_spec hoffered).2, rfl, rfl, rfl, rfl, fun d hd => (others' d hd).trans (others d hd), xfers, sigs⟩,
      counts, rfl, rfl, rfl⟩
  case held =>
    have taken := State.takeOp_of_illDue hvalid hill (planFor (s.core c).nextOp)
    rw [State.skip_of_held (by rwa [State.illDue_look]) hwaits] at taken
    have own : ((s.look c).stall c 0).core c = ((s.look c).core c).stall 0 s.coreNow := by simp [State.stall]
    have others' (d : Nat) (hd : d ≠ c) : ((s.look c).stall c 0).core d = (s.look c).core d := by simp [State.stall, hd.symm]
    refine ⟨_, exec_illegalOp hoffered (by simp [State.findsIllegal, hill]), ?_⟩
    have xfers : ((s.look c).stall c 0).xfers = s.xfers := by simp [State.stall, State.look]
    have sigs : ((s.look c).stall c 0).sigs = s.sigs := by simp [State.stall, State.look]
    rw [Core.stall_eq, look] at own
    simp only [taken, kept, own]
    exact ⟨⟨(State.offered_spec hoffered).2, rfl, rfl, rfl, rfl, fun d hd => (others' d hd).trans (others d hd), xfers, sigs⟩,
      rfl, rfl, rfl, hill⟩

end Sys2Proof.Machine
end

section
/-!
# A wait that expires (spec/06 R151)

The station takes up the op of an expired wait, whose core faults. An op found illegal before faults as the look leaves it; one that is legal
faults after its checks have been noted.
-/
namespace Sys2Proof.Machine

/-! ## Waits that have expired -/

theorem Core.expired_dueStamp {k : Core} {o : Op} {now : Nat} {w : Wait × Nat} (h : k.expired o now = some w) : ∃ st, k.dueStamp = some st := by
  unfold Core.expired at h
  cases hst : k.dueStamp with
  | none => rw [hst] at h; cases h
  | some st => exact ⟨st, rfl⟩

/-- An expired wait is a fault, the one of R301 where a wait of the op has that too. -/
theorem Core.waits_of_expired {k : Core} {o : Op} {now : Nat} {w : Wait × Nat} (h : k.expired o now = some w) (cyc : Nat) :
    ∃ f, k.waits o cyc now = .fault f ∧ (o.waits.findSome? (k.waitFault o.addr) = none → f = waitTimeout k o.addr w.2 w.1) := by
  unfold Core.waits
  split
  · next f hf => exact ⟨f, rfl, fun hnone => by rw [hnone] at hf; cases hf⟩
  · rw [h]
    exact ⟨_, rfl, fun _ => rfl⟩

/-- As a wait has expired, the look notes none that passes. -/
theorem State.core_look_of_expired {s : State} {c : Nat} {w : Wait × Nat} (h : (s.core c).expired (s.core c).nextOp s.coreNow = some w) :
    (s.look c).core c = (s.core c).looked s.cyc s.coreNow (s.core c).passed ∧
      ((s.look c).core c).expired (s.core c).nextOp s.coreNow = some w := by
  obtain ⟨st, hst⟩ := Core.expired_dueStamp h
  have same : ((s.core c).looked s.cyc s.coreNow (s.core c).passed).expired (s.core c).nextOp s.coreNow = some w := by
    rw [← h]
    simp only [Core.expired, Core.looked, hst, Option.getD_some]
  have unexpired : ¬ (((s.core c).looked s.cyc s.coreNow (s.core c).passed).expired (s.core c).nextOp s.coreNow).isNone = true := by
    rw [same]; exact Bool.false_ne_true
  have looked : (s.look c).core c = (s.core c).looked s.cyc s.coreNow (s.core c).passed := by
    simp only [State.look, State.core_modCore, if_true]
    exact if_neg unexpired
  exact ⟨looked, by rw [looked, same]⟩

/-! ## The fault of a wait -/

section
variable {s : State} {c : Nat} {o : Op} {f : CFault} (h : (s.core c).waits o s.cyc s.coreNow = .fault f)
include h

/-- An op found illegal, now or before, faults for its wait and is not skipped. -/
theorem State.skip_of_waitFault (reason : Nat) : ∃ t, s.skip c o reason = t.coreFault c f ∧ (t.core c).running = (s.core c).running ∧
    ((s.core c).illDue = true → t = s) := by
  cases hill : (s.core c).illDue with
  | true => exact ⟨s, by simp only [State.skip, hill, if_true, h], rfl, fun _ => rfl⟩
  | false =>
    obtain ⟨own, -, clk, -⟩ := State.logIllegal_counted (s := s) (c := c) o reason
    unfold State.skip
    simp only [hill, Bool.false_eq_true, if_false]
    generalize (s.logIllegal c o.addr o.opc o.var reason).modCore c (fun k => { k with illDue := true }) = t at own clk
    have cyc : t.cyc = s.cyc := congrArg Clocks.cycles clk
    have now : t.coreNow = s.coreNow := congrArg Clocks.edgeAt clk
    have waits : (t.core c).waits o t.cyc t.coreNow = .fault f := by rw [own, cyc, now]; exact h
    exact ⟨t, by rw [waits], by rw [own]; rfl, nofun⟩

/-- A legal op faults for its wait once its checks have been noted. -/
theorem State.tryIssue_of_waitFault (l : Legal) : (s.modCore c fun k => k.noteLegal o).tryIssue c o l =
    (s.modCore c fun k => k.noteLegal o).coreFault c f := by
  have waits : ((s.core c).noteLegal o).waits o s.cyc s.coreNow = .fault f := h
  have now : (s.modCore c fun k => k.noteLegal o).coreNow = s.coreNow := rfl
  simp only [State.tryIssue, State.core_modCore, if_true, State.cyc_modCore, now, waits]

end

/-- Whatever the station finds of an op for whose wait the core faults as it is looked at, the core faults. -/
theorem State.takeOp_of_waitFault {s : State} {c : Nat} {f : CFault} (hvalid : (s.core c).blockValid (s.core c).next = true)
    (h : ((s.look c).core c).waits (s.core c).nextOp s.cyc s.coreNow = .fault f) (plan : PlanFn) :
    ∃ t g, s.takeOp plan c = t.coreFault c g ∧ (t.core c).running = (s.core c).running ∧
      ((s.core c).illDue = true → t = s.look c ∧ g = f) ∧
      ((s.core c).illDue = false → ∀ l, legality plan (s.look c) c (s.core c).nextOp = .ok l →
        t = ((s.look c).modCore c fun k => k.noteLegal (s.core c).nextOp) ∧ g = f) := by
  have running : ((s.look c).core c).running = (s.core c).running := by rw [State.core_look]; rfl
  cases hill : (s.core c).illDue with
  | true =>
    obtain ⟨t, skipped, kept, same⟩ := State.skip_of_waitFault h 0
    refine ⟨t, f, ?_, kept.trans running, fun _ => ⟨same (by rwa [State.illDue_look]), rfl⟩, nofun⟩
    rw [State.takeOp_of_illDue hvalid hill, skipped]
  | false =>
    cases hlegal : legality plan (s.look c) c (s.core c).nextOp with
    | ok l =>
      refine ⟨_, f, ?_, by simpa [Core.noteLegal] using running, nofun, fun _ _ _ => ⟨rfl, rfl⟩⟩
      simpa [State.takeOp, hvalid, hill, hlegal] using State.tryIssue_of_waitFault h l
    | error e =>
      cases e with
      | illegal r =>
        obtain ⟨t, skipped, kept, -⟩ := State.skip_of_waitFault h r
        exact ⟨t, f, by simp [State.takeOp, hvalid, hill, hlegal, skipped], kept.trans running, nofun, nofun⟩
      | fault g => exact ⟨s.look c, g, by simp [State.takeOp, hvalid, hill, hlegal], running, nofun, nofun⟩

/-- A wait that has outlasted its timeout faults the core (R151). The state is that of the look, with the checks of a legal op noted. -/
theorem leads_waitTimeout {s : State} {c i : Nat} {w : Wait} (hoffered : s.offered c = true)
    (hvalid : (s.core c).blockValid (s.core c).next = true) (hexpired : (s.core c).expired (s.core c).nextOp s.coreNow = some (w, i)) :
    let o := (s.core c).nextOp
    let f := waitTimeout (s.core c) o.addr i w
    Leads (exec (.waitTimeout c) s) fun t => (t.core c).faulted = true ∧ (t.core c).running = false ∧
      (o.waits.findSome? ((s.core c).waitFault o.addr) = none →
        ((s.core c).illDue = true → t = (s.look c).coreFault c f) ∧
        ((s.core c).illDue = false → ∀ l, legality (planFor o) (s.look c) c o = .ok l →
          t = ((s.look c).modCore c fun k => k.noteLegal o).coreFault c f)) := by
  intro o f
  obtain ⟨look, expired⟩ := State.core_look_of_expired hexpired
  obtain ⟨g, waits, timeout⟩ := Core.waits_of_expired expired s.cyc
  obtain ⟨t, g', taken, running, ofIllDue, ofLegal⟩ := State.takeOp_of_waitFault hvalid waits (planFor o)
  have taken_up : exec (.waitTimeout c) s = .next (s.takeOp (planFor o) c) := by
    show execWaitTimeout c s = _
    simp [execWaitTimeout, hoffered, hvalid, hexpired, o]
  rw [look] at timeout
  refine ⟨_, taken_up, ?_⟩
  rw [taken]
  obtain ⟨faulted, stopped⟩ := State.core_coreFault (running.trans (State.offered_spec hoffered).2) g'
  refine ⟨faulted, stopped, fun unfaulted => ⟨fun hill => ?_, fun hill l hl => ?_⟩⟩
  · obtain ⟨rfl, rfl⟩ := ofIllDue hill
    rw [timeout unfaulted]; rfl
  · obtain ⟨rfl, rfl⟩ := ofLegal hill l hl
    rw [timeout unfaulted]; rfl

/-! ## Checks that were noted before -/

theorem State.setCore_setCore {k : Core} (h : k ≠ {}) (s : State) (c : Nat) (m : Core) : (s.setCore c k).setCore c m = s.setCore c m := by
  simp [State.setCore, Tab.set_set h]

/-- Once noted, the checks of an op are not noted again. -/
theorem Core.noteLegal_of_noted {k : Core} (h : k.legalBlk.isSome = true) (o : Op) : k.noteLegal o = k := by
  obtain ⟨b, hb⟩ := Option.isSome_iff_exists.mp h
  unfold Core.noteLegal
  rw [hb, Option.getD_some, ← hb]

theorem State.noteLegal_look_of_noted {s : State} {c : Nat} (h : (s.core c).legalBlk.isSome = true) (o : Op) :
    ((s.look c).modCore c fun k => k.noteLegal o) = s.look c := by
  have noted : ((s.look c).core c).legalBlk.isSome = true := by rw [State.core_look]; exact h
  have set : ∃ t : State, s.look c = t.setCore c ((s.look c).core c) := by
    refine ⟨s.modCore c fun k => { k with tried := s.cyc + 1, dueStamp := some (k.dueStamp.getD s.coreNow) }, ?_⟩
    simp only [State.look, State.modCore, State.core_setCore, if_true]
  obtain ⟨t, ht⟩ := set
  have ne : (s.look c).core c ≠ {} := s.look_ne_default c ((s.look c).core c).legalBlk
  rw [State.modCore, Core.noteLegal_of_noted noted]
  generalize (s.look c).core c = k at ht ne
  rw [ht, State.setCore_setCore ne]

/-- All that O13 says of a wait that expires, where an op that is legal has had its checks noted before. -/
theorem leads_waitTimeout_of_noted {s : State} {c i : Nat} {w : Wait} (hoffered : s.offered c = true)
    (hvalid : (s.core c).blockValid (s.core c).next = true) (hexpired : (s.core c).expired (s.core c).nextOp s.coreNow = some (w, i))
    (hnoted : (s.core c).legalBlk.isSome = true) :
    let o := (s.core c).nextOp
    Leads (exec (.waitTimeout c) s) fun t => (t.core c).faulted = true ∧ (t.core c).running = false ∧
      (o.waits.findSome? ((s.core c).waitFault o.addr) = none →
        (s.core c).illDue = true ∨ (∃ l, legality (planFor o) (s.look c) c o = .ok l) →
        t = (s.look c).coreFault c (waitTimeout (s.core c) o.addr i w)) := by
  intro o
  obtain ⟨t, next, faulted, stopped, timedOut⟩ := leads_waitTimeout hoffered hvalid hexpired
  refine ⟨t, next, faulted, stopped, fun unfaulted found => ?_⟩
  obtain ⟨ofIllDue, ofLegal⟩ := timedOut unfaulted
  cases hill : (s.core c).illDue with
  | true => exact ofIllDue hill
  | false =>
    obtain ⟨l, hl⟩ := found.resolve_left (by simp [hill])
    rw [ofLegal hill l hl, State.noteLegal_look_of_noted hnoted]

/-! ## The statement -/

theorem State.legalBlk_coreFault (s : State) (c : Nat) (f : CFault) : ((s.coreFault c f).core c).legalBlk = (s.core c).legalBlk := by
  unfold State.coreFault
  dsimp only
  split
  · simp only [State.stopCore, State.core_congr (State.dropPrograms_cores ..), State.core_congr (State.dropWaiting_cores ..),
      State.core_setCore, if_true, State.core_congr (State.raise_cores ..)]
  · rw [State.core_congr (State.raise_cores ..)]

/-- A fault does not undo that the checks of an op have been noted. -/
theorem State.coreFault_noteLegal_ne {s : State} {c : Nat} (h : (s.core c).legalBlk = none) (o : Op) (f : CFault) :
    ((s.look c).modCore c fun k => k.noteLegal o).coreFault c f ≠ (s.look c).coreFault c f := by
  intro same
  have blk := congrArg (fun t => (t.core c).legalBlk) same
  simp only [State.legalBlk_coreFault, State.core_modCore, if_true, Core.noteLegal] at blk
  rw [State.core_look, show ((s.core c).looked s.cyc s.coreNow _).legalBlk = none from h] at blk
  cases blk

namespace ExpiredWait

/-- A WAIT for counter 0 to reach 5, with a timeout of 1 µs (spec/06 R146). -/
def opBytes : List Byte := toLE 4 (0x30 + 2 ^ 16) ++ toLE 4 16 ++ toLE 8 (5 * 2 ^ 8 + 2 ^ 32) ++ List.replicate 48 0

/-- A core at which the op has been due since stamp 0. Its checks have not been noted. -/
def core : Core :=
  { running := true, due := 1000, dueStamp := some 0, pstore := Memory.write [] 0 opBytes, pvalid := 1,
    cnts := [(0, { isOpen := true, ceil := 5 })] }

/-- At stamp 1,000 the limit has come. -/
def state : State := State.setCore { State.reset with clk := { cycles := 1000, edgeAt := 1000 } } 0 core

theorem offered : state.offered 0 = true := by decide +kernel

theorem blockValid : (state.core 0).blockValid (state.core 0).next = true := by decide +kernel

theorem expired_isSome : ((state.core 0).expired (state.core 0).nextOp state.coreNow).isSome = true := by decide +kernel

theorem unfaulted : (state.core 0).nextOp.waits.findSome? ((state.core 0).waitFault (state.core 0).nextOp.addr) = none := by decide +kernel

theorem legality_ok : ∃ l, legality (planFor (state.core 0).nextOp) (state.look 0) 0 (state.core 0).nextOp = .ok l := by
  have passes : (legality (planFor (state.core 0).nextOp) (state.look 0) 0 (state.core 0).nextOp).isOk = true := by decide +kernel
  cases hlegal : legality (planFor (state.core 0).nextOp) (state.look 0) 0 (state.core 0).nextOp with
  | ok l => exact ⟨l, rfl⟩
  | error e => rw [hlegal] at passes; cases passes

theorem illDue : (state.core 0).illDue = false := by decide +kernel

theorem unnoted : (state.core 0).legalBlk = none := by decide +kernel

end ExpiredWait

open ExpiredWait in
/-- Refutes O13: a state may hold a legal op as due whose checks the station has not noted (`legalBlk`). As its wait expires they are noted
before the core faults, so that the state is not the look's state with the fault alone. That every expired wait faults its core is
`leads_waitTimeout`; where the checks have been noted before, all that O13 says of a timeout holds, by `leads_waitTimeout_of_noted`. -/
theorem not_stationEvents : ¬ Obligations.StationEvents := by
  intro holds
  obtain ⟨⟨w, i⟩, hexpired⟩ := Option.isSome_iff_exists.mp expired_isSome
  obtain ⟨l, hlegal⟩ := legality_ok
  obtain ⟨timeout, -⟩ := holds state 0
  obtain ⟨t, next, -, -, claimed⟩ := timeout w i offered blockValid hexpired
  obtain ⟨u, next', -, -, actual⟩ := leads_waitTimeout offered blockValid hexpired
  obtain rfl : t = u := by injection next.symm.trans next'
  exact State.coreFault_noteLegal_ne unnoted _ _ (((actual unfaulted).2 illDue l hlegal).symm.trans (claimed unfaulted (.inr ⟨l, hlegal⟩)))

end Sys2Proof.Machine
end

section
/-!
# Row ops as they issue (spec/04 R108, R111, R112)

What issues is what an op's plan gives; what an op that changes the stockpot alone leaves; the rows that it finds open, or opens.
-/
namespace Sys2Proof.Machine

/-! ## What an op needs of its rows as it issues -/

/-- A check that is made under a condition passes where the condition holds. -/
theorem gives_when_eq {α : Type} {P : α → Prop} {p : Prop} [Decidable p] {x : Check Unit} {f : Unit → Check α}
    (h : (p → x = .ok ()) → Gives (f ()) P) : Gives (if p then x >>= f else f ()) P := by
  split
  case isTrue yes => exact gives_bind_eq fun _ passed => h fun _ => passed
  case isFalse no => exact h fun yes => absurd yes no

/-- Rows that pass the check of R112 are open in the mode it asks for. -/
theorem mode_of_rowsOpenIn {k : Core} {o : Op} {r0 n mode fmt : Nat} (h : rowsOpenIn k o r0 n mode fmt = .ok ()) {r : Nat} (hr : r < n) :
    (k.row (r0 + r)).mode = mode := by
  unfold rowsOpenIn at h
  split at h
  case h_1 => nomatch h
  case h_2 none =>
    have open_ := List.find?_eq_none.mp none r (List.mem_range.mpr hr)
    simp only [Bool.not_eq_true', Bool.not_eq_false, Bool.and_eq_true, beq_iff_eq] at open_
    exact open_.1.2

/-- Rows opened one after the other, whose L rests on the scratchpad alone. -/
theorem Core.foldl_openRow {l : Core → Nat → Nat → Int} (same : ∀ x y : Core, y.scratch = x.scratch → l y = l x) (k : Core)
    (r0 n mode fmt opAddr unit : Nat) :
    (List.range n).foldl (fun k i => k.openRow (r0 + i) mode fmt opAddr unit (l k i)) k = k.openRows r0 n mode fmt opAddr unit (l k) := by
  induction n with
  | zero => simp only [Core.openRows, List.range_zero, List.foldl_nil]
  | succ n ih =>
    rw [List.range_succ, List.foldl_append, ih, Core.openRows_succ, List.foldl_cons, List.foldl_nil,
      same k _ (Core.scratch_openRows ..)]

theorem flatMap_filter {α β : Type} (p : α → Bool) (f : α → List β) (l : List α) :
    (l.filter p).flatMap f = l.flatMap fun x => if p x then f x else [] := by
  induction l with
  | nil => rfl
  | cons x l ih =>
    rw [List.filter_cons, List.flatMap_cons, ← ih]
    split <;> rfl

/-- A core with its rows opened, where an op opens them. -/
def Core.openedIf (k : Core) (isOpen : Bool) (r0 n mode fmt opAddr unit : Nat) (l : Nat → Nat → Int) : Core :=
  if isOpen then k.openRows r0 n mode fmt opAddr unit l else k

/-- The byte at an address rests on the scratchpad alone. -/
theorem Core.byte_congr {x y : Core} (h : y.scratch = x.scratch) : Core.byte y = Core.byte x := by
  funext a
  rw [Core.byte, Core.byte, h]

theorem Desc.planeByte_congr {x y : Core} (h : y.scratch = x.scratch) (d : Desc) : d.planeByte y = d.planeByte x := by
  funext m r b
  simp only [Desc.planeByte, Core.byte_congr h]

theorem Desc.panelByte_congr {x y : Core} (h : y.scratch = x.scratch) (d : Desc) : d.panelByte y = d.panelByte x := by
  funext m nb n b
  simp only [Desc.panelByte, Core.byte_congr h]

/-- `t` is `k` with another stockpot, and other status bits. -/
def Core.StockEffect (k t : Core) : Prop := t = { k with stock := t.stock, rows := t.rows, arith := t.arith }

section
variable {k m t : Core} {p : Nat → Nat → List Dec}

theorem Core.StockEffect.scratch (h : k.StockEffect t) : t.scratch = k.scratch := by rw [h]
theorem Core.StockEffect.cnts (h : k.StockEffect t) : t.cnts = k.cnts := by rw [h]
theorem Core.StockEffect.shape (h : k.StockEffect t) : t.shape = k.shape := by rw [h]
theorem Core.StockEffect.trans (h : k.StockEffect m) (h' : m.StockEffect t) : k.StockEffect t := by
  unfold Core.StockEffect at *
  rw [h', h]

theorem Core.Adds.stockEffect (h : k.Adds t p) : k.StockEffect t := by
  unfold Core.StockEffect
  rw [h.1]

end

/-- An op that puts a core in place of its own leaves the rest, if it leaves the counters and the shape. -/
theorem State.RowOp.setCore {s t : State} {c : Nat} (h : s.RowOp t c) {k : Core} (hcnts : k.cnts = (t.core c).cnts)
    (hshape : k.shape = (t.core c).shape) : s.RowOp (t.setCore c k) c := by
  obtain ⟨others, cnts, shape, xfers, sigs, mem⟩ := h
  refine ⟨fun d hd => ?_, ?_, ?_, xfers, sigs, mem⟩
  · rw [State.core_setCore, if_neg hd.symm]; exact others d hd
  · rw [State.core_setCore, if_pos rfl, hcnts]; exact cnts
  · rw [State.core_setCore, if_pos rfl, hshape]; exact shape

section
variable {s : State} {c : Nat} {i : Issue} (h : s.dueIssue c = some i)
include h

/-- What issues is what the op's plan gives. -/
theorem State.gives_dueIssue {plan : PlanFn} (hplan : planFor (s.core c).nextOp = plan) {P : Issue → Prop}
    (given : Gives (plan (s.look c) c (s.core c).nextOp) fun l => Gives l.go P) : P i := by
  obtain ⟨-, l, hlegal, -, hgo, -⟩ := State.dueIssue_spec h
  have made := gives_legality _ _ _ _ _ hlegal
  rw [hplan] at made
  exact given l made i hgo

/-- A command of an op's kind issues it, with the effect of its plan. -/
theorem issueRow_effect {mnemonic : String} {mine : Op → Bool} {plan : PlanFn} (hmine : mine (s.core c).nextOp = true)
    (hplan : planFor (s.core c).nextOp = plan) :
    issueRow mnemonic mine plan c s = .next (i.effect (s.look c).nextId ((s.look c).ahead c (s.core c).nextOp i)) := by
  rw [← State.issue_eq_effect]
  exact issueRow_of_dueIssue h hmine hplan

end

/-! ## What an op adds to the rows that it finds open, or opens -/

section
variable (k : Core) (isOpen : Bool) (r0 n mode fmt opAddr unit : Nat) (l : Nat → Nat → Int)

theorem Core.stockEffect_openedIf : k.StockEffect (k.openedIf isOpen r0 n mode fmt opAddr unit l) := by
  unfold Core.openedIf Core.StockEffect
  split
  · rw [Core.openRows_eq]
  · rfl

@[simp] theorem Core.scratch_openedIf : (k.openedIf isOpen r0 n mode fmt opAddr unit l).scratch = k.scratch :=
  (k.stockEffect_openedIf ..).scratch

theorem Core.sameRows_openedIf : k.sameRows (k.openedIf isOpen r0 n mode fmt opAddr unit l) r0 n := by
  unfold Core.openedIf
  split
  · exact k.sameRows_openRows _ _ _ _ _ _ _
  · exact fun _ _ => ⟨rfl, fun _ _ => rfl⟩

theorem Core.row_openedIf {r : Nat} (hr : r < n) : (k.openedIf isOpen r0 n mode fmt opAddr unit l).row (r0 + r) =
    if isOpen then ⟨true, mode, fmt, opAddr, unit⟩ else k.row (r0 + r) := by
  unfold Core.openedIf
  split
  · exact (Core.row_openRows ..).trans (if_pos (by omega))
  · rfl

theorem Core.elem_openedIf {r j : Nat} (hr : r < n) (hj : j < 128) : (k.openedIf isOpen r0 n mode fmt opAddr unit l).elem (r0 + r) j =
    if isOpen then openElem (l r j) else k.elem (r0 + r) j := by
  unfold Core.openedIf
  split
  · rw [Core.elem_openRows _ _ _ _ _ _ _ _ _ hj, if_pos (by omega), Nat.add_sub_cancel_left]
  · rfl

/-- An op that opens rows, or finds them open, and adds products to them: what it leaves of the state before its issue. -/
theorem State.StoresKept.addRows {s t : State} {c : Nat} (h : s.StoresKept t c) {u : Core} {p : Nat → Nat → List Dec}
    (added : ((t.core c).openedIf isOpen r0 n mode fmt opAddr unit l).Adds u p)
    (others : ∀ r j, r < r0 ∨ r0 + n ≤ r → p r j = []) :
    let v := t.setCore c u
    s.RowOp v c ∧ (v.core c).scratch = (s.core c).scratch ∧ (s.core c).sameRows (v.core c) r0 n ∧
      (∀ r j, r < n → j < 128 → (v.core c).elem (r0 + r) j =
        (p (r0 + r) j).foldl addProduct (if isOpen then openElem (l r j) else (s.core c).elem (r0 + r) j)) ∧
      (∀ r, r < n → (v.core c).row (r0 + r) = if isOpen then ⟨true, mode, fmt, opAddr, unit⟩ else (s.core c).row (r0 + r)) := by
  intro v
  have effect := ((t.core c).stockEffect_openedIf isOpen r0 n mode fmt opAddr unit l).trans added.stockEffect
  have core : v.core c = u := (State.core_setCore ..).trans (if_pos rfl)
  have row (r : Nat) : (t.core c).row r = (s.core c).row r := Core.row_congr h.rows r
  have elem (r j : Nat) : (t.core c).elem r j = (s.core c).elem r j := Core.elem_congr h.stock r j
  refine ⟨h.rowOp.setCore effect.cnts effect.shape, ?_, fun r hr => ?_, fun r j hr hj => ?_, fun r hr => ?_⟩
  all_goals rw [core]
  · exact effect.scratch.trans h.scratch
  · obtain ⟨sameRow, sameElem⟩ := (t.core c).sameRows_openedIf isOpen r0 n mode fmt opAddr unit l r hr
    refine ⟨(added.row r).trans (sameRow.trans (row r)), fun j hj => ?_⟩
    rw [added.2 r j hj, others r j hr, List.foldl_nil, sameElem j hj, elem]
  · rw [added.2 _ j hj, Core.elem_openedIf _ _ _ _ _ _ _ _ _ hr hj, elem]
  · rw [added.row, Core.row_openedIf _ _ _ _ _ _ _ _ _ hr, row]

end

end Sys2Proof.Machine
end

section
/-!
# MATMUL (spec/07 R180 to R182, spec/04 R108)

The rows it opens, the products of its passes, and its issue.
-/
namespace Sys2Proof.Machine

theorem Fmt.kp_pos (f : Fmt) : 0 < f.kp := by cases f <;> decide

/-! ## Its fields -/

/-- What a MATMUL works with: its tensors and fields, over the run-time extents (R178, R180). -/
structure MatmulArgs where
  a : Desc
  w : Desc
  srow : Nat
  mc : Nat
  k0 : Nat
  ko : Nat
  kred : Nat
  n : Nat
  kEnd : Nat
  rt : List Nat
  isOpen : Bool
  opAddr : Nat

/-- The arguments of a MATMUL that names two tensors. -/
def Core.matmulArgs (k : Core) (o : Op) (a w : Desc) : MatmulArgs :=
  ⟨a, w, o.fld 9 0, o.fld 20 10, o.fld 52 29, o.fld 76 53, o.fld 108 77, min (o.fld 28 21) (dim (k.rt w) 0),
    min (o.fld 52 29 + o.fld 76 53) (dim (k.rt a) 0), k.rt a, bit o.var 0, o.addr⟩

namespace MatmulArgs

variable (m : MatmulArgs)

/-- The mode its rows accumulate in. -/
def mode : AccMode := accModeOf m.a.fmt m.a.scaleV

/-- Is a row of its residency a row of A within the run-time extents? -/
def live (r : Nat) : Bool := decide (r < m.a.rows) && rowLive m.a m.rt (m.a.rowIdx r)

/-- The rows that take products. -/
def liveRows : List Nat := (List.range m.mc).filter m.live

/-- Does it do nothing (spec/10 R257)? -/
def masked : Bool := m.liveRows.isEmpty || decide (m.n = 0) || decide (m.kEnd ≤ m.k0)

/-- The L of an element that it opens: free beyond the rows of A (n4). -/
def openL (k : Core) (r j : Nat) : Int :=
  if m.mode != .exact && decide (m.a.rows ≤ r) then (Config.unusedL (128 * (m.srow + r) + j)).toInt
  else Machine.openL m.a.fmt m.mode (ceilDiv m.kred m.mode.block) (m.a.planeByte k m.mode r)
    (m.w.panelByte k m.mode (ceilDiv m.kred m.mode.block) j)

/-- The core with its rows opened, where it opens them. -/
def opened (k : Core) : Core := k.openedIf m.isOpen m.srow m.mc m.mode.code m.a.fmt.code m.opAddr 0 (m.openL k)

/-- Its steps: pass and row (R108). -/
def steps : List (Nat × Nat) := (List.range (ceilDiv m.ko m.a.fmt.kp)).flatMap fun p => m.liveRows.map fun r => (p, r)

/-- The K indices of a pass. -/
def pass (p : Nat) : List Nat := span (m.k0 + p * m.a.fmt.kp) (min (m.k0 + p * m.a.fmt.kp + m.a.fmt.kp) m.kEnd)

/-- The element of a row of A at a K index. -/
def act (k : Core) (r kk : Nat) : Dec × Arith := m.a.elem k.scratch (m.a.rowIdx r) kk

/-- The element of a column of the panel at a K index. -/
def col (k : Core) (j kk : Nat) : Dec × Arith := m.w.panel k.scratch kk j

/-- One pass of one row. -/
def step (k : Core) (pr : Nat × Nat) : Except CFault Core :=
  k.addTerms m.opAddr (m.srow + pr.2) pr.2 m.n (m.pass pr.1) (m.act k pr.2) fun kk j => m.col k j kk

/-- What it does as it issues; `at_` gives the cycle of a step. -/
def enter (at_ : State → Nat × Nat → Nat) (c : Nat) (s : State) : State :=
  if m.masked then s else s.setCore c (runSteps (at_ s) m.step (m.opened (s.core c)) m.steps)

/-! ## Its rows as it opens them -/

/-- An element of its rows before its products: opened, or as it stands. -/
def start (k : Core) (r j : Nat) : Elem := if m.isOpen then openElem (m.openL k r j) else k.elem (m.srow + r) j

theorem openL_congr {x y : Core} (h : y.scratch = x.scratch) : m.openL y = m.openL x := by
  funext r j
  simp only [openL, Desc.planeByte_congr h, Desc.panelByte_congr h]

/-- The rows as its plan opens them, one after the other. -/
theorem opened_eq_foldl (k : Core) : m.opened k =
    if !m.isOpen then k else (List.range m.mc).foldl (fun k r =>
      k.openRow (m.srow + r) m.mode.code m.a.fmt.code m.opAddr 0 fun j => m.openL k r j) k := by
  rw [opened, Core.openedIf, ← Core.foldl_openRow fun _ _ => m.openL_congr]
  cases m.isOpen <;> rfl

/-! ## Its products -/

/-- The products of one step, element by element. -/
def stepTerms (k : Core) (pr : Nat × Nat) (r j : Nat) : List Dec :=
  if r = m.srow + pr.2 ∧ j < m.n then products (m.pass pr.1) (m.act k pr.2) (m.col k j) else []

/-- The products of the whole op, element by element. -/
def terms (k : Core) (r j : Nat) : List Dec := m.steps.flatMap fun pr => m.stepTerms k pr r j

/-- The K indices whose products an element takes. -/
def indices (r j : Nat) : List Nat := if m.live r && decide (j < m.n) then span m.k0 m.kEnd else []

theorem mem_liveRows {r : Nat} : r ∈ m.liveRows ↔ r < m.mc ∧ m.live r = true := by
  rw [liveRows, List.mem_filter, List.mem_range]

theorem mem_steps {pr : Nat × Nat} (h : pr ∈ m.steps) : pr.2 < m.mc ∧ m.live pr.2 = true := by
  obtain ⟨p, -, hpr⟩ := List.mem_flatMap.mp h
  obtain ⟨r, hr, rfl⟩ := List.mem_map.mp hpr
  exact m.mem_liveRows.mp hr

theorem pass_subset {p kk : Nat} (h : kk ∈ m.pass p) : kk ∈ span m.k0 m.kEnd := by
  rw [pass, mem_span] at h
  rw [mem_span]
  omega

/-- The passes together take every K index once. -/
theorem flatMap_pass (h : m.kEnd ≤ m.k0 + m.ko) :
    (List.range (ceilDiv m.ko m.a.fmt.kp)).flatMap m.pass = span m.k0 m.kEnd := by
  have whole := le_ceilDiv_mul m.ko m.a.fmt.kp_pos
  calc (List.range (ceilDiv m.ko m.a.fmt.kp)).flatMap m.pass
      = span m.k0 (min (m.k0 + ceilDiv m.ko m.a.fmt.kp * m.a.fmt.kp) m.kEnd) := flatMap_span ..
    _ = span m.k0 m.kEnd := by rw [Nat.min_eq_right (by omega)]

/-- A row outside its own takes no product. -/
theorem terms_of_other (k : Core) {r : Nat} (hr : r < m.srow ∨ m.srow + m.mc ≤ r) (j : Nat) : m.terms k r j = [] := by
  refine List.flatMap_eq_nil_iff.mpr fun pr hpr => if_neg fun here => ?_
  have := (m.mem_steps hpr).1
  omega

/-- An element of its rows takes the products of a row of A and a column of the panel, over the K indices that the op names. -/
theorem terms_of_own (h : m.kEnd ≤ m.k0 + m.ko) (k : Core) {r : Nat} (hr : r < m.mc) (j : Nat) :
    m.terms k (m.srow + r) j = products (m.indices r j) (m.act k r) (m.col k j) := by
  have onePass (p : Nat) : (m.liveRows.flatMap fun r' => m.stepTerms k (p, r') (m.srow + r) j) =
      if m.live r && decide (j < m.n) then products (m.pass p) (m.act k r) (m.col k j) else [] := by
    rw [liveRows, flatMap_filter, flatMap_range_eq hr]
    · cases m.live r <;> simp [stepTerms]
    · intro r' _ other
      simp only [stepTerms, Nat.add_left_cancel_iff, Ne.symm other, false_and, if_false, ite_self]
  calc m.terms k (m.srow + r) j
      = (List.range (ceilDiv m.ko m.a.fmt.kp)).flatMap fun p =>
          if m.live r && decide (j < m.n) then products (m.pass p) (m.act k r) (m.col k j) else [] := by
        simp only [terms, steps, List.flatMap_assoc, List.flatMap_map, onePass]
    _ = products (m.indices r j) (m.act k r) (m.col k j) := by
        unfold indices
        split
        · rw [← m.flatMap_pass h, products, List.map_flatMap]
          rfl
        · exact List.flatMap_eq_nil_iff.mpr fun _ _ => rfl

section
variable {m} {x k : Core} (scratch : k.scratch = x.scratch) (hn : m.n ≤ 128)
  (mode : ∀ r, r < m.mc → (k.row (m.srow + r)).mode = m.mode.code)
  (safe : ∀ r j, r < m.mc → j < 128 → keepsAnchor m.mode (k.elem (m.srow + r) j) (m.indices r j) (m.act x r) (m.col x j))
include scratch hn mode safe

/-- One step, where products have been added before it. -/
theorem adds_step {t : Core} {q : Nat → Nat → List Dec} (before : k.Adds t q) {pr : Nat × Nat} (hpr : pr ∈ m.steps) :
    ∃ t', m.step t pr = .ok t' ∧ t.Adds t' (m.stepTerms x pr) := by
  obtain ⟨hr, live⟩ := m.mem_steps hpr
  have same : t.scratch = x.scratch := before.scratch.trans scratch
  have act (r : Nat) : m.act t r = m.act x r := by
    funext kk
    rw [MatmulArgs.act, MatmulArgs.act, same]
  have col (j : Nat) : m.col t j = m.col x j := by
    funext kk
    rw [MatmulArgs.col, MatmulArgs.col, same]
  have anchors (j : Nat) (hj : j < m.n) :
      keepsAnchor m.mode (t.elem (m.srow + pr.2) j) (m.pass pr.1) (m.act t pr.2) (m.col t j) := by
    have named : m.indices pr.2 j = span m.k0 m.kEnd := if_pos (by simp [live, hj])
    intro kk hkk
    rw [before.elem_l (by omega), act, col]
    exact safe pr.2 j hr (by omega) kk (named ▸ m.pass_subset hkk)
  obtain ⟨t', done, added⟩ := Core.adds_addTerms (opAddr := m.opAddr) (recRow := pr.2) (w := fun kk j => m.col t j kk)
    ((congrArg StockRow.mode (before.row _)).trans (mode _ hr)) hn anchors
  refine ⟨t', done, added.congr fun r j => ?_⟩
  simp only [stepTerms, act, col]

/-- All its steps. -/
theorem adds_steps : ∃ t, m.steps.foldlM m.step k = .ok t ∧ k.Adds t (m.terms x) :=
  have step (pr : Nat × Nat) (hpr : pr ∈ m.steps) (t : Core) (q : Nat → Nat → List Dec) (before : k.Adds t q) :
      ∃ t', m.step t pr = .ok t' ∧ t.Adds t' (m.stepTerms x pr) := adds_step scratch hn mode safe before hpr
  Core.Adds.foldlM _ step (.refl k)

end

end MatmulArgs

/-! ## Its issue -/

/-- What the plan of a MATMUL gives. -/
theorem gives_matmul (s : State) (c : Nat) (o : Op) {a w : Desc} (hrefs : (s.core c).refs o 2 [] = .ok [a, w]) :
    Gives (planMatmul s c o) fun l => Gives l.go fun i =>
      let k := s.core c
      let m := k.matmulArgs o a w
      (∃ at_, ∀ id t, i.effect id t = m.enter at_ c t) ∧ m.n ≤ 128 ∧
        (m.isOpen = false → m.masked = false → ∀ r, r < m.mc → (k.row (m.srow + r)).mode = m.mode.code) := by
  unfold planMatmul
  refine gives_bind_eq fun ds same => ?_
  obtain rfl := Except.ok.inj (hrefs.symm.trans same)
  refine gives_bind fun _ => gives_need fun _ => gives_need fun _ => gives_need fun bounds => ?_
  repeat refine gives_bind fun _ => ?_
  refine gives_legal ?_
  repeat refine gives_bind fun _ => ?_
  refine gives_when_eq fun rows => gives_ok ⟨⟨?at_, fun id t => ?effect⟩, ?columns, fun hclosed hlive r hr => ?rows⟩
  case effect =>
    rw [MatmulArgs.enter, MatmulArgs.opened_eq_foldl]
    rfl
  case columns =>
    rw [Bool.and_eq_true, decide_eq_true_eq, decide_eq_true_eq] at bounds
    exact (Nat.min_le_left ..).trans bounds.2
  case rows =>
    refine mode_of_rowsOpenIn (rows ?_) hr
    exact (Bool.and_eq_true ..).mpr ⟨(Bool.not_eq_true' _).mpr hclosed, (Bool.not_eq_true' _).mpr hlive⟩

namespace MatmulArgs

variable (m : MatmulArgs)

theorem masked_iff : m.masked = true ↔ (∀ r, r < m.mc → m.live r = false) ∨ m.n = 0 ∨ m.kEnd ≤ m.k0 := by
  have rows : m.liveRows = [] ↔ ∀ r, r < m.mc → m.live r = false := by
    simp [liveRows, List.filter_eq_nil_iff]
  simp only [masked, Bool.or_eq_true, List.isEmpty_iff, decide_eq_true_eq, rows, or_assoc]

section
variable {s t : State} {c : Nat} (h : s.StoresKept t c) (at_ : State → Nat × Nat → Nat)
include h

/-- What a MATMUL leaves as it issues, where no product breaches an anchor. -/
theorem enter_spec (live : m.masked = false) (hkEnd : m.kEnd ≤ m.k0 + m.ko) (hn : m.n ≤ 128)
    (hmode : m.isOpen = false → ∀ r, r < m.mc → ((s.core c).row (m.srow + r)).mode = m.mode.code)
    (safe : ∀ r j, r < m.mc → j < 128 →
      keepsAnchor m.mode (m.start (s.core c) r j) (m.indices r j) (m.act (s.core c) r) (m.col (s.core c) j)) :
    let k := s.core c
    let u := m.enter at_ c t
    s.RowOp u c ∧ (u.core c).scratch = k.scratch ∧ k.sameRows (u.core c) m.srow m.mc ∧
      (∀ r j, r < m.mc → j < 128 → (u.core c).elem (m.srow + r) j = sumOf (m.start k r j) (m.indices r j) (m.act k r) (m.col k j)) ∧
      (∀ r, r < m.mc → (u.core c).row (m.srow + r) =
        if m.isOpen then ⟨true, m.mode.code, m.a.fmt.code, m.opAddr, 0⟩ else k.row (m.srow + r)) := by
  intro k u
  have mode (r : Nat) (hr : r < m.mc) : ((m.opened (t.core c)).row (m.srow + r)).mode = m.mode.code := by
    rw [opened, Core.row_openedIf _ _ _ _ _ _ _ _ _ hr]
    cases hopen : m.isOpen
    · exact (congrArg StockRow.mode (Core.row_congr h.rows _)).trans (hmode hopen r hr)
    · rfl
  have start (r j : Nat) (hr : r < m.mc) (hj : j < 128) : (m.opened (t.core c)).elem (m.srow + r) j = m.start k r j := by
    rw [opened, Core.elem_openedIf _ _ _ _ _ _ _ _ _ hr hj, m.openL_congr h.scratch, Core.elem_congr h.stock]
    rfl
  obtain ⟨v, done, added⟩ := adds_steps (k := m.opened (t.core c)) (x := k) ((Core.scratch_openedIf ..).trans h.scratch) hn mode
    fun r j hr hj => by rw [start r j hr hj]; exact safe r j hr hj
  have entered : u = t.setCore c v := by
    simp only [u, enter, live, Bool.false_eq_true, if_false, runSteps_of_foldlM _ done]
  obtain ⟨rowOp, scratch, same, sums, rows⟩ := h.addRows _ _ _ _ _ _ _ _ added fun r j hr => m.terms_of_other k hr j
  rw [entered]
  refine ⟨rowOp, scratch, same, fun r j hr hj => (sums r j hr hj).trans ?_, rows⟩
  rw [m.terms_of_own hkEnd k hr, m.openL_congr h.scratch, sumOf_eq_products]
  rfl

end
end MatmulArgs

theorem planFor_matmul {o : Op} (h : o.opc = 0x01) : planFor o = planMatmul := by simp only [planFor, h]

/-- Settles O14: the issue by `gives_matmul`, the rows and products by `MatmulArgs.enter_spec`. -/
theorem matmulSums : Obligations.MatmulSums := by
  intro s c i a w h k o hopc hrefs srow mc k0 mode nb n kEnd live ks x y start masked
  let m := k.matmulArgs o a w
  have look := s.core_look c
  have given := State.gives_dueIssue h (planFor_matmul hopc)
    (gives_matmul (s.look c) c o (by rw [look, Core.refs_looked]; exact hrefs))
  rw [look] at given
  obtain ⟨⟨at_, effect⟩, hn, hmode⟩ : (∃ at_, ∀ id t, i.effect id t = m.enter at_ c t) ∧ m.n ≤ 128 ∧
    (m.isOpen = false → m.masked = false → ∀ r, r < m.mc → (k.row (m.srow + r)).mode = m.mode.code) := given
  have issued := issueRow_effect h (mnemonic := "MATMUL") (mine := isOpc 0x01) (beq_iff_eq.mpr hopc) (planFor_matmul hopc)
  rw [effect] at issued
  have kept := s.storesKept_ahead c i
  refine ⟨fun isMasked => ⟨_, issued, ?_⟩, fun isLive safe => ⟨_, issued, ?_⟩⟩
  · rw [MatmulArgs.enter, if_pos (m.masked_iff.mpr isMasked)]
    exact ⟨kept.rowOp, kept.scratch, kept.stock, kept.rows⟩
  · have unmasked : m.masked = false := Bool.eq_false_iff.mpr fun yes => isLive (m.masked_iff.mp yes)
    have opens (r j : Nat) : m.start (s.core c) r j = start r j := by
      simp [MatmulArgs.start, MatmulArgs.openL, start, m, Core.matmulArgs, MatmulArgs.mode, mode, nb, srow, k]
    obtain ⟨rowOp, scratch, same, sums, opened⟩ := m.enter_spec kept at_ unmasked (Nat.min_le_left ..) hn
      (fun hclosed => hmode hclosed unmasked) fun r j hr hj => (opens r j).symm ▸ safe r j hr hj
    exact ⟨rowOp, scratch, same, fun r j hr hj => (sums r j hr hj).trans (congrArg (sumOf · _ _ _) (opens r j)), opened⟩

end Sys2Proof.Machine
end

section
/-!
# ROWSUM and ROWSQ (spec/07 R195)

The beats of a row, the rows that an op opens, and the sums.
-/
namespace Sys2Proof.Machine

/-! ## The beats of a row -/

/-- Pieces that a list of sizes cuts a row into, each as the span of its elements, cut off at `n`. -/
theorem flatMap_foldl_pieces {per : Nat → Nat} (mono : ∀ a b, per a ≤ per (a + b)) {n nc : Nat} (hn : n ≤ nc) (sizes : List Nat) :
    ∀ (l : List (Nat × Nat)) (a : Nat),
      (sizes.foldl (fun (t : List (Nat × Nat) × Nat) b => (t.1 ++ [(per t.2, min nc (per (t.2 + b)))], t.2 + b)) (l, a)).1.flatMap
          (fun e => span e.1 (min e.2 n)) =
        (l.flatMap fun e => span e.1 (min e.2 n)) ++ span (per a) (min (per (a + sizes.sum)) n) := by
  induction sizes with
  | nil =>
    intro l a
    have empty : span (per a) (min (per a) n) = [] := by rw [span, Nat.sub_eq_zero_of_le (Nat.min_le_left ..)]; rfl
    rw [List.foldl_nil, List.sum_nil, Nat.add_zero, empty, List.append_nil]
  | cons b bs ih =>
    intro l a
    have cut : min (min nc (per (a + b))) n = min (per (a + b)) n := by omega
    rw [List.foldl_cons, ih, List.flatMap_append, List.flatMap_singleton, List.append_assoc, List.sum_cons, ← Nat.add_assoc, cut,
      span_append (mono a b) (mono (a + b) bs.sum)]

theorem Fmt.width_pos (f : Fmt) : 0 < f.width := by cases f <;> decide

theorem span_zero (n : Nat) : span 0 n = List.range n := by simp [span]

/-- The beats of a row take each of its first `n` elements once, in order (R195). -/
theorem Desc.flatMap_lineElems (d : Desc) (o : List Nat) {n nc : Nat} (hn : n ≤ nc) :
    ((d.lineElems o nc).flatMap fun e => Machine.span e.1 (min e.2 n)) = List.range n := by
  have mono (a b : Nat) : a * 8 / d.fmt.width ≤ (a + b) * 8 / d.fmt.width :=
    Nat.div_le_div_right (Nat.mul_le_mul_right _ (Nat.le_add_right ..))
  have whole : nc ≤ d.fmt.bytes nc * 8 / d.fmt.width := by
    rw [Nat.le_div_iff_mul_le d.fmt.width_pos, Fmt.bytes]
    omega
  have pieces := flatMap_foldl_pieces (per := fun b => b * 8 / d.fmt.width) mono hn (lineSegs (d.rowAddr o) (d.fmt.bytes nc)) [] 0
  rw [sum_lineSegs, Nat.zero_add, Nat.min_eq_right (hn.trans whole)] at pieces
  refine pieces.trans ?_
  rw [List.flatMap_nil, List.nil_append, Nat.zero_mul, Nat.zero_div, span_zero]

/-- A beat that begins at or beyond the last element takes none. -/
theorem span_eq_nil {lo hi n : Nat} (h : n ≤ lo) : span lo (min hi n) = [] := by
  rw [span, Nat.sub_eq_zero_of_le ((Nat.min_le_right ..).trans h)]
  rfl

/-! ## Its fields -/

/-- What a ROWSUM or ROWSQ works with (R178, R195). -/
structure RowSumArgs where
  d : Desc
  srow : Nat
  mrc : Nat
  nc : Nat
  rt : List Nat
  sq : Bool
  isOpen : Bool
  opAddr : Nat

/-- The arguments of a ROWSUM, or of a ROWSQ, that names a tensor. -/
def Core.rowSumArgs (k : Core) (o : Op) (sq : Bool) (d : Desc) : RowSumArgs :=
  ⟨d, o.fld 9 0, o.fld 27 10, o.fld 51 28, k.rt d, sq, bit o.var 3, o.addr⟩

namespace RowSumArgs

variable (m : RowSumArgs)

/-- The mode its rows accumulate in. -/
def mode : AccMode := accModeOf m.d.fmt false

/-- The rows of the stockpot that it uses. -/
def nr : Nat := ceilDiv m.mrc 128

/-- The elements of a row that it adds. -/
def n : Nat := min m.nc (dim m.rt 0)

/-- Is a row of the tensor within the extents? -/
def live (r : Nat) : Bool := decide (r < min m.mrc m.d.rows) && rowLive m.d m.rt (m.d.rowIdx r)

/-- Does it do nothing (spec/10 R257)? -/
def masked : Bool := ((m.rt.take m.d.rank).drop 1).any (· == 0)

/-- The elements of a row. -/
def elems (k : Core) (r j : Nat) : Dec × Arith := m.d.elem k.scratch (m.d.rowIdx r) j

/-- What they are multiplied by: 1, or themselves. -/
def factors (k : Core) (r j : Nat) : Dec × Arith := if m.sq then m.elems k r j else (oneDec, {})

/-- The L of an element that it opens: free where the tensor has no such row (n4). -/
def openL (k : Core) (r : Nat) : Int :=
  if m.mode = .anchored ∧ min m.mrc m.d.rows ≤ r then (Config.unusedL (128 * m.srow + r)).toInt
  else Machine.openL m.d.fmt m.mode (ceilDiv m.nc 64) (m.d.planeByte k m.mode r)
    (if m.sq then m.d.planeByte k m.mode r else fun _ => tagOne m.d.fmt)

/-- The core with its rows opened, where it opens them. -/
def opened (k : Core) : Core :=
  k.openedIf m.isOpen m.srow m.nr m.mode.code m.d.fmt.code m.opAddr 1 fun q j => m.openL k (128 * q + j)

/-- Its beats: a row of the tensor, the first element, and the one after the last. -/
def beats : List (Nat × Nat × Nat) := (List.range m.mrc).flatMap fun r =>
  (m.d.lineElems (unrankFar ((m.d.ext.take m.d.rank).drop 1) r) m.nc).map fun e => (r, e)

/-- Does a beat have an element to add? -/
def adds (b : Nat × Nat × Nat) : Bool := decide (b.1 < m.d.rows) && rowLive m.d m.rt (m.d.rowIdx b.1) && decide (b.2.1 < m.n)

/-- Its steps: a beat with its place. -/
def steps : List ((Nat × Nat × Nat) × Nat) := (m.beats.zip (List.range m.beats.length)).filter fun x => m.adds x.1

/-- One beat. -/
def step (k : Core) (x : (Nat × Nat × Nat) × Nat) : Except CFault Core :=
  rowBeat m.opAddr m.srow m.sq m.mode m.d k x.1.1 x.1.2.1 (min x.1.2.2 m.n)

/-- What it does as it issues; `at_` gives the cycle of a step. -/
def enter (at_ : State → (Nat × Nat × Nat) × Nat → Nat) (c : Nat) (s : State) : State :=
  if m.masked then s else s.setCore c (runSteps (at_ s) m.step (m.opened (s.core c)) m.steps)

/-! ## Its rows as it opens them -/

/-- An element of its rows before its products: opened, or as it stands. -/
def start (k : Core) (r : Nat) : Elem := if m.isOpen then openElem (m.openL k r) else k.elem (m.srow + r / 128) (r % 128)

theorem openL_congr {x y : Core} (h : y.scratch = x.scratch) : m.openL y = m.openL x := by
  funext r
  simp only [openL, Desc.planeByte_congr h]

/-- The L as its plan gives it, case by case of the mode: a tensor without block scales has no scaled mode (R61). -/
theorem openL_eq (k : Core) (q j : Nat) : m.openL k (128 * q + j) =
    if m.mode = .anchored then
      if 128 * q + j < min m.mrc m.d.rows then
        anchoredL m.d.fmt (anchorOf (ceilDiv m.nc 64) (m.d.planeByte k m.mode (128 * q + j))
          (if m.sq then m.d.planeByte k m.mode (128 * q + j) else fun _ => tagOne m.d.fmt))
      else (Config.unusedL (128 * (m.srow + q) + j)).toInt
    else exactL m.d.fmt := by
  have place : 128 * m.srow + (128 * q + j) = 128 * (m.srow + q) + j := by omega
  rw [openL, place]
  cases hmode : m.mode
  case scaled =>
    rw [mode, accModeOf] at hmode
    split at hmode <;> cases hmode
  case exact => simp [Machine.openL]
  case anchored =>
    by_cases inside : 128 * q + j < min m.mrc m.d.rows
    · rw [if_neg fun h => absurd h.2 (by omega), if_pos rfl, if_pos inside]; rfl
    · rw [if_pos ⟨rfl, by omega⟩, if_pos rfl, if_neg inside]

/-- The rows as its plan opens them, one after the other. -/
theorem opened_eq_foldl (k : Core) : m.opened k =
    if !m.isOpen then k else (List.range m.nr).foldl (fun k q =>
      k.openRow (m.srow + q) m.mode.code m.d.fmt.code m.opAddr 1 fun j =>
        if m.mode = .anchored then
          if 128 * q + j < min m.mrc m.d.rows then
            anchoredL m.d.fmt (anchorOf (ceilDiv m.nc 64) (m.d.planeByte k m.mode (128 * q + j))
              (if m.sq then m.d.planeByte k m.mode (128 * q + j) else fun _ => tagOne m.d.fmt))
          else (Config.unusedL (128 * (m.srow + q) + j)).toInt
        else exactL m.d.fmt) k := by
  have same (x y : Core) (h : y.scratch = x.scratch) : (fun q j => m.openL y (128 * q + j)) = fun q j => m.openL x (128 * q + j) := by
    rw [m.openL_congr h]
  rw [opened, Core.openedIf, ← Core.foldl_openRow same]
  simp only [m.openL_eq]
  cases m.isOpen <;> rfl

/-! ## Its products -/

/-- The products of one beat, element by element. -/
def beatTerms (k : Core) (b : Nat × Nat × Nat) (row col : Nat) : List Dec :=
  if row = m.srow + b.1 / 128 ∧ col = b.1 % 128 then products (span b.2.1 (min b.2.2 m.n)) (m.elems k b.1) (m.factors k b.1) else []

/-- The products of the whole op, element by element. -/
def terms (k : Core) (row col : Nat) : List Dec := m.steps.flatMap fun x => m.beatTerms k x.1 row col

/-- The elements of a row whose products its sum takes. -/
def indices (r : Nat) : List Nat := if m.live r then List.range m.n else []

theorem mem_steps {x : (Nat × Nat × Nat) × Nat} (h : x ∈ m.steps) : m.live x.1.1 = true ∧ x.1.1 < m.mrc := by
  obtain ⟨member, adds⟩ := List.mem_filter.mp h
  obtain ⟨r, hr, hx⟩ := List.mem_flatMap.mp (List.of_mem_zip member).1
  obtain ⟨e, -, same⟩ := List.mem_map.mp hx
  have row : x.1.1 = r := by rw [← same]
  have inside := List.mem_range.mp hr
  simp only [RowSumArgs.adds, Bool.and_eq_true, decide_eq_true_eq] at adds
  obtain ⟨⟨hrows, hlive⟩, -⟩ := adds
  exact ⟨by rw [live, hlive, decide_eq_true (by omega)]; rfl, by omega⟩

/-- The places of the beats do not count for the products. -/
theorem terms_eq_beats (k : Core) (row col : Nat) :
    m.terms k row col = m.beats.flatMap fun b => if m.adds b then m.beatTerms k b row col else [] := by
  have beats : (m.beats.zip (List.range m.beats.length)).map Prod.fst = m.beats :=
    List.map_fst_zip (by rw [List.length_range])
  rw [← flatMap_filter, ← beats, List.filter_map, List.flatMap_map]
  rfl

/-- A beat of another row adds nothing to an element. -/
theorem beatTerms_of_other (k : Core) {r r' : Nat} (other : r' ≠ r) (e : Nat × Nat) :
    m.beatTerms k (r', e) (m.srow + r / 128) (r % 128) = [] := if_neg (by dsimp only; omega)

/-- A row of the stockpot outside its own takes no product. -/
theorem terms_of_other (k : Core) {row : Nat} (hr : row < m.srow ∨ m.srow + m.nr ≤ row) (col : Nat) : m.terms k row col = [] := by
  refine List.flatMap_eq_nil_iff.mpr fun x hx => if_neg fun here => ?_
  have inside := (m.mem_steps hx).2
  have enough := le_ceilDiv_mul m.mrc (b := 128) (by decide)
  unfold nr at hr
  omega

/-- The element of a row of the tensor takes the products of its elements. -/
theorem terms_of_row (k : Core) (r : Nat) :
    m.terms k (m.srow + r / 128) (r % 128) = products (m.indices r) (m.elems k r) (m.factors k r) := by
  have others (r' : Nat) (other : r' ≠ r) : ((m.d.lineElems (unrankFar ((m.d.ext.take m.d.rank).drop 1) r') m.nc).flatMap fun e =>
      if m.adds (r', e) then m.beatTerms k (r', e) (m.srow + r / 128) (r % 128) else []) = [] :=
    List.flatMap_eq_nil_iff.mpr fun e _ => by rw [m.beatTerms_of_other k other, ite_self]
  simp only [terms_eq_beats, beats, List.flatMap_assoc, List.flatMap_map]
  by_cases inside : r < m.mrc
  case neg =>
    have dead : m.live r = false := by rw [live, decide_eq_false (by omega)]; rfl
    rw [indices, dead, List.flatMap_eq_nil_iff.mpr fun r' hr' => others r' (by have := List.mem_range.mp hr'; omega)]
    rfl
  case pos =>
  rw [flatMap_range_eq inside fun r' _ => others r']
  have beat (e : Nat × Nat) : (if m.adds (r, e) then m.beatTerms k (r, e) (m.srow + r / 128) (r % 128) else []) =
      if m.live r then products (span e.1 (min e.2 m.n)) (m.elems k r) (m.factors k r) else [] := by
    have terms : m.beatTerms k (r, e) (m.srow + r / 128) (r % 128) =
      products (span e.1 (min e.2 m.n)) (m.elems k r) (m.factors k r) := if_pos ⟨rfl, rfl⟩
    have same : m.adds (r, e) = (m.live r && decide (e.1 < m.n)) := by
      rw [adds, live, decide_eq_decide.mpr (show r < min m.mrc m.d.rows ↔ r < m.d.rows by omega)]
    rw [terms, same]
    by_cases before : e.1 < m.n
    · simp [before]
    · rw [span_eq_nil (by omega)]; simp [products]
  simp only [beat, indices]
  split
  · have whole := m.d.flatMap_lineElems (unrankFar ((m.d.ext.take m.d.rank).drop 1) r) (n := m.n) (Nat.min_le_left ..)
    rw [← whole, products, List.map_flatMap]
    rfl
  · exact List.flatMap_eq_nil_iff.mpr fun _ _ => rfl

end RowSumArgs

/-- One beat of a row's sum, where none of its products breaches. -/
theorem Core.adds_rowBeat {k : Core} {opAddr srow : Nat} {sq : Bool} {mode : AccMode} {d : Desc} {r lo hi : Nat}
    {b : Nat → Dec × Arith} (factors : ∀ j, b j = if sq then d.elem k.scratch (d.rowIdx r) j else (oneDec, {}))
    (safe : keepsAnchor mode (k.elem (srow + r / 128) (r % 128)) (span lo hi) (d.elem k.scratch (d.rowIdx r)) b) :
    ∃ t, rowBeat opAddr srow sq mode d k r lo hi = .ok t ∧ k.Adds t fun row col =>
      if row = srow + r / 128 ∧ col = r % 128 then products (span lo hi) (d.elem k.scratch (d.rowIdx r)) b else [] := by
  have added := Acc.foldl_add (span lo hi) (x := { elem := k.elem (srow + r / 128) (r % 128) }) safe
  have fold : (List.range (hi - lo)).foldl (fun (x : Acc) j =>
      x.add mode (lo + j) (d.elem k.scratch (d.rowIdx r) (lo + j))
        (if sq then d.elem k.scratch (d.rowIdx r) (lo + j) else (oneDec, {}))) { elem := k.elem (srow + r / 128) (r % 128) } =
      (span lo hi).foldl (fun x j => x.add mode j (d.elem k.scratch (d.rowIdx r) j) (b j))
        { elem := k.elem (srow + r / 128) (r % 128) } := by
    simp only [span, List.foldl_map, factors]
  simp only [rowBeat, fold]
  generalize (span lo hi).foldl _ _ = x at added
  obtain ⟨elem, breach⟩ := added
  rw [breach]
  refine ⟨_, rfl, rfl, fun row col hcol => ?_⟩
  have written : ((k.setElem (srow + r / 128) (r % 128) x.elem).orArith x.arith).elem row col =
      if row = srow + r / 128 ∧ col = r % 128 then x.elem else k.elem row col :=
    Core.elem_setElem k _ _ _ (Nat.mod_lt _ (by decide)) hcol
  rw [written]
  split
  case isTrue here =>
    obtain ⟨rfl, rfl⟩ := here
    rw [elem, sumOf_eq_products]
    simp only [and_self, if_true]
  case isFalse other => simp only [other, if_false, List.foldl_nil]

namespace RowSumArgs

variable (m : RowSumArgs)

section
variable {m} {x k : Core} (scratch : k.scratch = x.scratch)
  (safe : ∀ r, r < 128 * m.nr →
    keepsAnchor m.mode (k.elem (m.srow + r / 128) (r % 128)) (m.indices r) (m.elems x r) (m.factors x r))
include scratch safe

/-- One beat, where products have been added before it. -/
theorem adds_step {t : Core} {q : Nat → Nat → List Dec} (before : k.Adds t q) {b : (Nat × Nat × Nat) × Nat} (hb : b ∈ m.steps) :
    ∃ t', m.step t b = .ok t' ∧ t.Adds t' (m.beatTerms x b.1) := by
  obtain ⟨live, inside⟩ := m.mem_steps hb
  have same : t.scratch = x.scratch := before.scratch.trans scratch
  have enough := le_ceilDiv_mul m.mrc (b := 128) (by decide)
  have anchors : keepsAnchor m.mode (t.elem (m.srow + b.1.1 / 128) (b.1.1 % 128)) (span b.1.2.1 (min b.1.2.2 m.n))
      (m.d.elem t.scratch (m.d.rowIdx b.1.1)) (m.factors x b.1.1) := by
    have named : m.indices b.1.1 = List.range m.n := if_pos live
    intro j hj
    rw [before.elem_l (Nat.mod_lt _ (by decide)), same]
    refine safe b.1.1 (by unfold nr; omega) j (named ▸ List.mem_range.mpr ?_)
    have := mem_span.mp hj
    omega
  obtain ⟨t', done, added⟩ := Core.adds_rowBeat (opAddr := m.opAddr) (sq := m.sq) (b := m.factors x b.1.1)
    (fun j => by rw [same]; rfl) anchors
  rw [same] at added
  exact ⟨t', done, added⟩

/-- All its beats. -/
theorem adds_steps : ∃ t, m.steps.foldlM m.step k = .ok t ∧ k.Adds t (m.terms x) :=
  have step (b : (Nat × Nat × Nat) × Nat) (hb : b ∈ m.steps) (t : Core) (q : Nat → Nat → List Dec) (before : k.Adds t q) :
      ∃ t', m.step t b = .ok t' ∧ t.Adds t' (m.beatTerms x b.1) := adds_step scratch safe before hb
  Core.Adds.foldlM _ step (.refl k)

end

/-! ## Its issue -/

section
variable {s t : State} {c : Nat} (h : s.StoresKept t c) (at_ : State → (Nat × Nat × Nat) × Nat → Nat)
include h

/-- What a ROWSUM or ROWSQ leaves as it issues, where no product breaches an anchor. -/
theorem enter_spec (live : m.masked = false) (safe : ∀ r, r < 128 * m.nr →
      keepsAnchor m.mode (m.start (s.core c) r) (m.indices r) (m.elems (s.core c) r) (m.factors (s.core c) r)) :
    let k := s.core c
    let u := m.enter at_ c t
    s.RowOp u c ∧ (u.core c).scratch = k.scratch ∧ k.sameRows (u.core c) m.srow m.nr ∧
      (∀ r, r < 128 * m.nr → (u.core c).elem (m.srow + r / 128) (r % 128) =
        sumOf (m.start k r) (m.indices r) (m.elems k r) (m.factors k r)) ∧
      (∀ q, q < m.nr → (u.core c).row (m.srow + q) =
        if m.isOpen then ⟨true, m.mode.code, m.d.fmt.code, m.opAddr, 1⟩ else k.row (m.srow + q)) := by
  intro k u
  have place (r : Nat) : 128 * (r / 128) + r % 128 = r := Nat.div_add_mod ..
  have column (r : Nat) : r % 128 < 128 := Nat.mod_lt _ (by decide)
  have start (r : Nat) (hr : r < 128 * m.nr) : (m.opened (t.core c)).elem (m.srow + r / 128) (r % 128) = m.start k r := by
    rw [opened, Core.elem_openedIf _ _ _ _ _ _ _ _ _ (by omega) (column r), m.openL_congr h.scratch, Core.elem_congr h.stock, place]
    rfl
  obtain ⟨v, done, added⟩ := adds_steps (k := m.opened (t.core c)) (x := k) ((Core.scratch_openedIf ..).trans h.scratch)
    fun r hr => by rw [start r hr]; exact safe r hr
  have entered : u = t.setCore c v := by
    simp only [u, enter, live, Bool.false_eq_true, if_false, runSteps_of_foldlM _ done]
  obtain ⟨rowOp, scratch, same, sums, rows⟩ := h.addRows _ _ _ _ _ _ _ _ added fun r j hr => m.terms_of_other k hr j
  rw [entered]
  refine ⟨rowOp, scratch, same, fun r hr => (sums _ _ (by omega) (column r)).trans ?_, rows⟩
  rw [m.terms_of_row k, m.openL_congr h.scratch, sumOf_eq_products, place]
  rfl

end
end RowSumArgs

/-- What the plan of a ROWSUM or ROWSQ gives. -/
theorem gives_rows (sq : Bool) (s : State) (c : Nat) (o : Op) {d : Desc} (hrefs : (s.core c).refs o 1 [] = .ok [d]) :
    Gives (planRows sq s c o) fun l => Gives l.go fun i =>
      ∃ at_, ∀ id t, i.effect id t = ((s.core c).rowSumArgs o sq d).enter at_ c t := by
  unfold planRows
  refine gives_bind_eq fun ds same => ?_
  obtain rfl := Except.ok.inj (hrefs.symm.trans same)
  repeat refine gives_bind fun _ => ?_
  refine gives_legal ?_
  repeat refine gives_bind fun _ => ?_
  refine gives_when (gives_ok ⟨?at_, fun id t => ?effect⟩)
  case effect =>
    rw [RowSumArgs.enter, RowSumArgs.opened_eq_foldl]
    rfl

theorem planFor_rows {o : Op} (h : o.opc = 0x04) (sq : Bool) (hvar : o.var % 8 = if sq then 1 else 0) : planFor o = planRows sq := by
  cases sq <;> simp_all [planFor]

/-- Where a ROWSUM or ROWSQ is due, its command issues it. -/
theorem exec_rows {s : State} {c : Nat} {i : Issue} (h : s.dueIssue c = some i) (hopc : (s.core c).nextOp.opc = 0x04) (sq : Bool)
    (hvar : (s.core c).nextOp.var % 8 = if sq then 1 else 0) :
    exec (if sq then .rowsq c else .rowsum c) s =
      .next (i.effect (s.look c).nextId ((s.look c).ahead c (s.core c).nextOp i)) := by
  have mine : (((s.core c).nextOp.opc == 0x04) && ((s.core c).nextOp.var % 8 == if sq then 1 else 0)) = true := by
    rw [hopc, hvar]; simp
  cases sq with
  | false => exact issueRow_effect h (mine := fun o => o.opc == 0x04 && o.var % 8 == 0) mine (planFor_rows hopc false hvar)
  | true => exact issueRow_effect h (mine := fun o => o.opc == 0x04 && o.var % 8 == 1) mine (planFor_rows hopc true hvar)

end Sys2Proof.Machine
end

section
/-!
# Stock words (spec/07 R196, spec/02 R66, R68)

STOCK_STORE writes rows as stock words, and STOCK_ADD adds them, row after row.
-/
namespace Sys2Proof.Machine

/-! ## What a store leaves -/

theorem StockWord.length_bytes (w : StockWord) : w.bytes.length = 20 := by
  simp only [StockWord.bytes, List.length_append, length_toLE]

theorem Core.length_stockRow (k : Core) (row : Nat) : (k.stockRow row).length = 2560 := by
  have words : ∀ x ∈ k.elems row 128, x.word.bytes.length = 20 := fun x _ => x.word.length_bytes
  rw [Core.stockRow, List.length_flatMap, List.map_congr_left words, List.map_const', List.sum_replicate, Core.elems, List.length_map,
    List.length_range]
  rfl

/-- A core whose scratchpad alone is changed, step by step. -/
theorem Core.foldl_scratch {α : Type} (f : Memory → α → Memory) (xs : List α) (k : Core) :
    xs.foldl (fun (t : Core) x => { t with scratch := f t.scratch x }) k = { k with scratch := xs.foldl f k.scratch } := by
  induction xs generalizing k with
  | nil => rfl
  | cons x xs ih => rw [List.foldl_cons, ih]; rfl

/-- Rows of a length, written one after the other at their places. -/
theorem Memory.foldl_write_rows {n : Nat} {bytes : Nat → List Byte} (length : ∀ r, (bytes r).length = n) (base rows : Nat) (m : Memory) :
    let t := (List.range rows).foldl (fun t r => Memory.write t (base + n * r) (bytes r)) m
    (∀ r, r < rows → Memory.read t (base + n * r) n = bytes r) ∧
      ∀ b, b < base ∨ base + n * rows ≤ b → Memory.get t b = Memory.get m b := by
  intro t
  have next {r r' : Nat} (h : r < r') : n * r + n ≤ n * r' := by rw [← Nat.mul_succ]; exact Nat.mul_le_mul_left n h
  have within (t : Memory) (r b : Nat) (hb : b < base + n * r ∨ base + n * r + n ≤ b) :
      Memory.get (Memory.write t (base + n * r) (bytes r)) b = Memory.get t b := by
    rw [Memory.get_write, length, if_neg (by omega)]
  have apart : (List.range rows).Pairwise fun r r' => RowsApart n (base + n * r) (base + n * r') :=
    List.nodup_range.imp fun {r r'} other => by
      rcases Nat.lt_or_gt_of_ne other with before | after
      · have := next before
        exact .inl (by omega)
      · have := next after
        exact .inr (by omega)
  refine ⟨fun r hr => ?_, fun b hb => get_foldl_rows_of_outside within (fun r hr => ?_) m⟩
  · obtain ⟨u, same⟩ := get_foldl_rows within apart (List.mem_range.mpr hr) m
    have row : Memory.read t (base + n * r) n = Memory.read (Memory.write u (base + n * r) (bytes r)) (base + n * r) n := by
      refine Memory.read_congr fun x lo hi => ?_
      have byte := same (x - (base + n * r)) (by omega)
      rwa [Nat.add_sub_cancel' lo] at byte
    have back := Memory.read_write (bytes r) u (base + n * r)
    rwa [length, ← row] at back
  · have := next (List.mem_range.mp hr)
    omega

/-- What the checks of both variants give. -/
theorem gives_stockArgs {s : State} {c : Nat} {o : Op} {d : Desc} (href : (s.core c).ref o 0 false = .ok d) :
    Gives (stockArgs s c o) fun x => x = (d, o.fld 9 0, o.fld 20 10) := by
  unfold stockArgs
  refine gives_bind_eq fun d' same => ?_
  obtain rfl := Except.ok.inj (href.symm.trans same)
  repeat refine gives_bind fun _ => ?_
  exact gives_ok rfl

theorem gives_stockStore (s : State) (c : Nat) (o : Op) {d : Desc} (href : (s.core c).ref o 0 false = .ok d) :
    Gives (planStockStore s c o) fun l => Gives l.go fun i => ∀ id t, i.effect id t = t.modCore c fun k =>
      (List.range (o.fld 20 10)).foldl (fun t r =>
        { t with scratch := Memory.write t.scratch (d.base + 2560 * r) (k.stockRow (o.fld 9 0 + r)) }) k := by
  unfold planStockStore
  refine gives_bind_eq fun x hx => ?_
  obtain rfl := gives_stockArgs href x hx
  refine gives_legal ?_
  repeat refine gives_bind fun _ => ?_
  exact gives_ok fun id t => rfl

/-! ## What an addition leaves -/

theorem Core.anchorClash_eq_none {k : Core} {row : Nat} {ws : List StockWord} :
    ∀ {j : Nat}, (∀ i, i < ws.length → (ws.getD i ⟨0, 0⟩).clashes (k.elem row (j + i)) = false) → k.anchorClash row j ws = none := by
  induction ws with
  | nil => exact fun _ => rfl
  | cons w ws ih =>
    intro j h
    have first : w.clashes (k.elem row j) = false := h 0 (Nat.succ_pos _)
    rw [Core.anchorClash, first]
    refine ih fun i hi => ?_
    rw [Nat.add_assoc, Nat.add_comm 1]
    exact h (i + 1) (Nat.succ_lt_succ hi)

/-- A row of stock words added, where no anchor differs (R66). -/
theorem Core.addRow_spec {k : Core} {row : Nat} {ws : List StockWord} (opAddr : Nat) (length : ws.length = 128)
    (safe : ∀ j, j < 128 → (ws.getD j ⟨0, 0⟩).clashes (k.elem row j) = false) :
    ∃ t, k.addRow opAddr row ws = .ok t ∧ k.StockEffect t ∧ t.rows = k.rows ∧ ∀ r j, j < 128 →
      t.elem r j = if r = row then addStockWord (k.elem row j) (ws.getD j ⟨0, 0⟩) else k.elem r j := by
  have unbroken : k.anchorClash row 0 ws = none := Core.anchorClash_eq_none fun j hj => by
    rw [Nat.zero_add]; exact safe j (length ▸ hj)
  simp only [Core.addRow, unbroken]
  refine ⟨_, rfl, ?_, ?_, fun r j hj => ?_⟩
  · rw [Core.StockEffect, Core.orArith, Core.setElems_eq]
  · rw [Core.orArith, Core.setElems_eq]
  · refine (Core.elem_setElems row hj _ k 0 (by simp [length])).trans ?_
    simp only [List.length_map, List.length_zip, List.length_range, length, Nat.min_self, Nat.zero_add, Nat.zero_le, hj, and_true]
    split
    · simp [length, hj]
    · rfl

/-- What a STOCK_ADD works with (R196). -/
structure StockAddArgs where
  base : Nat
  srow : Nat
  rows : Nat
  mode : Nat
  fmt : Nat
  isOpen : Bool
  opAddr : Nat

def Op.stockAddArgs (o : Op) (d : Desc) : StockAddArgs :=
  ⟨d.base, o.fld 9 0, o.fld 20 10, o.fld 27 26, o.fld 25 21, bit o.var 3, o.addr⟩

namespace StockAddArgs

variable (m : StockAddArgs)

/-- The words of a row. -/
def words (k : Core) (r : Nat) : List StockWord := wordsOf (Memory.read k.scratch (m.base + 2560 * r) 2560)

/-- The word of an element. -/
def word (k : Core) (r j : Nat) : StockWord := (m.words k r).getD j ⟨0, 0⟩

/-- The L of an element that it opens: that of its word. -/
def openL (k : Core) (r j : Nat) : Int := if (m.word k r j).special.isSome then 0 else (m.word k r j).anchor.toInt

/-- A row as the op opens it. -/
def openRow (k : Core) (r : Nat) : Core :=
  if m.isOpen then k.openRow (m.srow + r) m.mode m.fmt m.opAddr (b2n (Config.stockAddUnit m.opAddr)) (m.openL k r) else k

/-- One row. -/
def step (k : Core) (r : Nat) : Except CFault Core := (m.openRow k r).addRow m.opAddr (m.srow + r) (m.words k r)

/-- An element before its word is added: opened, or as it stands. -/
def start (k : Core) (r j : Nat) : Elem := if m.isOpen then openElem (m.openL k r j) else k.elem (m.srow + r) j

/-- `t` is `k` with the first `n` rows added. -/
structure Added (k t : Core) (n : Nat) : Prop where
  effect : k.StockEffect t
  row : ∀ r, t.row r = if m.isOpen ∧ m.srow ≤ r ∧ r < m.srow + n then
    ⟨true, m.mode, m.fmt, m.opAddr, b2n (Config.stockAddUnit m.opAddr)⟩ else k.row r
  elem : ∀ r j, j < 128 → t.elem r j = if m.srow ≤ r ∧ r < m.srow + n then
    addStockWord (m.start k (r - m.srow) j) (m.word k (r - m.srow) j) else k.elem r j

theorem length_words (k : Core) (r : Nat) : (m.words k r).length = 128 := by
  rw [words, wordsOf, List.length_map, List.length_range]

theorem words_congr {x y : Core} (h : y.scratch = x.scratch) : m.words y = m.words x := by
  funext r
  rw [words, words, h]

theorem openL_congr {x y : Core} (h : y.scratch = x.scratch) : m.openL y = m.openL x := by
  funext r j
  rw [openL, openL, word, word, m.words_congr h]

section
variable (k : Core) (n : Nat)

theorem stockEffect_openRow : k.StockEffect (m.openRow k n) := by
  unfold openRow Core.StockEffect
  split
  · rw [Core.openRow_eq]
  · rfl

theorem row_openRow (r : Nat) : (m.openRow k n).row r =
    if m.isOpen ∧ r = m.srow + n then ⟨true, m.mode, m.fmt, m.opAddr, b2n (Config.stockAddUnit m.opAddr)⟩ else k.row r := by
  unfold openRow
  split
  case isTrue hopen => simp only [Core.row_openRow, hopen, true_and]
  case isFalse hclosed => rw [if_neg fun h => hclosed h.1]

theorem elem_openRow (r : Nat) {j : Nat} (hj : j < 128) : (m.openRow k n).elem r j =
    if r = m.srow + n then m.start k n j else k.elem r j := by
  unfold openRow start
  split
  case isTrue hopen => exact Core.elem_openRow _ _ _ _ _ _ _ hj
  case isFalse hclosed =>
    split
    case isTrue here => rw [here]
    case isFalse => rfl

end

section
variable {m} {k t : Core} {n : Nat}

theorem added_zero : m.Added k k 0 :=
  ⟨rfl, fun r => by rw [if_neg (by omega)], fun r j _ => by rw [if_neg (by omega)]⟩

/-- The next row. -/
theorem Added.step (h : m.Added k t n) (safe : ∀ j, j < 128 → (m.word k n j).clashes (m.start k n j) = false) :
    ∃ u, m.step t n = .ok u ∧ m.Added k u (n + 1) := by
  have words := m.words_congr h.effect.scratch
  have beyond (j : Nat) (hj : j < 128) : t.elem (m.srow + n) j = k.elem (m.srow + n) j := by rw [h.elem _ _ hj, if_neg (by omega)]
  have start (j : Nat) (hj : j < 128) : m.start t n j = m.start k n j := by
    rw [StockAddArgs.start, StockAddArgs.start, m.openL_congr h.effect.scratch, beyond j hj]
  have first (j : Nat) (hj : j < 128) : (m.openRow t n).elem (m.srow + n) j = m.start k n j := by
    rw [m.elem_openRow t n _ hj, if_pos rfl, start j hj]
  obtain ⟨u, done, effect, rows, elems⟩ := (m.openRow t n).addRow_spec (row := m.srow + n) m.opAddr (m.length_words t n) fun j hj => by
    rw [first j hj, words]; exact safe j hj
  refine ⟨u, done, (h.effect.trans (m.stockEffect_openRow t n)).trans effect, fun r => ?_, fun r j hj => ?_⟩
  · rw [Core.row_congr rows, m.row_openRow, h.row]
    grind
  · rw [elems r j hj, first j hj, m.elem_openRow t n r hj, h.elem r j hj, words]
    rcases Nat.lt_trichotomy r (m.srow + n) with before | rfl | after
    · have inside : r < m.srow + (n + 1) ↔ r < m.srow + n := by omega
      simp only [if_neg (Nat.ne_of_lt before), inside]
    · rw [if_pos rfl, if_pos (by omega), Nat.add_sub_cancel_left]
      rfl
    · rw [if_neg (by omega), if_neg (by omega), if_neg (by omega), if_neg (by omega)]

/-- All rows. -/
theorem added_steps (safe : ∀ r j, r < n → j < 128 → (m.word k r j).clashes (m.start k r j) = false) :
    ∃ u, (List.range n).foldlM m.step k = .ok u ∧ m.Added k u n := by
  induction n with
  | zero => exact ⟨k, rfl, added_zero⟩
  | succ n ih =>
    obtain ⟨t, first, added⟩ := ih fun r j hr => safe r j (by omega)
    obtain ⟨u, last, added'⟩ := added.step fun j => safe n j (by omega)
    refine ⟨u, ?_, added'⟩
    rw [List.range_succ, List.foldlM_append, first]
    change [n].foldlM m.step t = .ok u
    rw [List.foldlM_cons, last]
    rfl

end
end StockAddArgs

/-- Rows that pass the check of R112 are open. -/
theorem isOpen_of_rowsOpen {k : Core} {o : Op} {r0 n : Nat} (h : rowsOpen k o r0 n = .ok ()) {r : Nat} (hr : r < n) :
    (k.row (r0 + r)).isOpen = true := by
  unfold rowsOpen at h
  split at h
  case h_1 => nomatch h
  case h_2 none => simpa using List.find?_eq_none.mp none r (List.mem_range.mpr hr)

/-- What the plan of a STOCK_ADD gives. -/
theorem gives_stockAdd (s : State) (c : Nat) (o : Op) {d : Desc} (href : (s.core c).ref o 0 false = .ok d) :
    Gives (planStockAdd s c o) fun l => Gives l.go fun i =>
      let m := o.stockAddArgs d
      (∃ at_ : State → Nat → Nat, ∀ id t, i.effect id t = t.setCore c (runSteps (at_ t) m.step (t.core c) (List.range m.rows))) ∧
        (m.isOpen = false → ∀ r, r < m.rows → ((s.core c).row (m.srow + r)).isOpen = true) := by
  unfold planStockAdd
  refine gives_bind_eq fun x hx => ?_
  obtain rfl := gives_stockArgs href x hx
  refine gives_bind fun _ => gives_legal ?_
  repeat refine gives_bind fun _ => ?_
  refine gives_when_eq fun rows => gives_ok ⟨⟨?at_, fun id t => ?effect⟩, fun hclosed r hr => ?rows⟩
  case effect => rfl
  case rows => exact isOpen_of_rowsOpen (rows ((Bool.not_eq_true' _).mpr hclosed)) hr

/-- What a STOCK_ADD leaves as it issues, where no anchor differs. -/
theorem StockAddArgs.enter_spec (m : StockAddArgs) {s t : State} {c : Nat} (h : s.StoresKept t c) (at_ : Nat → Nat)
    (rows : m.isOpen = false → ∀ r, r < m.rows → ((s.core c).row (m.srow + r)).isOpen = true)
    (safe : ∀ r j, r < m.rows → j < 128 → (m.word (s.core c) r j).clashes (m.start (s.core c) r j) = false) :
    let k := s.core c
    let u := t.setCore c (runSteps at_ m.step (t.core c) (List.range m.rows))
    s.RowOp u c ∧ (u.core c).scratch = k.scratch ∧ k.sameRows (u.core c) m.srow m.rows ∧
      (∀ r j, r < m.rows → j < 128 → (u.core c).elem (m.srow + r) j = addStockWord (m.start k r j) (m.word k r j)) ∧
      (∀ r, r < m.rows → ((u.core c).row (m.srow + r)).isOpen = true) := by
  intro k u
  have row (r : Nat) : (t.core c).row r = k.row r := Core.row_congr h.rows r
  have elem (r j : Nat) : (t.core c).elem r j = k.elem r j := Core.elem_congr h.stock r j
  have word (r j : Nat) : m.word (t.core c) r j = m.word k r j := by
    rw [StockAddArgs.word, StockAddArgs.word, m.words_congr h.scratch]
  have start (r j : Nat) : m.start (t.core c) r j = m.start k r j := by
    rw [StockAddArgs.start, StockAddArgs.start, m.openL_congr h.scratch, elem]
  obtain ⟨v, done, added⟩ := StockAddArgs.added_steps (m := m) (k := t.core c) (n := m.rows)
    fun r j hr hj => by rw [word, start]; exact safe r j hr hj
  have core : u.core c = v := by
    simp only [u, runSteps_of_foldlM _ done]
    exact (State.core_setCore ..).trans (if_pos rfl)
  refine ⟨h.rowOp.setCore ?_ ?_, ?_, fun r hr => ⟨?_, fun j hj => ?_⟩, fun r j hr hj => ?_, fun r hr => ?_⟩
  · rw [runSteps_of_foldlM _ done, added.effect.cnts]
  · rw [runSteps_of_foldlM _ done, added.effect.shape]
  all_goals rw [core]
  · exact added.effect.scratch.trans h.scratch
  · rw [added.row, if_neg (by omega), row]
  · rw [added.elem r j hj, if_neg (by omega), elem]
  · rw [added.elem _ j hj, if_pos (by omega), Nat.add_sub_cancel_left, start, word]
  · rw [added.row]
    split
    · rfl
    case isFalse closed =>
      rw [row]
      exact rows (Bool.eq_false_iff.mpr fun hopen => closed ⟨hopen, by omega, by omega⟩) r hr

/-- What a STOCK_STORE leaves as it issues. -/
theorem storeRows_spec {s t : State} {c : Nat} (h : s.StoresKept t c) (base srow rows : Nat) :
    let k := s.core c
    let u := t.modCore c fun k => (List.range rows).foldl (fun t r =>
      { t with scratch := Memory.write t.scratch (base + 2560 * r) (k.stockRow (srow + r)) }) k
    s.ScratchOp u c ∧ (∀ r, r < rows → Memory.read (u.core c).scratch (base + 2560 * r) 2560 = k.stockRow (srow + r)) ∧
      ∀ b, b < base ∨ base + 2560 * rows ≤ b → Memory.get (u.core c).scratch b = Memory.get k.scratch b := by
  intro k u
  have words (r : Nat) : (t.core c).stockRow r = k.stockRow r := by
    simp only [Core.stockRow, Core.elems, Core.elem, h.stock, k]
  have stored := Memory.foldl_write_rows (bytes := fun r => k.stockRow (srow + r)) (fun r => k.length_stockRow _) base rows k.scratch
  have written (k : Core) := Core.foldl_scratch (fun m r => Memory.write m (base + 2560 * r) (k.stockRow (srow + r))) (List.range rows) k
  have core : u.core c = { t.core c with scratch := (List.range rows).foldl (fun m r =>
      Memory.write m (base + 2560 * r) (k.stockRow (srow + r))) k.scratch } := by
    simp only [u, State.core_modCore, if_true, written, words, h.scratch, k]
  have rowOp : s.RowOp u c := h.rowOp.modCore (fun k => by rw [written]) fun k => by rw [written]
  refine ⟨⟨rowOp, ?_, ?_⟩, ?_⟩
  all_goals rw [core]
  · exact h.stock
  · exact h.rows
  · exact stored

/-! ## The statement -/

/-- Settles O16: ROWSUM and ROWSQ by `RowSumArgs.enter_spec`, STOCK_STORE by `storeRows_spec`, STOCK_ADD by `StockAddArgs.enter_spec`. -/
theorem rowReductions : Obligations.RowReductions := by
  intro s c i d h k o hopc
  have look := s.core_look c
  have kept := s.storesKept_ahead c i
  refine ⟨fun sq hvar hrefs => ?sums, fun href => ⟨fun hvar => ?store, fun hvar => ?add⟩⟩
  case sums =>
    intro x srow mrc nr rt mode isOpen live ks e y start
    let m := k.rowSumArgs o sq d
    have given := State.gives_dueIssue h (planFor_rows hopc sq hvar)
      (gives_rows sq (s.look c) c o (by rw [look, Core.refs_looked]; exact hrefs))
    rw [look] at given
    obtain ⟨at_, effect⟩ : ∃ at_, ∀ id t, i.effect id t = m.enter at_ c t := given
    have issued := exec_rows h hopc sq hvar
    rw [effect] at issued
    refine ⟨fun masked => ⟨_, issued, ?_⟩, fun live safe => ⟨_, issued, ?_⟩⟩
    · rw [RowSumArgs.enter, if_pos (show m.masked = true from masked)]
      exact ⟨⟨kept.rowOp, kept.stock, kept.rows⟩, kept.scratch⟩
    · exact m.enter_spec kept at_ live safe
  case store =>
    have plan : planFor o = planStockStore := by simp only [planFor, hopc, hvar]
    have effect := State.gives_dueIssue h plan (gives_stockStore (s.look c) c o (by rw [look]; exact href))
    have issued := issueRow_effect h (mnemonic := "STOCK_STORE") (mine := fun o => o.opc == 0x04 && o.var % 8 == 3)
      (by simp [o, k, hopc, hvar]) plan
    rw [effect] at issued
    exact ⟨_, issued, storeRows_spec kept ..⟩
  case add =>
    have plan : planFor o = planStockAdd := by simp only [planFor, hopc, hvar]
    have given := State.gives_dueIssue h plan (gives_stockAdd (s.look c) c o (by rw [look]; exact href))
    rw [look] at given
    obtain ⟨⟨at_, effect⟩, rows⟩ := given
    have issued := issueRow_effect h (mnemonic := "STOCK_ADD") (mine := fun o => o.opc == 0x04 && o.var % 8 == 4)
      (by simp [o, k, hopc, hvar]) plan
    rw [effect] at issued
    exact fun safe => ⟨_, issued, (o.stockAddArgs d).enter_spec kept (at_ _) rows safe⟩

end Sys2Proof.Machine
end

section
/-!
# Rows of values (spec/02 R46, R50 to R54, R56; spec/05 R133)

Every code of a rounded value fits its format, so that a row of values reads back as it was written, with its tag and scale bytes; and rows
written one after the other all stand, where the planes of their tensor lie apart.
-/
namespace Sys2Proof.Machine

/-! ## Codes fit their format -/

theorem lt_two_pow_bitlen (m : Nat) : m < 2 ^ bitlen m := by
  unfold bitlen
  split
  · omega
  · exact Nat.lt_log2_self

/-- A significand rounded to `p` bits is at most 2^p. -/
theorem roundShift_le {m b : Nat} (h : m < 2 ^ b) (p : Nat) (mode : Rnd) : roundShift m ((b : Int) - p) mode ≤ 2 ^ p := by
  unfold roundShift
  split
  case isTrue short =>
    have places : (-((b : Int) - p)).toNat = p - b := by omega
    have whole : 2 ^ b * 2 ^ (p - b) = 2 ^ p := by rw [← Nat.pow_add, Nat.add_sub_cancel' (by omega)]
    rw [places, ← whole]
    exact Nat.mul_le_mul_right _ h.le
  case isFalse long =>
    have places : ((b : Int) - p).toNat = b - p := by omega
    have kept : m / 2 ^ (b - p) < 2 ^ p := by
      refine Nat.div_lt_of_lt_mul ?_
      rwa [← Nat.pow_add, Nat.sub_add_cancel (by omega)]
    simp only [places]
    cases mode with
    | rtz => exact kept.le
    | rne | rto => dsimp only; split_ifs <;> omega

theorem Fmt.signBit_add_lt (f : Fmt) (neg : Bool) {c : Nat} (h : c < 2 ^ (f.width - 1)) : f.signBit neg + c < 2 ^ f.width := by
  have whole : 2 ^ f.width = 2 * 2 ^ (f.width - 1) := by
    rw [← Nat.pow_succ', Nat.succ_eq_add_one, Nat.sub_add_cancel f.width_pos]
  unfold Fmt.signBit
  split <;> omega

theorem encodeSpecial_lt (f : Fmt) (cls : Cls) : (encodeSpecial f cls).1 < 2 ^ f.width := by
  cases f <;> cases cls <;> decide

theorem encodeOverflow_lt (f : Fmt) (neg : Bool) (mode : Rnd) : (encodeOverflow f neg mode).1 < 2 ^ f.width := by
  cases f <;> cases neg <;> cases mode <;> decide

theorem roundInt_lt {n : Nat} (hn : 0 < n) (neg : Bool) (m : Nat) (e : Int) (mode : Rnd) : (roundInt n neg m e mode).1 < 2 ^ n := by
  have whole : 2 ^ n = 2 * 2 ^ (n - 1) := by rw [← Nat.pow_succ', Nat.succ_eq_add_one, Nat.sub_add_cancel hn]
  have half := Nat.two_pow_pos (n - 1)
  simp only [roundInt]
  split_ifs
  · exact Nat.mod_lt _ (Nat.two_pow_pos n)
  all_goals dsimp only; omega

theorem fp4Floor_le (num den j : Nat) : fp4Floor num den j ≤ j := by
  induction j with
  | zero => exact Nat.le_refl _
  | succ j ih =>
    rw [fp4Floor]
    split <;> omega

theorem roundFp4_lt (neg : Bool) (m : Nat) (e : Int) (mode : Rnd) : (roundFp4 neg m e mode).1 < 2 ^ Fmt.fp4.width := by
  have fits {c : Nat} (h : c < 8) : Fmt.signBit .fp4 neg + c < 2 ^ Fmt.fp4.width := Fmt.signBit_add_lt .fp4 neg h
  have floor := fp4Floor_le (m * 2 ^ (e + 1).toNat) (2 ^ (-(e + 1)).toNat) 6
  simp only [roundFp4]
  split
  · exact fits (by decide)
  split
  · exact fits (by omega)
  cases mode with
  | rtz => exact fits (by omega)
  | rne | rto => exact fits (by split_ifs <;> omega)

/-- The code of a normal value: its exponent field, then its fraction. -/
theorem Fmt.normal_lt {f : Fmt} (float : f.isInt = false) (wide : f ≠ .fp4) {x : Int} (hx : x ≤ f.emax) {q : Nat} (hq : q < 2 ^ f.p) :
    (x + f.bias).toNat * 2 ^ f.fbits + (q - 2 ^ f.fbits) < 2 ^ (f.width - 1) := by
  cases f <;> simp only [Fmt.isInt, reduceCtorEq, ne_eq, not_true_eq_false] at float wide
  all_goals
    simp only [Fmt.bias, Fmt.fbits, Fmt.p, Fmt.emax, Fmt.width] at *
    omega

/-- The code of a rounded value fits its format (R50). -/
theorem encode_lt (f : Fmt) (d : Dec) (mode : Rnd) : (encode f d mode).1 < 2 ^ f.width := by
  have rounded := roundShift_le (lt_two_pow_bitlen d.m) f.p mode
  unfold encode
  split
  · exact encodeSpecial_lt ..
  split
  · exact roundInt_lt f.width_pos ..
  case isFalse float =>
  split
  case isTrue narrow => rw [narrow]; exact roundFp4_lt ..
  case isFalse wide =>
  have zero : f.signBit d.neg < 2 ^ f.width := f.signBit_add_lt d.neg (Nat.two_pow_pos _)
  split
  · exact zero
  dsimp only
  generalize roundShift d.m ((bitlen d.m : Int) - f.p) mode = q0 at rounded
  have kept : (if decide (q0 = 2 ^ f.p) = true then q0 / 2 else q0) < 2 ^ f.p := by
    have := Nat.two_pow_pos f.p
    split
    case isTrue carry => rw [of_decide_eq_true carry]; omega
    case isFalse carry =>
      have := of_decide_eq_false (Bool.eq_false_iff.mpr carry)
      omega
  generalize (if decide (q0 = 2 ^ f.p) = true then q0 / 2 else q0) = q at kept
  generalize (if decide (q0 = 2 ^ f.p) = true then d.e + ((bitlen d.m : Int) - f.p) + 1 else d.e + ((bitlen d.m : Int) - f.p)) = k
  split
  · exact zero
  split
  · exact encodeOverflow_lt ..
  case isFalse high =>
    rw [Nat.add_assoc]
    exact f.signBit_add_lt d.neg (Fmt.normal_lt (Bool.eq_false_iff.mpr float) wide (by omega) kept)

theorem encodeScaled_lt (f : Fmt) (x : Nat) (d : Dec) (mode : Rnd) : (encodeScaled f x d mode).1 < 2 ^ f.width := by
  unfold encodeScaled
  split
  · exact Nat.two_pow_pos _
  · exact encode_lt ..

/-! ## Lists cut into pieces -/

section
variable {α : Type} {n : Nat} (hn : 0 < n)
include hn

theorem ceilDiv_sub {a : Nat} (h : 0 < a) : ceilDiv (a - n) n + 1 = ceilDiv a n := by
  unfold ceilDiv
  rcases Nat.le_total a n with last | more
  · have first : a - n + n - 1 = n - 1 := by omega
    have here : a + n - 1 = a - 1 + n := by omega
    rw [first, here, Nat.div_eq_of_lt (by omega), Nat.add_div_right _ hn, Nat.div_eq_of_lt (by omega)]
  · have here : a + n - 1 = (a - n + n - 1) + n := by omega
    rw [here, Nat.add_div_right _ hn]

theorem flatten_chunks (fuel : Nat) : ∀ {l : List α}, l.length ≤ fuel → (chunks n fuel l).flatten = l := by
  induction fuel with
  | zero => exact fun {l} h => (List.eq_nil_of_length_eq_zero (Nat.le_zero.mp h)).symm
  | succ fuel ih =>
    intro l h
    cases l with
    | nil => rfl
    | cons x l =>
      have rest : ((x :: l).drop n).length ≤ fuel := by rw [List.length_drop]; omega
      exact (congrArg _ (ih rest)).trans (List.take_append_drop n (x :: l))

theorem length_chunks (fuel : Nat) : ∀ {l : List α}, l.length ≤ fuel → (chunks n fuel l).length = ceilDiv l.length n := by
  induction fuel with
  | zero =>
    intro l h
    rw [List.eq_nil_of_length_eq_zero (Nat.le_zero.mp h), List.length_nil, ceilDiv, Nat.zero_add, Nat.div_eq_of_lt (by omega)]
    rfl
  | succ fuel ih =>
    intro l h
    cases l with
    | nil => rw [List.length_nil, ceilDiv, Nat.zero_add, Nat.div_eq_of_lt (by omega)]; rfl
    | cons x l =>
      have rest : ((x :: l).drop n).length ≤ fuel := by rw [List.length_drop]; omega
      have count : (chunks n (fuel + 1) (x :: l)).length = (chunks n fuel ((x :: l).drop n)).length + 1 := rfl
      rw [count, ih rest, List.length_drop, ceilDiv_sub hn (by rw [List.length_cons]; omega)]

theorem flatten_pieces (l : List α) : (pieces n l).flatten = l := flatten_chunks hn _ (Nat.le_refl _)

theorem length_pieces (l : List α) : (pieces n l).length = ceilDiv l.length n := length_chunks hn _ (Nat.le_refl _)

end

theorem length_rowTags (f : Fmt) (xs : List Nat) : (rowTags f xs).length = ceilDiv xs.length 64 := by
  rw [rowTags, List.length_map, length_pieces (by decide)]

/-! ## A row of values, rounded -/

section
variable (f : Fmt) (scaled : Bool) (ds : List Dec) (mode : Rnd)

theorem codes_encodeRow_scaled : (encodeRow f true ds mode).1 =
    (pieces 32 ds).flatMap fun b => b.map fun d => (encodeScaled f (blockScale f b) d mode).1 := by
  simp only [encodeRow, if_true, List.flatMap_map, List.map_map]
  rfl

theorem length_codes : (encodeRow f scaled ds mode).1.length = ds.length := by
  cases scaled with
  | false => simp [encodeRow]
  | true =>
    have whole := congrArg List.length (flatten_pieces (n := 32) (by decide) ds)
    rw [List.length_flatten] at whole
    rw [codes_encodeRow_scaled, List.length_flatMap]
    simpa only [List.length_map] using whole

theorem codes_lt : ∀ x ∈ (encodeRow f scaled ds mode).1, x < 2 ^ f.width := by
  intro x hx
  cases scaled with
  | false =>
    simp only [encodeRow, Bool.false_eq_true, if_false, List.map_map] at hx
    obtain ⟨d, -, rfl⟩ := List.mem_map.mp hx
    exact encode_lt ..
  | true =>
    rw [codes_encodeRow_scaled] at hx
    obtain ⟨b, -, hx⟩ := List.mem_flatMap.mp hx
    obtain ⟨d, -, rfl⟩ := List.mem_map.mp hx
    exact encodeScaled_lt ..

theorem length_scales : (encodeRow f scaled ds mode).2.1.length = if scaled then ceilDiv ds.length 32 else 0 := by
  cases scaled with
  | false => rfl
  | true => simp [encodeRow, length_pieces]

end

/-- Codes that fit their format read back as they were packed. -/
theorem loadRow_write_packRow (f : Fmt) {xs : List Nat} (fit : ∀ x ∈ xs, x < 2 ^ f.width) (m : Memory) (a : Nat) :
    loadRow (Memory.write m a (packRow f xs)) f a xs.length = xs := by
  refine List.ext_getElem (length_loadRow ..) fun j _ hj => ?_
  simp only [loadRow, List.getElem_map, List.getElem_range]
  rw [loadElem_eq_bitsElem, packRow_eq_packBits, bitsElem_write_packBits f.elemWidth hj,
    List.getD_eq_getElem _ _ hj, Nat.mod_eq_of_lt (fit _ (List.getElem_mem hj))]

theorem loadRow_congr {m m' : Memory} {f : Fmt} {a n : Nat}
    (h : ∀ x, a ≤ x → x < a + f.bytes n → Memory.get m x = Memory.get m' x) : loadRow m f a n = loadRow m' f a n := by
  refine List.map_congr_left fun i hi => ?_
  rw [loadElem_eq_bitsElem, loadElem_eq_bitsElem]
  exact bitsElem_congr f.elemWidth (List.mem_range.mp hi) fun b hb => h _ (Nat.le_add_right ..) (Nat.add_lt_add_left hb a)

theorem length_packRow (f : Fmt) (xs : List Nat) : (packRow f xs).length = f.bytes xs.length := by
  rw [packRow_eq_packBits, length_packBits f.elemWidth, Fmt.bytes_eq]

end Sys2Proof.Machine
end

section
/-!
# The rows that an element op writes (spec/10 R247 to R257, spec/05 R133)

The bytes of a row lie in the planes of its tensor; rows share none, so that all of them stand once they are written. What is masked holds no
element.
-/
namespace Sys2Proof.Machine

/-! ## Writes that keep to their footprints -/

section
variable {ρ : Type} {f : Memory → ρ → Memory} {touches : ρ → Nat → Prop}

theorem get_foldl_of_untouched {rs : List ρ} (within : ∀ r ∈ rs, ∀ t b, ¬ touches r b → Memory.get (f t r) b = Memory.get t b)
    {b : Nat} (outside : ∀ r ∈ rs, ¬ touches r b) (m : Memory) : Memory.get (rs.foldl f m) b = Memory.get m b := by
  induction rs generalizing m with
  | nil => rfl
  | cons r rs ih =>
    obtain ⟨here, others⟩ := List.forall_mem_cons.mp within
    rw [List.foldl_cons, ih others fun x hx => outside x (.tail _ hx), here m b (outside r (.head _))]

/-- Of writes whose footprints share no byte each ends as it was made. -/
theorem get_foldl_of_touched {rs : List ρ} (within : ∀ r ∈ rs, ∀ t b, ¬ touches r b → Memory.get (f t r) b = Memory.get t b)
    (apart : rs.Pairwise fun r r' => ∀ b, touches r b → ¬ touches r' b) {r : ρ} (hr : r ∈ rs) (m : Memory) :
    ∃ t, ∀ b, touches r b → Memory.get (rs.foldl f m) b = Memory.get (f t r) b := by
  induction rs generalizing m with
  | nil => exact absurd hr List.not_mem_nil
  | cons x rs ih =>
    obtain ⟨-, withinRest⟩ := List.forall_mem_cons.mp within
    obtain ⟨first, others⟩ := List.pairwise_cons.mp apart
    rw [List.foldl_cons]
    rcases List.mem_cons.mp hr with rfl | later
    · exact ⟨m, fun b hb => get_foldl_of_untouched withinRest (fun y hy => first y hy b hb) _⟩
    · exact ih withinRest others later _

end

/-! ## The number of a row -/

theorem prod_eq (l : List Nat) : prod l = l.prod := List.prod_eq_foldl.symm

theorem rowNo_unrank (es : List Nat) {r : Nat} (hr : r < prod es) : rowNo es (unrank es r) = r := by
  induction es generalizing r with
  | nil => exact (Nat.lt_one_iff.mp hr).symm
  | cons e es ih =>
    rw [prod_eq, List.prod_cons, ← prod_eq] at hr
    rw [unrank, rowNo, ih (Nat.div_lt_of_lt_mul hr), Nat.mod_add_div]

theorem length_unrank (es : List Nat) (r : Nat) : (unrank es r).length = es.length := by
  induction es generalizing r with
  | nil => rfl
  | cons e es ih => rw [unrank, List.length_cons, List.length_cons, ih]

namespace Desc

variable (d : Desc)

theorem rowNo_rowIdx {r : Nat} (hr : r < d.rows) : d.rowNo (d.rowIdx r) = r := rowNo_unrank _ hr

theorem mem_allRows {r : Nat × List Nat} : r ∈ d.allRows ↔ r.1 < d.rows ∧ r.2 = d.rowIdx r.1 := by
  rw [allRows, List.mem_map]
  constructor
  · rintro ⟨i, hi, rfl⟩; exact ⟨List.mem_range.mp hi, rfl⟩
  · rintro ⟨hi, same⟩; exact ⟨r.1, List.mem_range.mpr hi, Prod.ext rfl same.symm⟩

theorem pairwise_allRows : d.allRows.Pairwise fun r r' => r.1 ≠ r'.1 := by
  rw [allRows, List.pairwise_map]
  exact List.nodup_range

/-! ## The bytes of a row -/

/-- Where the tag bytes of a row lie, and how many there are (spec/10 R248). -/
def tagRow (r : Nat) : Nat × Nat := (d.tagPtr + r * ceilDiv (dim d.ext 0) 64, ceilDiv (dim d.ext 0) 64)

/-- Where the scale bytes of a row lie, and how many there are (spec/10 R248). -/
def scaleRow (r : Nat) : Nat × Nat := (d.scalePtr + r * ceilDiv (dim d.ext 0) 32, ceilDiv (dim d.ext 0) 32)

end Desc

/-- A byte of a range. -/
def InRange (b : Nat) (h : Nat × Nat) : Prop := h.1 ≤ b ∧ b < h.1 + h.2

/-- A byte of a row of a tensor, or of the row's tags or scales. -/
def Desc.touches (d : Desc) (r b : Nat) : Prop :=
  InRange b (d.rowAddr (d.rowIdx r), d.rowBytes) ∨ (d.tagV = true ∧ InRange b (d.tagRow r)) ∨
    (d.scaleV = true ∧ InRange b (d.scaleRow r))

theorem not_inRange_of_overlap {h h' : Nat × Nat} (apart : overlap h h' = false) {b : Nat} (hb : InRange b h) : ¬ InRange b h' := by
  unfold InRange overlap at *
  simp only [Bool.and_eq_false_iff, decide_eq_false_iff_not] at apart
  omega

/-- Entries of a plane with `w` bytes for each row. -/
theorem inRange_entry {base w rows r b : Nat} (hr : r < rows) (hb : InRange b (base + r * w, w)) : InRange b (base, rows * w) := by
  have := whole_inside (w := w) hr
  unfold InRange at *
  dsimp only at *
  omega

theorem not_inRange_entry {base w r r' b : Nat} (other : r ≠ r') (hb : InRange b (base + r * w, w)) :
    ¬ InRange b (base + r' * w, w) := by
  unfold InRange at *
  dsimp only at *
  rcases Nat.lt_or_gt_of_ne other with before | after
  · have := whole_inside (w := w) before
    omega
  · have := whole_inside (w := w) after
    omega

namespace Desc

variable {d : Desc}

/-- The planes of a tensor that lie apart share no byte. -/
theorem planesApart.spec (apart : d.planesApart) :
    (d.tagV = true → ∀ b, InRange b (d.base, d.span) → ¬ InRange b (d.tagPtr, d.tagLen)) ∧
      (d.scaleV = true → ∀ b, InRange b (d.base, d.span) → ¬ InRange b (d.scalePtr, d.scaleLen)) ∧
      (d.tagV = true → d.scaleV = true → ∀ b, InRange b (d.tagPtr, d.tagLen) → ¬ InRange b (d.scalePtr, d.scaleLen)) := by
  unfold planesApart hulls at apart
  cases htag : d.tagV <;> cases hscale : d.scaleV <;>
    simp [htag, hscale] at apart ⊢
  · exact fun b => not_inRange_of_overlap apart
  · exact fun b => not_inRange_of_overlap apart
  · exact ⟨fun b => not_inRange_of_overlap apart.1.1, fun b => not_inRange_of_overlap apart.1.2, fun b => not_inRange_of_overlap apart.2⟩

section
variable (formed : d.Formed) {r : Nat} (hr : r < d.rows)
include formed

theorem Formed.inRange_data {b : Nat} (hb : InRange b (d.rowAddr (d.rowIdx r), d.rowBytes)) : InRange b (d.base, d.span) := by
  have := formed.row_inside r
  unfold InRange at *
  dsimp only at *
  omega

include hr

/-- The bytes of a row lie in the planes of its tensor. -/
theorem Formed.touches_inside {b : Nat} (hb : d.touches r b) : ∃ h ∈ d.hulls, InRange b h := by
  unfold hulls
  rcases hb with data | ⟨htag, tag⟩ | ⟨hscale, scale⟩
  · have := formed.row_inside r
    refine ⟨(d.base, d.span), by simp, ?_⟩
    unfold InRange at *
    dsimp only at *
    omega
  · exact ⟨(d.tagPtr, d.tagLen), by simp [htag], inRange_entry hr tag⟩
  · exact ⟨(d.scalePtr, d.scaleLen), by simp [hscale], inRange_entry hr scale⟩

/-- Two rows of a tensor share no byte, where it may be written and its planes lie apart. -/
theorem Formed.touches_apart (writable : d.writable = true) (apart : d.planesApart) {r' : Nat} (hr' : r' < d.rows) (other : r ≠ r')
    {b : Nat} (hb : d.touches r b) : ¬ d.touches r' b := by
  obtain ⟨tags, scales, side⟩ := apart.spec
  have data := formed.rows_apart writable hr hr' other
  rcases hb with here | ⟨htag, here⟩ | ⟨hscale, here⟩ <;> rintro (there | ⟨htag', there⟩ | ⟨hscale', there⟩)
  · unfold RowsApart at data
    unfold InRange at *
    dsimp only at *
    omega
  · exact tags htag' b (formed.inRange_data here) (inRange_entry hr' there)
  · exact scales hscale' b (formed.inRange_data here) (inRange_entry hr' there)
  · exact tags htag b (formed.inRange_data there) (inRange_entry hr here)
  · exact not_inRange_entry other here there
  · exact side htag hscale' b (inRange_entry hr here) (inRange_entry hr' there)
  · exact scales hscale b (formed.inRange_data there) (inRange_entry hr here)
  · exact side htag' hscale b (inRange_entry hr' there) (inRange_entry hr here)
  · exact not_inRange_entry other here there

end

/-! ## One row written -/

variable (d)

/-- The tag bytes of a row written, where the tensor has them. -/
def putTags (r : Nat) (xs : List Nat) (m : Memory) : Memory :=
  if d.tagV then Memory.write m (d.tagRow r).1 (rowTags d.fmt xs) else m

/-- The scale bytes of a row written, where the tensor has them. -/
def putScales (r : Nat) (scales : List Byte) (m : Memory) : Memory :=
  if d.scaleV then Memory.write m (d.scaleRow r).1 scales else m

section
variable {r : Nat} (hr : r < d.rows) (m : Memory) (xs : List Nat) (scales : List Byte)

include hr in
theorem putRow_eq : d.putRow m (d.rowIdx r) xs scales =
    d.putScales r scales (d.putTags r xs (Memory.write m (d.rowAddr (d.rowIdx r)) (packRow d.fmt xs))) := by
  simp only [putRow, d.rowNo_rowIdx hr]
  rfl

variable {xs scales} {b : Nat}

theorem get_putTags (hx : xs.length ≤ dim d.ext 0) (outside : d.tagV = true → ¬ InRange b (d.tagRow r)) :
    Memory.get (d.putTags r xs m) b = Memory.get m b := by
  have bytes : ceilDiv xs.length 64 ≤ ceilDiv (dim d.ext 0) 64 := Nat.div_le_div_right (by omega)
  unfold putTags
  split
  case isTrue htag =>
    have := outside htag
    unfold InRange tagRow at *
    rw [Memory.get_write, length_rowTags, if_neg (by dsimp only at *; omega)]
  case isFalse => rfl

theorem get_putScales (hs : scales.length ≤ ceilDiv (dim d.ext 0) 32) (outside : d.scaleV = true → ¬ InRange b (d.scaleRow r)) :
    Memory.get (d.putScales r scales m) b = Memory.get m b := by
  unfold putScales
  split
  case isTrue hscale =>
    have := outside hscale
    unfold InRange scaleRow at *
    rw [Memory.get_write, if_neg (by dsimp only at *; omega)]
  case isFalse => rfl

end

section
variable {d} {r : Nat} (hr : r < d.rows) {xs : List Dec} (hn : xs.length ≤ dim d.ext 0) (mode : Rnd) (m : Memory)
include hn

theorem length_codes_le : (encodeRow d.fmt d.scaleV xs mode).1.length ≤ dim d.ext 0 := by rwa [length_codes]

theorem length_scales_le : (encodeRow d.fmt d.scaleV xs mode).2.1.length ≤ ceilDiv (dim d.ext 0) 32 := by
  rw [length_scales]
  split
  · exact Nat.div_le_div_right (by omega)
  · exact Nat.zero_le _

include hr

theorem get_putDecs_of_untouched {b : Nat} (outside : ¬ d.touches r b) :
    Memory.get (d.putDecs m (d.rowIdx r) xs mode).1 b = Memory.get m b := by
  simp only [touches, not_or, not_and] at outside
  obtain ⟨data, tags, scales⟩ := outside
  have bytes : d.fmt.bytes xs.length ≤ d.rowBytes := bitBytes_mono _ hn
  rw [putDecs, putRow_eq _ hr, get_putScales _ _ (length_scales_le hn mode) scales,
    get_putTags _ _ (length_codes_le hn mode) tags, Memory.get_write, length_packRow, length_codes, if_neg]
  unfold InRange at data
  dsimp only at data
  omega

/-- A row holds the values written to it, where the planes of its tensor lie apart. -/
theorem rowHolds_putDecs (formed : d.Formed) (apart : d.planesApart) :
    d.rowHolds (d.putDecs m (d.rowIdx r) xs mode).1 (d.rowIdx r) xs mode := by
  obtain ⟨tags, scales, side⟩ := apart.spec
  have codesLe := length_codes_le hn mode
  have scalesLe := length_scales_le hn mode
  have bytes : d.fmt.bytes xs.length ≤ d.rowBytes := bitBytes_mono _ hn
  have tagBytes : ceilDiv xs.length 64 ≤ ceilDiv (dim d.ext 0) 64 := Nat.div_le_div_right (by omega)
  have fits := codes_lt d.fmt d.scaleV xs mode
  have length := length_codes d.fmt d.scaleV xs mode
  have lengthScales := length_scales d.fmt d.scaleV xs mode
  unfold rowHolds
  simp only [putDecs, putRow_eq _ hr, d.rowNo_rowIdx hr]
  generalize encodeRow d.fmt d.scaleV xs mode = row at *
  refine ⟨?_, fun htag => ?_, fun hscale => ?_⟩
  · have back := loadRow_write_packRow d.fmt fits m (d.rowAddr (d.rowIdx r))
    rw [length] at back
    refine (loadRow_congr fun x lo hi => ?_).trans back
    have inside : InRange x (d.base, d.span) := formed.inRange_data ⟨lo, by dsimp only; omega⟩
    rw [get_putScales _ _ scalesLe fun hscale there => scales hscale x inside (inRange_entry hr there),
      get_putTags _ _ codesLe fun htag there => tags htag x inside (inRange_entry hr there)]
  · have back := Memory.read_write (rowTags d.fmt row.1) (Memory.write m (d.rowAddr (d.rowIdx r)) (packRow d.fmt row.1)) (d.tagRow r).1
    rw [length_rowTags, length] at back
    refine (Memory.read_congr fun x lo hi => ?_).trans back
    have inside : InRange x (d.tagPtr, d.tagLen) := inRange_entry hr ⟨lo, by omega⟩
    rw [get_putScales _ _ scalesLe fun hscale there => side htag hscale x inside (inRange_entry hr there), putTags, if_pos htag]
  · have back := Memory.read_write row.2.1
      (d.putTags r row.1 (Memory.write m (d.rowAddr (d.rowIdx r)) (packRow d.fmt row.1))) (d.scaleRow r).1
    rw [lengthScales, if_pos hscale] at back
    rw [putScales, if_pos hscale]
    exact back

/-- What a row holds rests on its bytes alone. -/
theorem rowHolds_congr {m m' : Memory} (same : ∀ b, d.touches r b → Memory.get m' b = Memory.get m b)
    (holds : d.rowHolds m (d.rowIdx r) xs mode) : d.rowHolds m' (d.rowIdx r) xs mode := by
  have bytes : d.fmt.bytes xs.length ≤ d.rowBytes := bitBytes_mono _ hn
  have tagBytes : ceilDiv xs.length 64 ≤ ceilDiv (dim d.ext 0) 64 := Nat.div_le_div_right (by omega)
  have scaleBytes : ceilDiv xs.length 32 ≤ ceilDiv (dim d.ext 0) 32 := Nat.div_le_div_right (by omega)
  unfold rowHolds at *
  simp only [d.rowNo_rowIdx hr] at *
  obtain ⟨codes, tags, scales⟩ := holds
  refine ⟨(loadRow_congr fun x lo hi => same x (.inl ⟨lo, ?_⟩)).trans codes, fun htag =>
    (Memory.read_congr fun x lo hi => same x (.inr (.inl ⟨htag, lo, ?_⟩))).trans (tags htag), fun hscale =>
    (Memory.read_congr fun x lo hi => same x (.inr (.inr ⟨hscale, lo, ?_⟩))).trans (scales hscale)⟩
  · dsimp only; omega
  · dsimp only [tagRow] at hi ⊢; omega
  · dsimp only [scaleRow] at hi ⊢; omega

end

/-! ## All rows written -/

/-- Rows written one after the other, each with the values that a function gives for it. -/
def putRows (mode : Rnd) (vals : Nat × List Nat → List Dec) (rs : List (Nat × List Nat)) (m : Memory) : Memory :=
  rs.foldl (fun m r => (d.putDecs m r.2 (vals r) mode).1) m

theorem putDecs_nil (m : Memory) (o : List Nat) (mode : Rnd) : (d.putDecs m o [] mode).1 = m := by
  unfold putDecs putRow encodeRow
  cases d.scaleV <;> cases d.tagV <;> rfl

theorem rowHolds_nil (m : Memory) (o : List Nat) (mode : Rnd) : d.rowHolds m o [] mode := by
  unfold rowHolds encodeRow
  cases d.scaleV <;> exact ⟨rfl, fun _ => rfl, fun _ => rfl⟩

theorem keepsRest_refl (m : Memory) : d.keepsRest m m := fun _ _ => rfl

/-- The rows of a tensor that pass a test, each written with `n` values: they hold them, and other bytes stay. -/
theorem putRows_spec {n : Nat} (target : n = 0 ∨ (d.Formed ∧ d.writable = true ∧ n ≤ dim d.ext 0)) (apart : d.planesApart) (mode : Rnd)
    (p : Nat × List Nat → Bool) {vals : Nat × List Nat → List Dec} (length : ∀ r, (vals r).length = n) (m : Memory) :
    (∀ r ∈ d.allRows.filter p, d.rowHolds (d.putRows mode vals (d.allRows.filter p) m) r.2 (vals r) mode) ∧
      d.keepsRest m (d.putRows mode vals (d.allRows.filter p) m) := by
  rcases target with rfl | ⟨formed, writable, le⟩
  · have none (r : Nat × List Nat) : vals r = [] := List.eq_nil_of_length_eq_zero (length r)
    have same : d.putRows mode vals (d.allRows.filter p) m = m := by
      simp only [putRows, none, putDecs_nil]
      exact List.foldl_fixed _
    rw [same]
    exact ⟨fun r _ => by rw [none]; exact d.rowHolds_nil ..,  d.keepsRest_refl m⟩
  have row {r : Nat × List Nat} (h : r ∈ d.allRows.filter p) : r.1 < d.rows ∧ r.2 = d.rowIdx r.1 :=
    d.mem_allRows.mp (List.mem_of_mem_filter h)
  have within (r : Nat × List Nat) (h : r ∈ d.allRows.filter p) (t : Memory) (b : Nat) (hb : ¬ d.touches r.1 b) :
      Memory.get (d.putDecs t r.2 (vals r) mode).1 b = Memory.get t b := by
    rw [(row h).2, get_putDecs_of_untouched (row h).1 (length r ▸ le) mode t hb]
  have disjoint : (d.allRows.filter p).Pairwise fun r r' => ∀ b, d.touches r.1 b → ¬ d.touches r'.1 b :=
    (d.pairwise_allRows.filter p).imp_of_mem fun h h' other b => formed.touches_apart (row h).1 writable apart (row h').1 other
  refine ⟨fun r h => ?_, fun b outside => get_foldl_of_untouched within (fun r h hb => ?_) m⟩
  · obtain ⟨t, same⟩ := get_foldl_of_touched within disjoint h m
    obtain ⟨hr, idx⟩ := row h
    rw [idx] at same ⊢
    exact rowHolds_congr hr (length r ▸ le) mode same (rowHolds_putDecs hr (length r ▸ le) mode t formed apart)
  · obtain ⟨hull, member, inside⟩ := formed.touches_inside (row h).1 hb
    have := outside hull member
    unfold InRange at inside
    omega

end Desc

end Sys2Proof.Machine
end

section
/-!
# The element ops (spec/07 R199 to R201, spec/08 R204 to R209)

DRAIN, WHISK, CONVERT and RANDOM write the live rows of one tensor with a row of values each; TAGFILL writes the tags of a tensor.
-/
namespace Sys2Proof.Machine

/-! ## The tensors that an op names -/

theorem mapM_eq_ok {α β : Type} {f : α → Check β} {l : List α} {ys : List β} (h : l.mapM f = .ok ys) :
    List.Forall₂ (fun x y => f x = .ok y) l ys := by
  have every : Gives (l.mapM f) (List.Forall₂ (fun x y => f x = .ok y) l) := by
    clear h
    induction l with
    | nil => exact gives_ok .nil
    | cons x l ih =>
      rw [List.mapM_cons]
      exact gives_bind_eq fun y hy => gives_bind_eq fun ys hys => gives_ok (.cons hy (ih ys hys))
  exact every ys h

/-- Of the tensors that an op names each is the one of its reference, formed, and may be written if it is. -/
theorem Core.refs_at {k : Core} {o : Op} {n : Nat} {written : List Nat} {ds : List Desc} (h : k.refs o n written = .ok ds) :
    ds.length = n ∧ ∀ i (hi : i < ds.length),
      k.ref o i = .ok ds[i] ∧ ds[i].Formed ∧ (written.contains i = true → ds[i].writable = true) := by
  have each := mapM_eq_ok h
  have length : ds.length = n := by rw [← each.length_eq, List.length_range]
  refine ⟨length, fun i hi => ?_⟩
  have made := each.get (i := i) (by rw [List.length_range]; omega) hi
  rw [List.get_eq_getElem, List.getElem_range] at made
  have named : Gives (k.ref o i >>= fun d => need (!written.contains i || d.writable) 0x08 >>= fun _ => .ok d) fun d =>
      k.ref o i = .ok d ∧ d.Formed ∧ (written.contains i = true → d.writable = true) :=
    gives_bind_eq fun d hd => gives_need fun checked =>
      gives_ok ⟨hd, Core.formed_of_desc d hd, fun writes => by rwa [writes] at checked⟩
  exact named _ made

/-- The tensor that an op writes first: formed and writable, unless the op names none. -/
theorem Core.refs_output {k : Core} {o : Op} {n : Nat} {ds : List Desc} (h : k.refs o n [0] = .ok ds) :
    ds = [] ∨ ((ds.getD 0 planMatmul.default_desc).Formed ∧ (ds.getD 0 planMatmul.default_desc).writable = true) := by
  obtain ⟨-, each⟩ := Core.refs_at h
  cases ds with
  | nil => exact .inl rfl
  | cons d ds =>
    obtain ⟨-, formed, writable⟩ := each 0 (Nat.zero_lt_succ _)
    exact .inr ⟨formed, writable rfl⟩

/-! ## The least extents -/

theorem dim_minExt_le (a b : List Nat) (i : Nat) : dim (minExt a b) i ≤ dim a i ∧ dim (minExt a b) i ≤ dim b i := by
  unfold dim minExt
  by_cases hi : i < ((a.zip b).map fun x => min x.1 x.2).length
  · have both := hi
    simp only [List.length_map, List.length_zip] at both
    rw [List.getD_eq_getElem _ _ hi, List.getD_eq_getElem a _ (by omega), List.getD_eq_getElem b _ (by omega), List.getElem_map,
      List.getElem_zip]
    exact ⟨Nat.min_le_left .., Nat.min_le_right ..⟩
  · rw [List.getD_eq_default _ _ (by omega)]
    exact ⟨Nat.zero_le _, Nat.zero_le _⟩

theorem length_rt (k : Core) (d : Desc) : (k.rt d).length = 6 := by rw [Core.rt, List.length_map, List.length_range]

/-- The least extents are those of no other tensor exceeded. -/
theorem foldl_minExt_spec (k : Core) (ds : List Desc) (e : List Nat) (he : e.length = 6) :
    let least := ds.foldl (fun e x => minExt e (k.rt x)) e
    least.length = 6 ∧ (∀ i, dim least i ≤ dim e i) ∧ ∀ d ∈ ds, ∀ i, dim least i ≤ dim (k.rt d) i := by
  induction ds generalizing e with
  | nil => exact ⟨he, fun _ => Nat.le_refl _, fun d hd => absurd hd List.not_mem_nil⟩
  | cons d ds ih =>
    obtain ⟨length, first, others⟩ := ih (minExt e (k.rt d)) (by simp [minExt, he, length_rt])
    refine ⟨length, fun i => (first i).trans (dim_minExt_le ..).1, List.forall_mem_cons.mpr ⟨fun i => ?_, others⟩⟩
    exact (first i).trans (dim_minExt_le ..).2

theorem least_spec (k : Core) {ds : List Desc} {d : Desc} (h : d ∈ ds) :
    (k.least ds).length = 6 ∧ ∀ i, dim (k.least ds) i ≤ dim (k.rt d) i := by
  cases ds with
  | nil => exact absurd h List.not_mem_nil
  | cons x ds =>
    obtain ⟨length, first, others⟩ := foldl_minExt_spec k ds (k.rt x) (length_rt k x)
    rcases List.mem_cons.mp h with rfl | later
    · exact ⟨length, first⟩
    · exact ⟨length, others d later⟩

/-- A tensor that is fully masked has no live element, over extents that its own bound (spec/10 R255). -/
theorem dim_zero_of_masked {d : Desc} (formed : d.Formed) {rt live : List Nat} (length : live.length = 6) (le : ∀ i, dim live i ≤ dim rt i)
    (masked : d.masked rt = true) {r : Nat × List Nat} (hr : r ∈ d.liveRows live) : dim live 0 = 0 := by
  obtain ⟨rowOf, isLive⟩ := List.mem_filter.mp hr
  obtain ⟨-, idx⟩ := d.mem_allRows.mp rowOf
  have rank := formed.rank_le
  obtain ⟨x, hx, zero⟩ := List.any_eq_true.mp masked
  obtain ⟨i, hi, rfl⟩ := List.mem_iff_getElem.mp hx
  rw [List.getElem_take, beq_iff_eq] at zero
  rw [List.length_take] at hi
  have none : dim live i = 0 := by
    have := le i
    rwa [dim, dim, List.getD_eq_getElem rt _ (by omega), zero, Nat.le_zero] at this
  cases i with
  | zero => exact none
  | succ i =>
    have width : r.2.length = d.rank - 1 := by
      rw [idx, Desc.rowIdx, length_unrank, List.length_drop, List.length_take, formed.length_ext]
      omega
    have inRange : i < (r.2.zip ((live.take d.rank).drop 1)).length := by
      rw [List.length_zip, List.length_drop, List.length_take]
      omega
    have small := List.all_eq_true.mp isLive _ (List.getElem_mem inRange)
    simp only [List.getElem_zip, List.getElem_drop, List.getElem_take, decide_eq_true_eq, Nat.add_comm 1 i] at small
    rw [dim, List.getD_eq_getElem _ _ (by omega)] at none
    omega

/-! ## A core that writes rows of values -/

/-- A row of a tensor written with values, whose status is noted. -/
def Core.writeRow (t : Core) (d : Desc) (mode : Rnd) (r : Nat × List Nat) (xs : List (Dec × Arith)) : Core :=
  let p := d.putDecs t.scratch r.2 (xs.map Prod.fst) mode
  ({ t with scratch := p.1 } : Core).orArith ((xs.foldl (fun (s : Arith) x => s.or x.2) {}).or p.2)

/-- Rows of a tensor written one after the other. -/
def Core.writeRows (k : Core) (d : Desc) (mode : Rnd) (vals : Nat × List Nat → List (Dec × Arith)) (rs : List (Nat × List Nat)) : Core :=
  rs.foldl (fun t r => t.writeRow d mode r (vals r)) k

section
variable (d : Desc) (mode : Rnd) (vals : Nat × List Nat → List (Dec × Arith))

theorem Core.writeRows_effect (rs : List (Nat × List Nat)) (k : Core) :
    ∃ a, k.writeRows d mode vals rs = { k with scratch := d.putRows mode (fun r => (vals r).map Prod.fst) rs k.scratch, arith := a } := by
  induction rs generalizing k with
  | nil => exact ⟨k.arith, rfl⟩
  | cons r rs ih =>
    obtain ⟨a, rest⟩ := ih (k.writeRows d mode vals [r])
    exact ⟨a, rest⟩

theorem State.StoresKept.writeRows {s t : State} {c : Nat} (h : s.StoresKept t c) (rs : List (Nat × List Nat)) :
    s.ScratchOp (t.setCore c ((t.core c).writeRows d mode vals rs)) c := by
  obtain ⟨a, effect⟩ := Core.writeRows_effect d mode vals rs (t.core c)
  rw [effect]
  refine ⟨h.rowOp.setCore rfl rfl, ?_, ?_⟩
  all_goals rw [State.core_setCore, if_pos rfl]
  · exact h.stock
  · exact h.rows

/-- A tensor that an op may write over some extents: formed and writable, unless they hold no element; they hold none where it is masked. -/
structure Desc.Receives (d : Desc) (rt live : List Nat) : Prop where
  target : dim live 0 = 0 ∨ (d.Formed ∧ d.writable = true ∧ dim live 0 ≤ dim d.ext 0)
  masked : d.masked rt = true → ∀ r ∈ d.liveRows live, dim live 0 = 0

variable {d} {rt live : List Nat} (receives : d.Receives rt live) (apart : d.planesApart) {n : Nat} (hn : n ≤ dim live 0)
  {vals} (length : ∀ r, (vals r).length = n) {p : Nat × List Nat → Bool}
include receives apart hn length

/-- Rows that were written hold their values, where the planes of their tensor lie apart. -/
theorem Core.writeRows_spec (k : Core) :
    let u := k.writeRows d mode vals (d.allRows.filter p)
    (∀ r ∈ d.allRows.filter p, d.rowHolds u.scratch r.2 ((vals r).map Prod.fst) mode) ∧ d.keepsRest k.scratch u.scratch := by
  have target : n = 0 ∨ (d.Formed ∧ d.writable = true ∧ n ≤ dim d.ext 0) :=
    receives.target.imp (fun none => by omega) fun ⟨formed, writable, le⟩ => ⟨formed, writable, hn.trans le⟩
  obtain ⟨a, effect⟩ := Core.writeRows_effect d mode vals (d.allRows.filter p) k
  rw [effect]
  exact Desc.putRows_spec d target apart mode p (fun r => by rw [List.length_map, length]) k.scratch

/-- What an op leaves that writes live rows unless its tensor is masked. -/
theorem State.StoresKept.fill {s t : State} {c : Nat} (h : s.StoresKept t c) (own : ∀ r ∈ d.allRows.filter p, r ∈ d.liveRows live) :
    let u := if d.masked rt then t else t.setCore c ((t.core c).writeRows d mode vals (d.allRows.filter p))
    s.ScratchOp u c ∧ (∀ r ∈ d.allRows.filter p, d.rowHolds (u.core c).scratch r.2 ((vals r).map Prod.fst) mode) ∧
      d.keepsRest (s.core c).scratch (u.core c).scratch := by
  intro u
  cases masked : d.masked rt with
  | true =>
    have same : u = t := if_pos masked
    rw [same, h.scratch]
    refine ⟨⟨h.rowOp, h.stock, h.rows⟩, fun r hr => ?_, d.keepsRest_refl _⟩
    have none := receives.masked masked r (own r hr)
    rw [List.eq_nil_of_length_eq_zero (show (vals r).length = 0 by rw [length]; omega)]
    exact d.rowHolds_nil ..
  | false =>
    have written : u = t.setCore c ((t.core c).writeRows d mode vals (d.allRows.filter p)) := if_neg (by rw [masked]; decide)
    rw [written, State.core_setCore, if_pos rfl, ← h.scratch]
    exact ⟨h.writeRows .., Core.writeRows_spec mode receives apart hn length _⟩

end

theorem receives_of_mem (k : Core) {ds : List Desc} {d : Desc} (h : d ∈ ds) (formed : d.Formed) (writable : d.writable = true) :
    d.Receives (k.rt d) (k.least ds) := by
  obtain ⟨length, le⟩ := least_spec k h
  exact ⟨.inr ⟨formed, writable, (le 0).trans (dim_rt_le formed k)⟩, fun masked _ hr => dim_zero_of_masked formed length le masked hr⟩

/-- The tensor that an op writes first. -/
theorem receives_output {k : Core} {o : Op} {n : Nat} {ds : List Desc} (h : k.refs o n [0] = .ok ds) :
    let d := ds.getD 0 planMatmul.default_desc
    d.Receives (k.rt d) (k.least ds) := by
  intro d
  rcases Core.refs_output h with rfl | ⟨formed, writable⟩
  · exact ⟨.inl rfl, fun _ _ _ => rfl⟩
  · cases ds with
    | nil => exact absurd formed.length_ext (by decide)
    | cons x ds => exact receives_of_mem k (.head _) formed writable

/-- An op that waits for the beats of a port FIFO. -/
theorem State.StoresKept.feed {s t : State} {c : Nat} (h : s.StoresKept t c) (port opAddr : Nat) (due : List (Nat × Nat)) (task : Task) :
    let u := t.feed c port opAddr due task
    s.ScratchOp u c ∧ (u.core c).scratch = (s.core c).scratch ∧
      ∃ beats, (u.core c).jobs = (s.core c).jobs ++ [⟨port, opAddr, beats, [], task⟩] := by
  refine ⟨⟨h.rowOp.modCore (fun _ => rfl) fun _ => rfl, ?_, ?_⟩, ?_, due.map fun b => (t.cyc + b.1, b.2), ?_⟩
  all_goals rw [State.feed, State.core_modCore, if_pos rfl]
  · exact h.stock
  · exact h.rows
  · exact h.scratch
  · exact congrArg (· ++ _) h.jobs

/-- The extents of a tensor, and the least of several, rest on the shape alone. -/
theorem Core.rt_congr {x y : Core} (h : y.shape = x.shape) : y.rt = x.rt := by
  funext d
  rw [Core.rt, Core.rt, h]

theorem Core.least_congr {x y : Core} (h : y.shape = x.shape) : y.least = x.least := by
  funext ds
  simp only [Core.least, Core.rt_congr h]

/-! ## DRAIN (spec/07 R199 to R201) -/

/-- What a DRAIN works with: its tensor, its fields and its program. -/
structure DrainArgs where
  d : Desc
  rt : List Nat
  route : Nat
  srow : Nat
  rows : Nat
  ncol : Nat
  vecs : Nat
  mode : Rnd
  prog : Option WBlock
  opAddr : Nat

/-- The arguments of a DRAIN. -/
def Core.drainArgs (k : Core) (o : Op) (d : Desc) (prog : Option WBlock) : DrainArgs :=
  ⟨d, k.rt d, o.var % 4, o.fld 9 0, o.fld 20 10, o.fld 44 21, o.fld 48 45, o.rounding 50 49, prog, o.addr⟩

namespace DrainArgs

variable (a : DrainArgs)

/-- The number of elements it writes in a row. -/
def n : Nat := min a.ncol (dim a.rt 0)

/-- Is a row one that it writes? -/
def writes (r : Nat × List Nat) : Bool := decide (r.1 < if a.vecs = 0 then a.rows else a.vecs) && rowLive a.d a.rt r.2

/-- The rows that it writes. -/
def outRows : List (Nat × List Nat) := (a.d.liveRows a.rt).filter fun r => decide (r.1 < if a.vecs = 0 then a.rows else a.vecs)

/-- The stock element of an output element. -/
def element (k : Core) (r : Nat × List Nat) (j : Nat) : Elem := k.elem (a.srow + a.vecs * (j / 128) + r.1) (j % 128)

/-- The value of an output element (R200). -/
def value (k : Core) (r : Nat × List Nat) (j : Nat) : Dec × Arith :=
  drainValue a.route a.d.fmt a.mode a.prog k.scratch (a.element k r j) (k.elem (a.srow + a.rows) (r.1 % 128)) j r.1
    (a.d.logical a.rt j r.2) a.opAddr

/-- The values of an output row. -/
def values (k : Core) (r : Nat × List Nat) : List (Dec × Arith) := (List.range a.n).map (a.value k r)

theorem values_congr {x y : Core} (scratch : y.scratch = x.scratch) (stock : y.stock = x.stock) : a.values y = a.values x := by
  funext r
  exact List.map_congr_left fun j _ => by simp only [value, element, scratch, Core.elem_congr stock]

theorem value_plain (route : a.route = 0) (prog : a.prog = none) (k : Core) (r : Nat × List Nat) (j : Nat) :
    a.value k r j = ((a.element k r j).dec, {}) := by
  rw [value, route, prog]
  rfl

theorem outRows_eq : a.outRows = a.d.allRows.filter a.writes := List.filter_filter ..

/-- What a DRAIN does as it issues. -/
def enter (c : Nat) (t : State) : State :=
  if a.d.masked a.rt then t else t.setCore c ((t.core c).writeRows a.d a.mode (a.values (t.core c)) a.outRows)

theorem own_writes {r : Nat × List Nat} (h : r ∈ a.d.allRows.filter a.writes) : r ∈ a.d.liveRows a.rt :=
  List.mem_of_mem_filter (a.outRows_eq ▸ h)

/-- What a DRAIN leaves as it issues. -/
theorem enter_spec {s t : State} {c : Nat} (h : s.StoresKept t c) (receives : a.d.Receives a.rt a.rt) (apart : a.d.planesApart) :
    let k := s.core c
    let u := a.enter c t
    s.ScratchOp u c ∧ a.d.keepsRest k.scratch (u.core c).scratch ∧
      ∀ r ∈ a.d.liveRows a.rt, r.1 < (if a.vecs = 0 then a.rows else a.vecs) →
        a.d.rowHolds (u.core c).scratch r.2 ((List.range a.n).map fun j => (a.value k r j).1) a.mode := by
  intro k u
  obtain ⟨scratchOp, holds, rest⟩ := h.fill a.mode receives apart (n := a.n) (Nat.min_le_right ..) (vals := a.values (t.core c))
    (fun r => by rw [values, List.length_map, List.length_range]) (p := a.writes) fun r hr => a.own_writes hr
  rw [← a.outRows_eq] at scratchOp holds rest
  refine ⟨scratchOp, rest, fun r live inside => ?_⟩
  have held := holds r (List.mem_filter.mpr ⟨live, decide_eq_true inside⟩)
  have vals : (a.values (t.core c) r).map Prod.fst = (List.range a.n).map fun j => (a.value k r j).1 := by
    rw [a.values_congr h.scratch h.stock, values, List.map_map]
    rfl
  rwa [vals] at held

end DrainArgs

/-- What the plan of a DRAIN gives. -/
theorem gives_drain (s : State) (c : Nat) (o : Op) {d : Desc} {prog : Option WBlock} (href : (s.core c).ref o 0 = .ok d)
    (hprog : (if o.var % 4 = 1 then ((s.core c).whiskBlock o (o.fld 74 51) (dim d.ext 0) d.rows).map some else .ok none) = .ok prog) :
    Gives (planDrain s c o) fun l => Gives l.go fun i =>
      let a := (s.core c).drainArgs o d prog
      a.d.Receives a.rt a.rt ∧ ∀ id t, i.effect id t = a.enter c t := by
  unfold planDrain
  refine gives_bind_eq fun ds hrefs => ?_
  obtain ⟨length, each⟩ := Core.refs_at hrefs
  obtain ⟨named, formed, writable⟩ := each 0 (by omega)
  obtain rfl := Except.ok.inj (named.symm.trans href)
  obtain ⟨d, rfl⟩ := List.length_eq_one_iff.mp length
  have receives := receives_of_mem (ds := [d]) (s.core c) (.head _) formed (writable rfl)
  refine gives_bind fun _ => gives_bind fun _ => gives_bind fun _ => gives_bind fun _ => gives_branch_eq fun prog' same => ?_
  obtain rfl := Except.ok.inj (hprog.symm.trans same)
  refine gives_bind fun _ => gives_legal (gives_bind fun _ => ?_)
  cases prog
  all_goals
    refine gives_bind fun _ => gives_bind fun _ => ?_
    exact gives_when (gives_ok ⟨receives, fun id t => rfl⟩)

theorem planFor_drain {o : Op} (h : o.opc = 0x05) : planFor o = planDrain := by simp only [planFor, h]

/-- A row of plain values holds each as it is rounded alone (spec/02 R67). -/
theorem loadElem_of_rowHolds {d : Desc} {m : Memory} {o : List Nat} {xs : List Dec} {mode : Rnd} (holds : d.rowHolds m o xs mode)
    (plain : d.scaleV = false) {j : Nat} (hj : j < xs.length) :
    loadElem m d.fmt (d.rowAddr o) j = (encode d.fmt xs[j] mode).1 := by
  obtain ⟨codes, -⟩ := holds
  have at_ := congrArg (·[j]?) codes
  simpa [loadRow, encodeRow, plain, hj] using at_

/-! ## WHISK (spec/08 R204) -/

namespace WhiskArgs

variable (a : WhiskArgs)

/-- The values of an output row. -/
def values (fifo : List Byte) (m : Memory) (r : Nat × List Nat) : List (Dec × Arith) :=
  (List.range (dim a.live 0)).map (a.result fifo m r.1 r.2)

theorem run_eq (fifo : List Byte) (k : Core) :
    a.run fifo k = k.writeRows a.out a.mode (a.values fifo k.scratch) (a.out.liveRows a.live) := rfl

/-- What a WHISK does as it issues. -/
def enter (due : List (Nat × Nat)) (c : Nat) (t : State) : State :=
  if a.out.masked a.rt then t else if a.w.fifo then t.feed c 1 a.opAddr due (.whisk a) else t.setCore c (a.run [] (t.core c))

theorem map_values (fifo : List Byte) (m : Memory) (r : Nat × List Nat) :
    (a.values fifo m r).map Prod.fst = (List.range (dim a.live 0)).map fun i => (a.result fifo m r.1 r.2 i).1 := List.map_map ..

theorem length_values (fifo : List Byte) (m : Memory) (r : Nat × List Nat) : (a.values fifo m r).length = dim a.live 0 := by
  rw [values, List.length_map, List.length_range]

section
variable {a} (receives : a.out.Receives a.rt a.live) (apart : a.out.planesApart)
include receives apart

/-- What a run of a WHISK leaves. -/
theorem run_done (fifo : List Byte) (k : Core) : a.Done fifo k.scratch (a.run fifo k).scratch := by
  obtain ⟨holds, rest⟩ := Core.writeRows_spec a.mode receives apart (Nat.le_refl _) (a.length_values fifo k.scratch)
    (p := fun r => rowLive a.out a.live r.2) k
  exact ⟨fun r hr => a.map_values fifo k.scratch r ▸ holds r hr, rest⟩

/-- What a WHISK leaves as it issues that no port FIFO feeds. -/
theorem enter_spec {s t : State} {c : Nat} (h : s.StoresKept t c) (due : List (Nat × Nat)) (fifo : a.w.fifo = false) :
    s.ScratchOp (a.enter due c t) c ∧ a.Done [] (s.core c).scratch ((a.enter due c t).core c).scratch := by
  obtain ⟨scratchOp, holds, rest⟩ := h.fill a.mode receives apart (Nat.le_refl _) (a.length_values [] (t.core c).scratch)
    (p := fun r => rowLive a.out a.live r.2) fun r hr => hr
  have entered : a.enter due c t = if a.out.masked a.rt then t else t.setCore c (a.run [] (t.core c)) := by
    simp only [enter, fifo, Bool.false_eq_true, if_false]
  rw [entered, run_eq]
  refine ⟨scratchOp, fun r hr => ?_, rest⟩
  have held := holds r hr
  rw [a.map_values] at held
  rw [← h.scratch]
  exact held

end

/-- What a WHISK leaves as it issues that waits for beats. -/
theorem enter_waits {s t : State} {c : Nat} (h : s.StoresKept t c) (due : List (Nat × Nat)) (fifo : a.w.fifo = true)
    (live : a.out.masked a.rt = false) : let u := a.enter due c t
    s.ScratchOp u c ∧ (u.core c).scratch = (s.core c).scratch ∧
      ∃ beats, (u.core c).jobs = (s.core c).jobs ++ [⟨1, a.opAddr, beats, [], .whisk a⟩] := by
  have entered : a.enter due c t = t.feed c 1 a.opAddr due (.whisk a) := by
    simp only [enter, live, fifo, if_true, Bool.false_eq_true, if_false]
  rw [entered]
  exact h.feed ..

end WhiskArgs

theorem Core.whiskArgs_congr {x y : Core} (scratch : y.scratch = x.scratch) (shape : y.shape = x.shape) (o : Op) (ds : List Desc)
    (w : WBlock) (seed : Nat) : y.whiskArgs o ds w seed = x.whiskArgs o ds w seed := by
  simp only [Core.whiskArgs, scratch, Core.rt_congr shape, Core.least_congr shape]

/-- What the plan of a WHISK gives. -/
theorem gives_whisk (s : State) (c : Nat) (o : Op) {ds : List Desc} {w : WBlock} {seed : Nat}
    (hrefs : (s.core c).refs o o.nd [0] = .ok ds)
    (hw : (s.core c).whiskBlock o (o.fld 23 0) (dim (ds.getD 0 planMatmul.default_desc).ext 0) (ds.getD 0 planMatmul.default_desc).rows =
      .ok w)
    (hseed : (if w.random then (s.core c).seed (o.fld 66 56) else .ok 0) = .ok seed) :
    Gives (planWhisk s c o) fun l => Gives l.go fun i =>
      ∃ due, ∀ id t, (t.core c).shape = (s.core c).shape → i.effect id t = ((t.core c).whiskArgs o ds w seed).enter due c t := by
  unfold planWhisk
  refine gives_bind_eq fun ds' same => ?_
  obtain rfl := Except.ok.inj (hrefs.symm.trans same)
  refine gives_bind fun _ => gives_bind fun _ => gives_bind fun _ => gives_bind_eq fun w' same => ?_
  obtain rfl := Except.ok.inj (hw.symm.trans same)
  refine gives_branch_eq fun seed' same => ?_
  obtain rfl := Except.ok.inj (hseed.symm.trans same)
  refine gives_legal (gives_bind fun _ => gives_bind fun _ => gives_ok ⟨?due, fun id t shape => ?effect⟩)
  case effect =>
    rw [WhiskArgs.enter]
    simp only [Core.whiskArgs, Core.rt_congr shape]
    rfl

theorem planFor_whisk {o : Op} (h : o.opc = 0x10) : planFor o = planWhisk := by simp only [planFor, h]

/-! ## RANDOM (spec/08 R208) -/

/-- An element of RANDOM: its random value, or what it keeps of the input (R208). -/
def randomElem (o : Op) (ds : List Desc) (seed : Nat) (rt : List Nat) (m : Memory) (r : Nat × List Nat) (i : Nat) : Dec × Arith :=
  let d := ds.getD 0 planMatmul.default_desc
  randomValue (o.var % 8) d.fmt ((Rnd.ofCode (o.var / 8 % 4)).getD .rne) (keyedRandom seed (o.fld 42 11) (d.logical rt i r.2)).toNat
    (o.fld 74 43) (o.fld 106 75) (if o.nd = 2 then widen ((ds.getD 1 planMatmul.default_desc).elem m r.2 i) else (0, {}))

/-- What a RANDOM does as it issues: its live rows are those within `live`. -/
def randomEnter (o : Op) (ds : List Desc) (seed : Nat) (rt live : List Nat) (c : Nat) (t : State) : State :=
  let d := ds.getD 0 planMatmul.default_desc
  if d.masked rt then t else t.setCore c ((t.core c).writeRows d ((Rnd.ofCode (o.var / 8 % 4)).getD .rne)
    (fun r => (List.range (dim live 0)).map (randomElem o ds seed rt (t.core c).scratch r)) (d.liveRows live))

/-- What a RANDOM leaves as it issues. -/
theorem randomEnter_spec {s t : State} {c : Nat} (h : s.StoresKept t c) {ds : List Desc} {rt live : List Nat}
    (receives : (ds.getD 0 planMatmul.default_desc).Receives rt live) (apart : (ds.getD 0 planMatmul.default_desc).planesApart) (o : Op)
    (seed : Nat) :
    let d := ds.getD 0 planMatmul.default_desc
    let u := randomEnter o ds seed rt live c t
    s.ScratchOp u c ∧ d.keepsRest (s.core c).scratch (u.core c).scratch ∧
      d.holds (u.core c).scratch live (dim live 0) (randomElem o ds seed rt (s.core c).scratch) ((Rnd.ofCode (o.var / 8 % 4)).getD .rne) := by
  intro d u
  obtain ⟨scratchOp, holds, rest⟩ := h.fill ((Rnd.ofCode (o.var / 8 % 4)).getD .rne) receives apart (Nat.le_refl _)
    (vals := fun r => (List.range (dim live 0)).map (randomElem o ds seed rt (t.core c).scratch r))
    (fun r => by rw [List.length_map, List.length_range]) (p := fun r => rowLive d live r.2) fun r hr => hr
  refine ⟨scratchOp, rest, fun r hr => ?_⟩
  have held := holds r hr
  rw [List.map_map] at held
  rw [← h.scratch]
  exact held

/-- What the plan of a RANDOM gives. -/
theorem gives_random (s : State) (c : Nat) (o : Op) {ds : List Desc} {seed : Nat} (hrefs : (s.core c).refs o o.nd [0] = .ok ds)
    (hseed : (s.core c).seed (o.fld 10 0) = .ok seed) :
    Gives (planRandom s c o) fun l => Gives l.go fun i => ∀ id t, i.effect id t =
      randomEnter o ds seed ((s.core c).rt (ds.getD 0 planMatmul.default_desc)) ((s.core c).least ds) c t := by
  unfold planRandom
  refine gives_bind_eq fun ds' same => ?_
  obtain rfl := Except.ok.inj (hrefs.symm.trans same)
  refine gives_bind fun _ => gives_bind fun _ => gives_bind fun _ => gives_bind fun _ => gives_bind_eq fun seed' same => ?_
  obtain rfl := Except.ok.inj (hseed.symm.trans same)
  exact gives_legal (gives_bind fun _ => gives_ok fun id t => rfl)

theorem planFor_random {o : Op} (h : o.opc = 0x13) : planFor o = planRandom := by simp only [planFor, h]

/-! ## TAGFILL (spec/08 R209) -/

namespace Desc

variable (d : Desc) (rt : List Nat) (src : Memory)

/-- The tags of a row of a tensor, as its elements stand in a scratchpad. -/
def tagsOf (r : Nat × List Nat) : List Byte := rowTags d.fmt (loadRow src d.fmt (d.rowAddr r.2) (dim rt 0))

/-- The tags of the live rows of a tensor written (R209). -/
def fillTags (m : Memory) : Memory :=
  (d.liveRows rt).foldl (fun m r => Memory.write m (d.tagPtr + r.1 * ceilDiv (dim d.ext 0) 64) (d.tagsOf rt src r)) m

theorem length_tagsOf (r : Nat × List Nat) : (d.tagsOf rt src r).length = ceilDiv (dim rt 0) 64 := by
  rw [tagsOf, length_rowTags, length_loadRow]

/-- The tags of each live row stand once they are written, and other bytes stay. -/
theorem fillTags_spec (le : dim rt 0 ≤ dim d.ext 0) (m : Memory) :
    (∀ r ∈ d.liveRows rt, Memory.read (d.fillTags rt src m) (d.tagPtr + r.1 * ceilDiv (dim d.ext 0) 64) (ceilDiv (dim rt 0) 64) =
      d.tagsOf rt src r) ∧
    ∀ b, b < d.tagPtr ∨ d.tagPtr + d.tagLen ≤ b → Memory.get (d.fillTags rt src m) b = Memory.get m b := by
  have bytes : ceilDiv (dim rt 0) 64 ≤ ceilDiv (dim d.ext 0) 64 := Nat.div_le_div_right (by omega)
  have within (r : Nat × List Nat) (_ : r ∈ d.liveRows rt) (t : Memory) (b : Nat) (outside : ¬ InRange b (d.tagRow r.1)) :
      Memory.get (Memory.write t (d.tagPtr + r.1 * ceilDiv (dim d.ext 0) 64) (d.tagsOf rt src r)) b = Memory.get t b := by
    unfold InRange tagRow at outside
    rw [Memory.get_write, length_tagsOf, if_neg (by dsimp only at outside; omega)]
  have apart : (d.liveRows rt).Pairwise fun r r' => ∀ b, InRange b (d.tagRow r.1) → ¬ InRange b (d.tagRow r'.1) :=
    (d.pairwise_allRows.filter _).imp fun other _ => not_inRange_entry other
  refine ⟨fun r hr => ?_, fun b outside => get_foldl_of_untouched within (fun r hr inside => ?_) m⟩
  · obtain ⟨t, same⟩ := get_foldl_of_touched within apart hr m
    have back := Memory.read_write (d.tagsOf rt src r) t (d.tagPtr + r.1 * ceilDiv (dim d.ext 0) 64)
    rw [length_tagsOf] at back
    refine (Memory.read_congr fun x lo hi => same x ?_).trans back
    exact ⟨lo, by dsimp only [tagRow]; omega⟩
  · have rows := (d.mem_allRows.mp (List.mem_of_mem_filter hr)).1
    have inPlane : InRange b (d.tagPtr, d.tagLen) := inRange_entry rows inside
    unfold InRange at inPlane
    dsimp only at inPlane
    omega

end Desc

/-- What the plan of a TAGFILL gives. -/
theorem gives_tagfill (s : State) (c : Nat) (o : Op) {d : Desc} (hrefs : (s.core c).refs o 1 [] = .ok [d]) :
    Gives (planTagfill s c o) fun l => Gives l.go fun i =>
      ∀ id t, i.effect id t = if d.masked ((s.core c).rt d) then t else
        t.modCore c fun k => { k with scratch := d.fillTags ((s.core c).rt d) k.scratch k.scratch } := by
  unfold planTagfill
  refine gives_bind_eq fun ds' same => ?_
  obtain rfl := Except.ok.inj (hrefs.symm.trans same)
  exact gives_bind fun _ => gives_bind fun _ => gives_legal (gives_bind fun _ => gives_ok fun id t => rfl)

theorem planFor_tagfill {o : Op} (h : o.opc = 0x14) : planFor o = planTagfill := by simp only [planFor, h]

/-- What a TAGFILL leaves as it issues. -/
theorem fillTags_enter_spec {s t : State} {c : Nat} (h : s.StoresKept t c) {d : Desc} (formed : d.Formed) :
    let k := s.core c
    let rt := k.rt d
    let u := if d.masked rt then t else t.modCore c fun k => { k with scratch := d.fillTags rt k.scratch k.scratch }
    s.ScratchOp u c ∧ (∀ r ∈ d.liveRows rt,
        Memory.read (u.core c).scratch (d.tagPtr + r.1 * ceilDiv (dim d.ext 0) 64) (ceilDiv (dim rt 0) 64) = d.tagsOf rt k.scratch r) ∧
      ∀ b, b < d.tagPtr ∨ d.tagPtr + d.tagLen ≤ b → Memory.get (u.core c).scratch b = Memory.get k.scratch b := by
  intro k rt u
  cases masked : d.masked rt with
  | true =>
    have same : u = t := if_pos masked
    rw [same, h.scratch]
    refine ⟨⟨h.rowOp, h.stock, h.rows⟩, fun r hr => ?_, fun _ _ => rfl⟩
    have none : dim rt 0 = 0 := dim_zero_of_masked formed (length_rt k d) (fun _ => Nat.le_refl _) masked hr
    rw [List.eq_nil_of_length_eq_zero (show (d.tagsOf rt k.scratch r).length = 0 by rw [Desc.length_tagsOf, none]; rfl), none]
    rfl
  | false =>
    have filled : u = t.modCore c fun k => { k with scratch := d.fillTags rt k.scratch k.scratch } :=
      if_neg (by rw [masked]; decide)
    refine ⟨?_, ?_⟩
    · rw [filled]
      refine ⟨h.rowOp.modCore (fun _ => rfl) fun _ => rfl, ?_, ?_⟩
      all_goals rw [State.core_modCore, if_pos rfl]
      · exact h.stock
      · exact h.rows
    · rw [filled, State.core_modCore, if_pos rfl]
      simp only [h.scratch]
      exact d.fillTags_spec rt k.scratch (dim_rt_le formed k) k.scratch

/-! ## CONVERT (spec/08 R207) -/

section
variable {α β : Type}

theorem map_zip_fst {l : List α} {ns : List Nat} (same : l.length ≤ ns.length) (f : α → β) :
    (l.zip ns).map (fun x => f x.1) = l.map f := by
  rw [← congrArg (List.map f) (List.map_fst_zip same), List.map_map]
  rfl

theorem flatMap_zip_fst {l : List α} {ns : List Nat} (same : l.length ≤ ns.length) (f : α → List β) :
    (l.zip ns).flatMap (fun x => f x.1) = l.flatMap f := by
  rw [List.flatMap_def, map_zip_fst same, List.flatMap_def]

theorem length_flatMap_zip (gs : List (List α)) (ns : List Nat) (same : gs.length ≤ ns.length) {f : List α × Nat → List β}
    (length : ∀ g, (f g).length = g.1.length) : ((gs.zip ns).flatMap f).length = gs.flatten.length := by
  rw [List.length_flatMap, List.length_flatten, funext length, map_zip_fst same]

theorem flatten_flatMap_pieces {e : Nat} (he : 0 < e) (rows : List (List α)) : (rows.flatMap (pieces e)).flatten = rows.flatten := by
  induction rows with
  | nil => rfl
  | cons r rows ih => rw [List.flatMap_cons, List.flatten_append, flatten_pieces he, ih, List.flatten_cons]

theorem take_drop_eq_map_range {l : List Nat} {i n : Nat} (h : i + n ≤ l.length) :
    (l.drop i).take n = (List.range n).map fun j => l.getD (i + j) 0 := by
  refine List.ext_getElem (by simp; omega) fun j hj hj' => ?_
  rw [List.length_map, List.length_range] at hj'
  rw [List.getElem_take, List.getElem_drop, List.getElem_map, List.getElem_range, List.getD_eq_getElem]

end

namespace Desc

variable (d : Desc)

/-- The positions of a row's elements. -/
def rowPositions (r : Nat) : List (Nat × List Nat × Nat) := (List.range (dim d.ext 0)).map fun i => (r, d.rowIdx r, i)

theorem flatten_positions : d.positions.flatten = (List.range d.rows).flatMap d.rowPositions := by
  rw [positions, allRows, List.map_map]
  rfl

theorem length_rowPositions (r : Nat) : (d.rowPositions r).length = dim d.ext 0 := by
  rw [rowPositions, List.length_map, List.length_range]

/-- The groups of a tensor's elements hold them in order, row by row. -/
theorem flatten_elementGroups {e : Nat} (he : 0 < e) : (elementGroups d e).flatten = (List.range d.rows).flatMap d.rowPositions := by
  unfold elementGroups
  split
  · rw [flatten_flatMap_pieces he, flatten_positions]
  · rw [flatten_pieces he, flatten_positions]

/-- The first elements of a row, each with the code that stands at its place. -/
theorem take_drop_zip_positions {codes : List Nat} (length : codes.length = d.rows * dim d.ext 0) {r n : Nat} (hr : r < d.rows)
    (hn : n ≤ dim d.ext 0) :
    ((((List.range d.rows).flatMap d.rowPositions).zip codes).drop (r * dim d.ext 0)).take n =
      (List.range n).map fun i => ((r, d.rowIdx r, i), codes.getD (r * dim d.ext 0 + i) 0) := by
  have inside := whole_inside (w := dim d.ext 0) hr
  have first : ((d.rowPositions r).take n) = (List.range n).map fun i => (r, d.rowIdx r, i) := by
    rw [rowPositions, ← List.map_take, List.take_range, Nat.min_eq_left hn]
  rw [List.zip, List.drop_zipWith, List.take_zipWith, take_drop_flatMap d.length_rowPositions hr hn, first,
    take_drop_eq_map_range (by omega), ← List.zip, List.zip_map']

end Desc

theorem Fmt.groupSize_pos (f g : Fmt) : 0 < 4096 / max f.width g.width := by cases f <;> cases g <;> decide

namespace ConvertArgs

variable (a : ConvertArgs)

/-- The groups of the destination's elements. -/
def groups : List (List (Nat × List Nat × Nat)) := elementGroups a.dst (4096 / max a.src.fmt.width a.dst.fmt.width)

theorem length_codes (fifo : List Byte) (m : Memory) : (a.codes fifo m a.groups).length = a.dst.rows * dim a.dst.ext 0 := by
  have whole : (a.codes fifo m a.groups).length = a.groups.flatten.length := by
    refine length_flatMap_zip _ _ (by rw [List.length_range]) fun g => ?_
    dsimp only
    split
    · exact length_unpackBytes ..
    · simp
  rw [whole, groups, Desc.flatten_elementGroups _ (Fmt.groupSize_pos ..), length_flatMap_range a.dst.length_rowPositions]

/-- The codes of a CONVERT that neither shuffles nor takes beats: those of its source, where its destination is live. -/
theorem codes_plain (mode : a.ctl.mode = 0) (plain : a.ctl.fifo = false) (fifo : List Byte) (m : Memory) :
    a.codes fifo m a.groups = ((List.range a.dst.rows).flatMap a.dst.rowPositions).map fun p =>
      if !posLive a.dst a.live p then 0 else loadElem m a.src.fmt (a.src.rowAddr p.2.1) p.2.2 := by
  have group (g : List (Nat × List Nat × Nat)) := map_zip_fst (l := g) (ns := List.range g.length) (by rw [List.length_range])
    fun p => if !posLive a.dst a.live p then 0 else loadElem m a.src.fmt (a.src.rowAddr p.2.1) p.2.2
  have whole := Desc.flatten_elementGroups a.dst (Fmt.groupSize_pos a.src.fmt a.dst.fmt)
  rw [← whole, List.map_flatten, ← List.flatMap_def]
  simp only [codes, mode, plain, Nat.zero_ne_one, Bool.false_eq_true, if_false, group]
  exact flatMap_zip_fst (by rw [List.length_range]) (List.map _)

/-- The values of a destination row. -/
def values (fifo : List Byte) (m : Memory) (r : Nat × List Nat) : List (Dec × Arith) :=
  (List.range (dim a.live 0)).map fun i => a.src.value m r.2 i ((a.codes fifo m a.groups).getD (r.1 * dim a.dst.ext 0 + i) 0)

theorem length_values (fifo : List Byte) (m : Memory) (r : Nat × List Nat) : (a.values fifo m r).length = dim a.live 0 := by
  rw [values, List.length_map, List.length_range]

theorem run_eq (le : dim a.live 0 ≤ dim a.dst.ext 0) (fifo : List Byte) (k : Core) :
    a.run fifo k = k.writeRows a.dst a.mode (a.values fifo k.scratch) (a.dst.liveRows a.live) := by
  refine List.foldl_ext _ _ _ fun t r hr => ?_
  have rows := (a.dst.mem_allRows.mp (List.mem_of_mem_filter hr))
  have row := a.dst.take_drop_zip_positions (a.length_codes fifo k.scratch) rows.1 le
  rw [← a.dst.flatten_elementGroups (Fmt.groupSize_pos a.src.fmt a.dst.fmt)] at row
  have vals := congrArg (List.map fun x => a.src.value k.scratch r.2 x.1.2.2 x.2) row
  rw [List.map_map] at vals
  exact congrArg (t.writeRow a.dst a.mode r) vals

section
variable {a} {rt : List Nat} (receives : a.dst.Receives rt a.live) (apart : a.dst.planesApart)
include receives

theorem live_le : dim a.live 0 ≤ dim a.dst.ext 0 := by
  rcases receives.target with none | ⟨-, -, le⟩
  · omega
  · exact le

/-- The values of a CONVERT that neither shuffles nor takes beats are those of its source. -/
theorem values_plain (mode : a.ctl.mode = 0) (plain : a.ctl.fifo = false) (fifo : List Byte) (m : Memory) {r : Nat × List Nat}
    (hr : r ∈ a.dst.liveRows a.live) :
    a.values fifo m r = (List.range (dim a.live 0)).map fun i => a.src.elem m r.2 i := by
  obtain ⟨rowOf, isLive⟩ := List.mem_filter.mp hr
  obtain ⟨rows, idx⟩ := a.dst.mem_allRows.mp rowOf
  have inside := whole_inside (w := dim a.dst.ext 0) rows
  have le := live_le receives
  have row : (List.range (dim a.live 0)).map (fun i => (a.codes fifo m a.groups).getD (r.1 * dim a.dst.ext 0 + i) 0) =
      (List.range (dim a.live 0)).map fun i =>
        if !posLive a.dst a.live (r.1, a.dst.rowIdx r.1, i) then 0 else loadElem m a.src.fmt (a.src.rowAddr (a.dst.rowIdx r.1)) i := by
    rw [← take_drop_eq_map_range (by rw [a.length_codes]; omega), a.codes_plain mode plain, ← List.map_drop, ← List.map_take,
      take_drop_flatMap a.dst.length_rowPositions rows le, Desc.rowPositions, ← List.map_take, List.take_range, Nat.min_eq_left le,
      List.map_map]
    rfl
  refine List.map_congr_left fun i hi => ?_
  rw [List.map_inj_left.mp row i hi, posLive, ← idx, isLive, Bool.true_and, decide_eq_true (List.mem_range.mp hi)]
  rfl

/-- Rows that hold the values of a CONVERT. -/
theorem done_of_holds {fifo : List Byte} {m n : Memory}
    (holds : ∀ r ∈ a.dst.liveRows a.live, a.dst.rowHolds n r.2 ((a.values fifo m r).map Prod.fst) a.mode) (rest : a.dst.keepsRest m n) :
    a.Done fifo m n := by
  refine ⟨fun r hr => ?_, rest, fun mode plain r hr => ?_⟩
  · have held := holds r hr
    rw [values, List.map_map] at held
    exact held
  · have held := holds r hr
    rw [values_plain receives mode plain fifo m hr, List.map_map] at held
    exact held

include apart

/-- What a run of a CONVERT leaves. -/
theorem run_done (fifo : List Byte) (k : Core) : a.Done fifo k.scratch (a.run fifo k).scratch := by
  obtain ⟨holds, rest⟩ := Core.writeRows_spec a.mode receives apart (Nat.le_refl _) (a.length_values fifo k.scratch)
    (p := fun r => rowLive a.dst a.live r.2) k
  rw [a.run_eq (live_le receives)]
  exact done_of_holds receives holds rest

end

/-- What a CONVERT does as it issues, whose destination is masked or not. -/
def enter (masked : Bool) (due : List (Nat × Nat)) (c : Nat) (t : State) : State :=
  if masked then t else if a.ctl.fifo then t.feed c 2 a.opAddr due (.convert a) else t.setCore c (a.run [] (t.core c))

variable {a} {s t : State} {c : Nat} (h : s.StoresKept t c) (due : List (Nat × Nat))
include h

/-- What a CONVERT leaves as it issues that no port FIFO feeds. -/
theorem enter_spec {rt : List Nat} (receives : a.dst.Receives rt a.live) (apart : a.dst.planesApart) (plain : a.ctl.fifo = false) :
    let u := a.enter (a.dst.masked rt) due c t
    s.ScratchOp u c ∧ a.Done [] (s.core c).scratch (u.core c).scratch := by
  obtain ⟨scratchOp, holds, rest⟩ := h.fill a.mode receives apart (Nat.le_refl _) (a.length_values [] (t.core c).scratch)
    (p := fun r => rowLive a.dst a.live r.2) fun r hr => hr
  have entered : a.enter (a.dst.masked rt) due c t = if a.dst.masked rt then t else
      t.setCore c ((t.core c).writeRows a.dst a.mode (a.values [] (t.core c).scratch) (a.dst.liveRows a.live)) := by
    simp only [enter, plain, Bool.false_eq_true, if_false, a.run_eq (live_le receives)]
  rw [entered]
  refine ⟨scratchOp, done_of_holds receives (fun r hr => ?_) rest⟩
  have held := holds r hr
  rw [← h.scratch]
  exact held

/-- What a CONVERT leaves as it issues that waits for beats. -/
theorem enter_waits (fed : a.ctl.fifo = true) : let u := a.enter false due c t
    s.ScratchOp u c ∧ (u.core c).scratch = (s.core c).scratch ∧
      ∃ beats, (u.core c).jobs = (s.core c).jobs ++ [⟨2, a.opAddr, beats, [], .convert a⟩] := by
  have entered : a.enter false due c t = t.feed c 2 a.opAddr due (.convert a) := by
    simp only [enter, fed, if_true, Bool.false_eq_true, if_false]
  rw [entered]
  exact h.feed ..

end ConvertArgs

/-- What the plan of a CONVERT gives. -/
theorem gives_convert (s : State) (c : Nat) (o : Op) {src dst : Desc} {ctl : LCtl} (hrefs : (s.core c).refs o 2 [1] = .ok [src, dst])
    (hctl : LCtl.parse (o.fld 31 0) = .ok ctl) (htab : tableOk ((s.core c).convertArgs o src dst ctl).tab = true) :
    Gives (planConvert s c o) fun l => Gives l.go fun i =>
      ∃ due, ∀ id t, i.effect id t = ((s.core c).convertArgs o src dst ctl).enter (dst.masked ((s.core c).rt dst)) due c t := by
  unfold planConvert
  refine gives_bind_eq fun ds same => ?_
  obtain rfl := Except.ok.inj (hrefs.symm.trans same)
  refine gives_bind fun _ => gives_bind fun _ => gives_bind_eq fun ctl' same => ?_
  obtain rfl := Except.ok.inj (hctl.symm.trans same)
  refine gives_bind fun _ => gives_bind fun _ => gives_legal (gives_bind fun _ => gives_bind fun _ => ?_)
  refine gives_when (gives_bind fun _ => gives_ok ?_)
  have legal : tableOk ((s.core c).convertArgs o ([src, dst].getD 0 planMatmul.default_desc) ([src, dst].getD 1 planMatmul.default_desc)
    ctl).tab = true := htab
  rw [legal, Bool.not_true, Bool.and_false, if_neg Bool.false_ne_true]
  exact ⟨_, fun id t => rfl⟩

theorem planFor_convert {o : Op} (h : o.opc = 0x12) : planFor o = planConvert := by simp only [planFor, h]

/-! ## The statement -/

/-- Settles O18: the rows that an op writes by `Core.writeRows_spec`, its issue by what its plan gives. -/
theorem elementOps : Obligations.ElementOps := by
  intro s c i h k o does dd
  have look := s.core_look c
  have kept := s.storesKept_ahead c i
  refine ⟨?drain, ?whisk, ?convert, ?random, ?tagfill⟩
  case drain =>
    intro d prog hopc href apart hprog srow rows vecs rt n mode x val
    let a := k.drainArgs o d prog
    have given := State.gives_dueIssue h (planFor_drain hopc)
      (gives_drain (s.look c) c o (by rw [look]; exact href) (by rw [look]; exact hprog))
    rw [look] at given
    obtain ⟨receives, effect⟩ : a.d.Receives a.rt a.rt ∧ ∀ id t, i.effect id t = a.enter c t := given
    have issued := issueRow_effect h (mnemonic := "DRAIN") (mine := isOpc 0x05) (beq_iff_eq.mpr hopc) (planFor_drain hopc)
    rw [effect] at issued
    obtain ⟨scratchOp, rest, holds⟩ := a.enter_spec kept receives apart
    refine ⟨_, issued, scratchOp, rest, fun r live inside => ⟨holds r live inside, fun route plain j hj => ?_⟩⟩
    have rounded := loadElem_of_rowHolds (holds r live inside) plain (j := j) (by rwa [List.length_map, List.length_range])
    rw [List.getElem_map, List.getElem_range, a.value_plain route (by
      rw [if_neg (by rw [route]; decide)] at hprog
      exact (Except.ok.inj hprog).symm)] at rounded
    exact rounded
  case whisk =>
    intro ds w seed hopc hrefs hw hseed a apart
    have given := State.gives_dueIssue h (planFor_whisk hopc) (gives_whisk (s.look c) c o (by rw [look, Core.refs_looked]; exact hrefs)
      (by rw [look]; exact hw) (by rw [look]; exact hseed))
    obtain ⟨due, effect⟩ := given
    have issued := issueRow_effect h (mnemonic := "WHISK") (mine := isOpc 0x10) (beq_iff_eq.mpr hopc) (planFor_whisk hopc)
    have shape : (((s.look c).ahead c o i).core c).shape = k.shape := kept.rowOp.2.2.1
    rw [effect _ _ (by rw [shape, look]; rfl), Core.whiskArgs_congr kept.scratch shape] at issued
    have receives : a.out.Receives a.rt a.live := receives_output hrefs
    exact ⟨fun fifo => ⟨_, issued, WhiskArgs.enter_spec receives apart kept due fifo⟩, fun fifo live =>
      ⟨_, issued, a.enter_waits kept due fifo live⟩, fun fifo x => WhiskArgs.run_done receives apart fifo x⟩
  case convert =>
    intro src dst ctl hopc hrefs hctl a htab apart
    have given := State.gives_dueIssue h (planFor_convert hopc) (gives_convert (s.look c) c o
      (by rw [look, Core.refs_looked]; exact hrefs) hctl (by rw [look]; exact htab))
    rw [look] at given
    obtain ⟨due, effect⟩ : ∃ due, ∀ id t, i.effect id t = a.enter (dst.masked (k.rt dst)) due c t := given
    have issued := issueRow_effect h (mnemonic := "CONVERT") (mine := isOpc 0x12) (beq_iff_eq.mpr hopc) (planFor_convert hopc)
    rw [effect] at issued
    obtain ⟨-, formed, writable⟩ := Core.refs_two hrefs
    have receives : a.dst.Receives (k.rt dst) a.live := receives_of_mem k (.tail _ (.head _)) formed (writable rfl)
    refine ⟨fun plain => ⟨_, issued, ConvertArgs.enter_spec kept due receives apart plain⟩, fun fed live => ⟨_, issued, ?_⟩,
      fun fifo x => ConvertArgs.run_done receives apart fifo x⟩
    rw [live]
    exact ConvertArgs.enter_waits kept due fed
  case random =>
    intro ds seed hopc hrefs hseed d live mode apart
    have given := State.gives_dueIssue h (planFor_random hopc) (gives_random (s.look c) c o
      (by rw [look, Core.refs_looked]; exact hrefs) (by rw [look]; exact hseed))
    rw [look] at given
    have issued := issueRow_effect h (mnemonic := "RANDOM") (mine := isOpc 0x13) (beq_iff_eq.mpr hopc) (planFor_random hopc)
    rw [given] at issued
    have receives : d.Receives (k.rt d) live := receives_output hrefs
    obtain ⟨scratchOp, rest, holds⟩ := randomEnter_spec kept receives apart o seed
    exact ⟨_, issued, scratchOp, rest, holds⟩
  case tagfill =>
    intro d hopc hrefs
    have given := State.gives_dueIssue h (planFor_tagfill hopc) (gives_tagfill (s.look c) c o (by rw [look, Core.refs_looked]; exact hrefs))
    rw [look] at given
    have issued := issueRow_effect h (mnemonic := "TAGFILL") (mine := isOpc 0x14) (beq_iff_eq.mpr hopc) (planFor_tagfill hopc)
    rw [given] at issued
    obtain ⟨-, each⟩ := Core.refs_at hrefs
    exact ⟨_, issued, fillTags_enter_spec kept (each 0 (Nat.zero_lt_one)).2.1⟩

end Sys2Proof.Machine
end

section
/-!
# What ATTEND reads (spec/07 R186 to R190)

Elements and tags of its tensors rest on the bytes of their planes alone, so that its scores and exponentials stand while its P rows are
written beside them.
-/
namespace Sys2Proof.Machine

/-! ## Elements and planes -/

/-- Two memories hold the same bytes in a range. -/
def SameOn (m m' : Memory) (h : Nat × Nat) : Prop := ∀ b, InRange b h → Memory.get m' b = Memory.get m b

theorem div_lt_ceilDiv {a n b : Nat} (hb : 0 < b) (h : a < n) : a / b < ceilDiv n b := by
  rw [ceilDiv, Nat.div_lt_iff_lt_mul hb]
  have := le_ceilDiv_mul n hb
  rw [ceilDiv] at this
  omega

theorem loadElem_congr {m m' : Memory} {f : Fmt} {a i n : Nat} (hi : i < n) (same : SameOn m m' (a, f.bytes n)) :
    loadElem m' f a i = loadElem m f a i := by
  rw [loadElem_eq_bitsElem, loadElem_eq_bitsElem]
  exact bitsElem_congr f.elemWidth hi fun b hb => same _ ⟨Nat.le_add_right .., Nat.add_lt_add_left hb a⟩

theorem SameOn.mono {m m' : Memory} {h h' : Nat × Nat} (same : SameOn m m' h) (lo : h.1 ≤ h'.1) (hi : h'.1 + h'.2 ≤ h.1 + h.2) :
    SameOn m m' h' := fun b ⟨b0, b1⟩ => same b ⟨lo.trans b0, b1.trans_le hi⟩

/-- A panel beat fills a line (R103, R104). -/
theorem Fmt.bytes_beat (f : Fmt) : f.bytes (128 * f.g) = 512 := by cases f <;> rfl

namespace Desc

variable {d : Desc} {m m' : Memory}

theorem elem_congr (formed : d.Formed) (plain : d.scaleV = false) (same : SameOn m m' (d.base, d.span)) (r : Nat) {i : Nat}
    (hi : i < dim d.ext 0) : d.elem m' (d.rowIdx r) i = d.elem m (d.rowIdx r) i := by
  obtain ⟨lo, hi'⟩ := formed.row_inside r
  have row : SameOn m m' (d.rowAddr (d.rowIdx r), d.fmt.bytes (dim d.ext 0)) := same.mono lo hi'
  simp only [elem, value, plain, loadElem_congr hi row, Bool.false_eq_true, if_false]

theorem panel_congr (plain : d.scaleV = false) (same : SameOn m m' (d.base, d.panelLen)) {k n : Nat} (hk : k < dim d.ext 1)
    (hn : n < dim d.ext 0) : d.panel m' k n = d.panel m k n := by
  have tile := div_lt_ceilDiv (b := 128) (by decide) hn
  have beat := div_lt_ceilDiv d.fmt.g_pos hk
  have column := Nat.mod_lt n (show 0 < 128 by decide)
  have line : 128 * (k % d.fmt.g) + n % 128 < 128 * d.fmt.g := by
    have := Nat.mod_lt k d.fmt.g_pos
    omega
  have inside : n / 128 * ceilDiv (dim d.ext 1) d.fmt.g + k / d.fmt.g + 1 ≤ ceilDiv (dim d.ext 0) 128 * ceilDiv (dim d.ext 1) d.fmt.g := by
    have := whole_inside (w := ceilDiv (dim d.ext 1) d.fmt.g) tile
    omega
  have bytes : SameOn m m' (d.base + 512 * (n / 128 * ceilDiv (dim d.ext 1) d.fmt.g + k / d.fmt.g), d.fmt.bytes (128 * d.fmt.g)) := by
    rw [Fmt.bytes_beat]
    refine same.mono (Nat.le_add_right ..) ?_
    dsimp only [panelLen]
    rw [Nat.mul_assoc]
    omega
  simp only [panel, panelElem, plain, loadElem_congr line bytes, Bool.false_eq_true, if_false]

section
variable {x y : Core}

theorem planeByte_anchored (same : SameOn x.scratch y.scratch (d.tagPtr, d.tagLen)) {r b : Nat} (hr : r < d.rows)
    (hb : b < ceilDiv (dim d.ext 0) 64) : d.planeByte y .anchored r b = d.planeByte x .anchored r b := by
  have inside := whole_inside (w := ceilDiv (dim d.ext 0) 64) hr
  simp only [planeByte, reduceCtorEq, if_false, Core.byte]
  rw [same]
  unfold InRange tagLen
  dsimp only
  omega

theorem panelByte_anchored {nb n b : Nat} (same : SameOn x.scratch y.scratch (d.tagPtr, 128 * ceilDiv (dim d.ext 0) 128 * nb))
    (hn : n < dim d.ext 0) (hb : b < nb) : d.panelByte y .anchored nb n b = d.panelByte x .anchored nb n b := by
  have tile := div_lt_ceilDiv (b := 128) (by decide) hn
  have inside := whole_inside (w := nb) tile
  simp only [panelByte, reduceCtorEq, if_false, Core.byte]
  rw [same]
  unfold InRange
  dsimp only
  rw [Nat.mul_assoc]
  omega

end
end Desc

theorem anchorOf_congr {nb : Nat} {ta tb ta' tb' : Nat → Nat} (ha : ∀ b, b < nb → ta' b = ta b) (hb : ∀ b, b < nb → tb' b = tb b) :
    anchorOf nb ta' tb' = anchorOf nb ta tb := by
  have fold : (List.range nb).foldl (fun m b => max m (ta' b + tb' b)) 0 = (List.range nb).foldl (fun m b => max m (ta b + tb b)) 0 :=
    List.foldl_ext _ _ _ fun m b h => by rw [ha b (List.mem_range.mp h), hb b (List.mem_range.mp h)]
  rw [anchorOf, anchorOf, fold]

theorem accModeOf_plain (f : Fmt) : accModeOf f false = .anchored ∨ accModeOf f false = .exact := by
  unfold accModeOf
  split
  · exact .inl rfl
  · exact .inr rfl

/-! ## The tensors of an ATTEND -/

/-- A run-time extent is at most the compiled one (R251). -/
theorem dim_rt_le_at (k : Core) (d : Desc) (i : Nat) : dim (k.rt d) i ≤ dim d.ext i := by
  by_cases hi : i < 6
  · have entry : dim (k.rt d) i = if i < d.rank then rtExtent k.shape (dim d.ext i) (dim d.bind i) else 0 := by
      simp [dim, Core.rt, hi]
    rw [entry, rtExtent]
    split_ifs
    · exact Nat.le_refl _
    · exact Nat.min_le_left ..
    · exact Nat.zero_le _
  · rw [dim, List.getD_eq_default _ _ (by rw [length_rt]; omega)]
    exact Nat.zero_le _

/-- What the checks of R186 and R192 leave of an ATTEND. -/
structure AttendArgs.Fits (a : AttendArgs) : Prop where
  qFormed : a.q.Formed
  stFormed : a.stats.Formed
  qPlain : a.q.scaleV = false
  kPlain : a.kp.scaleV = false
  vPlain : a.vp.scaleV = false
  stRank : a.stats.rank = 1
  stFmt : a.stats.fmt = .fp32
  stExt : dim a.stats.ext 0 = 256
  mc : a.mc ≤ 128
  rows : a.rows.Nodup ∧ ∀ i ∈ a.rows, i < a.mc ∧ i < a.q.rows
  dhQ : a.dh ≤ dim a.q.ext 0
  dhK : a.dh ≤ dim a.kp.ext 1
  nk : a.nk ≤ a.nkc ∧ a.nk ≤ dim a.kp.ext 0 ∧ a.nk ≤ dim a.vp.ext 1
  dv : a.dv ≤ dim a.vp.ext 0 ∧ a.dv ≤ 128
  nb : a.nb = ceilDiv (dim a.q.ext 0) 64
  tags : a.mode = .anchored → a.q.tagV = true ∧ a.kp.tagV = true

namespace AttendArgs

variable (a : AttendArgs)

/-- The bytes that an ATTEND reads: its queries, its keys, its values and STATS, with the planes that these bear. -/
def reads : List (Nat × Nat) :=
  a.q.hulls ++ a.kp.panelHulls (if a.mode == .anchored then a.nb else ceilDiv (dim a.kp.ext 1) 64) ++
    a.vp.panelHulls (ceilDiv (dim a.vp.ext 1) 64) ++ a.stats.hulls

/-- A core holds the same bytes as another, wherever the ATTEND reads. -/
def SameReads (k t : Core) : Prop := ∀ h ∈ a.reads, SameOn k.scratch t.scratch h

theorem mode_cases : a.mode = .anchored ∨ a.mode = .exact := accModeOf_plain _

/-- The keys that a query row sees. -/
def seen (i : Nat) : List Nat := (List.range a.nkc).filter (a.visible i)

variable {a} in
theorem lt_of_visible {i j : Nat} (h : a.visible i j = true) : j < a.nk := by
  unfold visible at h
  simp only [Bool.and_eq_true, decide_eq_true_eq] at h
  exact h.1

section
variable {a} (fits : a.Fits) {k t : Core} (same : a.SameReads k t) {i j : Nat}
include fits

theorem Fits.span_stats : a.stats.span = 1024 := by
  simp only [Desc.span, fits.stRank, fits.stFmt, fits.stExt]
  rfl

theorem mem_seen (h : a.visible i j = true) : j ∈ a.seen i := by
  have := lt_of_visible h
  have := fits.nk.1
  exact List.mem_filter.mpr ⟨List.mem_range.mpr (by omega), h⟩

include same

theorem stat_same {n : Nat} (hn : n < 256) : a.stat t n = a.stat k n := by
  have stats : SameOn k.scratch t.scratch (a.stats.base, a.stats.span) := same _ (by simp [reads, Desc.hulls])
  rw [fits.span_stats] at stats
  refine Memory.nat_congr fun b hb => stats _ ?_
  unfold InRange statAddr
  dsimp only
  omega

theorem scoreL_same (hi : i ∈ a.rows) (hj : j < a.nk) : a.scoreL t i j = a.scoreL k i j := by
  obtain ⟨-, inQ⟩ := fits.rows.2 i hi
  have inK := hj.trans_le fits.nk.2.1
  rcases a.mode_cases with anchored | exact_
  · obtain ⟨qTags, kTags⟩ := fits.tags anchored
    have blocks : ceilDiv a.dh 64 ≤ ceilDiv (dim a.q.ext 0) 64 := Nat.div_le_div_right (by have := fits.dhQ; omega)
    have qPlane : SameOn k.scratch t.scratch (a.q.tagPtr, a.q.tagLen) := same _ (by simp [reads, Desc.hulls, qTags])
    have kPlane : SameOn k.scratch t.scratch (a.kp.tagPtr, 128 * ceilDiv (dim a.kp.ext 0) 128 * a.nb) :=
      same _ (by simp [reads, Desc.panelHulls, kTags, anchored])
    simp only [scoreL, openL, anchored]
    rw [anchorOf_congr (fun b hb => Desc.planeByte_anchored qPlane inQ (hb.trans_le blocks))
      fun b hb => Desc.panelByte_anchored kPlane inK (fits.nb ▸ hb.trans_le blocks)]
  · simp only [scoreL, openL, exact_]

theorem sacc_same (hi : i ∈ a.rows) (hj : j < a.nk) : a.sacc t i j = a.sacc k i j := by
  have inK := hj.trans_le fits.nk.2.1
  have qData : SameOn k.scratch t.scratch (a.q.base, a.q.span) := same _ (by simp [reads, Desc.hulls])
  have kData : SameOn k.scratch t.scratch (a.kp.base, a.kp.panelLen) := same _ (by simp [reads, Desc.panelHulls])
  rw [sacc, sacc, scoreL_same fits same hi hj]
  refine List.foldl_ext _ _ _ fun x d hd => ?_
  have hd := List.mem_range.mp hd
  rw [Desc.elem_congr fits.qFormed fits.qPlain qData i (hd.trans_le fits.dhQ),
    Desc.panel_congr fits.kPlain kData (hd.trans_le fits.dhK) inK]

theorem value_same (hj : j < a.nk) {n : Nat} (hn : n < a.dv) : a.vp.panel t.scratch j n = a.vp.panel k.scratch j n := by
  have data : SameOn k.scratch t.scratch (a.vp.base, a.vp.panelLen) := same _ (by simp [reads, Desc.panelHulls])
  exact Desc.panel_congr fits.vPlain data (hj.trans_le fits.nk.2.2) (hn.trans_le fits.dv.1)

theorem expo_same (hi : i ∈ a.rows) (hj : j < a.nk) : a.expo t i j = a.expo k i j := by
  have := (fits.rows.2 i hi).1
  have := fits.mc
  rw [expo, expo, stat_same fits same (by omega), sacc_same fits same hi hj]

end

/-! ## What its plan gives -/

/-- The steps of its max phase: key tile and row (R187). -/
def maxSteps : List (Nat × Nat) := (List.range (ceilDiv a.nkc 128)).flatMap fun tau => a.rows.map fun i => (tau, i)

/-- What its max phase does as it issues; `at_` gives the cycle of a step. -/
def enterMax (at_ : State → Nat × Nat → Nat) (c : Nat) (s : State) : State :=
  if a.rows.isEmpty then s else
    let k := s.core c
    let k1 := runSteps (at_ s) (fun k x => a.scoreRow a.srow k x.1 x.2) k a.maxSteps
    s.setCore c (if k1.later.length = k.later.length then
      closeBuffers (a.writeStats k1) a.srow (2 * a.mc) a.mode.code a.q.fmt.code a.opAddr else k1)

/-- The L of an element of its output rows, and of its row of sums, as it opens them (R190). -/
def outL (k : Core) (r j : Nat) : Int :=
  if r < a.mc then (if a.mode == .anchored then anchoredL a.q.fmt (1 + tagOne a.q.fmt + (tagOfStat (a.stat k (128 + j))).1) else exactL a.q.fmt)
  else if a.mode == .anchored then anchoredL a.q.fmt (1 + 2 * tagOne a.q.fmt) else exactL a.q.fmt

theorem outL_of_lt (k : Core) {r : Nat} (hr : r < a.mc) : a.outL k r = fun j =>
    if a.mode == .anchored then anchoredL a.q.fmt (1 + tagOne a.q.fmt + (tagOfStat (a.stat k (128 + j))).1) else exactL a.q.fmt :=
  funext fun _ => if_pos hr

theorem outL_last (k : Core) : a.outL k a.mc = fun _ =>
    if a.mode == .anchored then anchoredL a.q.fmt (1 + 2 * tagOne a.q.fmt) else exactL a.q.fmt :=
  funext fun _ => if_neg (Nat.lt_irrefl _)

/-- Its rows as the sum phase opens them, with the status of the tags it reads. -/
def opened (k : Core) : Core :=
  let t := k.openedIf a.isOpen a.srow (a.mc + 1) a.mode.code a.q.fmt.code a.opAddr 0 (a.outL k)
  if a.isOpen && a.mode == .anchored then
    t.orArith ((List.range a.dv).foldl (fun s n => s.or (tagOfStat (a.stat k (128 + n))).2) {}) else t

/-- The steps of its sum phase, the value passes `lam` tiles behind the scores: a score pass or a value pass, key tile and row (R193). -/
def sumSteps (lam : Nat) : List (Bool × Nat × Nat) :=
  (List.range (ceilDiv a.nkc 128 + lam)).flatMap fun p =>
    (if p < ceilDiv a.nkc 128 then a.rows.map fun i => (true, p, i) else []) ++
      (if lam ≤ p then a.rows.map fun i => (false, p - lam, i) else [])

/-- A step of its sum phase. -/
def sumStep (k : Core) (x : Bool × Nat × Nat) : Except CFault Core :=
  if x.1 then a.scoreRow (a.srow + a.mc + 1) k x.2.1 x.2.2 else a.valueRow k x.2.1 x.2.2

/-- What its sum phase does as it issues. -/
def enterSum (lam : Nat) (at_ : State → Bool × Nat × Nat → Nat) (c : Nat) (s : State) : State :=
  if a.rows.isEmpty then s else
    s.setCore c (closeBuffers (runSteps (at_ s) a.sumStep (a.opened (s.core c)) (a.sumSteps lam)) (a.srow + a.mc + 1) (2 * a.mc)
      a.mode.code a.q.fmt.code a.opAddr)

/-- The rows as the plan opens them, one after the other. -/
theorem opened_eq (k : Core) : a.opened k = if !a.isOpen then k else
    let vt (n : Nat) : Nat × Arith := tagOfStat (a.stat k (128 + n))
    let lo (n : Nat) : Int := if a.mode == .anchored then anchoredL a.q.fmt (1 + tagOne a.q.fmt + (vt n).1) else exactL a.q.fmt
    let ls : Int := if a.mode == .anchored then anchoredL a.q.fmt (1 + 2 * tagOne a.q.fmt) else exactL a.q.fmt
    let k := (List.range a.mc).foldl (fun k i => k.openRow (a.srow + i) a.mode.code a.q.fmt.code a.opAddr 0 lo) k
    let k := k.openRow (a.srow + a.mc) a.mode.code a.q.fmt.code a.opAddr 0 fun _ => ls
    if a.mode == .anchored then k.orArith ((List.range a.dv).foldl (fun s n => s.or (vt n).2) {}) else k := by
  cases hopen : a.isOpen with
  | false => simp only [opened, Core.openedIf, hopen, Bool.false_and, Bool.not_false, Bool.false_eq_true, if_false, if_true]
  | true =>
    have rows : (List.range a.mc).foldl (fun t i => t.openRow (a.srow + i) a.mode.code a.q.fmt.code a.opAddr 0 fun n =>
        if a.mode == .anchored then anchoredL a.q.fmt (1 + tagOne a.q.fmt + (tagOfStat (a.stat k (128 + n))).1) else exactL a.q.fmt) k =
        k.openRows a.srow a.mc a.mode.code a.q.fmt.code a.opAddr 0 (a.outL k) :=
      List.foldl_ext _ _ _ fun t i hi => by rw [a.outL_of_lt k (List.mem_range.mp hi)]
    simp only [opened, Core.openedIf, hopen, Bool.true_and, Bool.not_true, Bool.false_eq_true, if_false, if_true, rows, Core.openRows_succ,
      outL_last]

end AttendArgs

/-- The tensors that an op names are those it names whatever it writes. -/
theorem refs_of_written {k : Core} {o : Op} {n : Nat} {written : List Nat} {ds ds' : List Desc} (h : k.refs o n written = .ok ds)
    (h' : k.refs o n [] = .ok ds') : ds = ds' := by
  obtain ⟨length, each⟩ := Core.refs_at h
  obtain ⟨length', each'⟩ := Core.refs_at h'
  refine List.ext_getElem (length.trans length'.symm) fun i hi hi' => ?_
  exact Except.ok.inj ((each i hi).1.symm.trans (each' i hi').1)

/-- What the plan of an ATTEND gives. -/
theorem gives_attend (s : State) (c : Nat) (o : Op) {q kp vp st : Desc} (hrefs : (s.core c).refs o 4 [] = .ok [q, kp, vp, st]) :
    Gives (planAttend s c o) fun l => Gives l.go fun i =>
      let k := s.core c
      let a := k.attendArgs o q kp vp st
      a.Fits ∧
      (bit o.var 0 = false → ∃ at_, ∀ id t, i.effect id t = a.enterMax at_ c t) ∧
      (bit o.var 0 = true → ∃ lam at_, ∀ id t, i.effect id t = a.enterSum lam at_ c t) ∧
      (bit o.var 0 = true → a.isOpen = false → a.rows ≠ [] → ∀ r, r < a.mc + 1 → (k.row (a.srow + r)).mode = a.mode.code) := by
  unfold planAttend
  refine gives_bind_eq fun ds same => ?_
  obtain rfl := refs_of_written same hrefs
  refine gives_bind fun _ => gives_need fun shapes => gives_need fun sizes => gives_need fun formats => gives_need fun plain => ?_
  refine gives_bind fun _ => gives_need fun widths => gives_need fun tags => gives_bind fun _ => gives_legal ?_
  refine gives_bind fun _ => gives_bind fun _ => gives_bind fun _ => gives_when ?_
  refine gives_bind fun _ => gives_when_eq fun rows => gives_ok ⟨?fits, fun hsum => ⟨?at1, fun id t => ?max⟩,
    fun hsum => ⟨?lam, ?at2, fun id t => ?sum⟩, fun hsum hclosed hlive r hr => ?rows⟩
  case fits =>
    obtain ⟨-, each⟩ := Core.refs_at hrefs
    simp only [Bool.and_eq_true, beq_iff_eq, decide_eq_true_eq, Bool.not_eq_true'] at shapes sizes formats plain widths
    obtain ⟨⟨⟨⟨kRank, vRank⟩, stRank⟩, stFmt⟩, stExt⟩ := shapes
    obtain ⟨⟨⟨-, qPlain⟩, kPlain⟩, vPlain⟩ := plain
    have nk := Nat.min_le_right (o.fld 31 18) (min (dim ((s.core c).rt kp) 0) (dim ((s.core c).rt vp) 1))
    have le := dim_rt_le_at (s.core c)
    exact {
      qFormed := (each 0 (by simp)).2.1
      stFormed := (each 3 (by simp)).2.1
      qPlain, kPlain, vPlain, stRank, stFmt, stExt
      mc := sizes.1.1.1.2
      rows := ⟨List.nodup_range.filter _, fun i hi => by
        obtain ⟨inside, live⟩ := List.mem_filter.mp hi
        rw [Bool.and_eq_true, decide_eq_true_eq] at live
        exact ⟨List.mem_range.mp inside, live.1⟩⟩
      dhQ := (Nat.min_le_left ..).trans (le q 0)
      dhK := (Nat.min_le_right ..).trans (le kp 1)
      nk := ⟨Nat.min_le_left .., nk.trans ((Nat.min_le_left ..).trans (le kp 0)), nk.trans ((Nat.min_le_right ..).trans (le vp 1))⟩
      dv := ⟨le vp 0, (le vp 0).trans widths.2⟩
      nb := rfl
      tags := fun anchored => by
        have read : accModeOf q.fmt false = .anchored := anchored
        simp only [List.getD_cons_zero, List.getD_cons_succ, read, BEq.rfl, Bool.not_true, Bool.false_or, Bool.and_eq_true] at tags
        exact tags.1 }
  case max =>
    rw [AttendArgs.enterMax]
    show (if _ then t else if (!bit o.var 0) = true then _ else _) = _
    rw [hsum]
    rfl
  case sum =>
    rw [AttendArgs.enterSum, AttendArgs.opened_eq]
    show (if _ then t else if (!bit o.var 0) = true then _ else _) = _
    rw [hsum]
    rfl
  case rows =>
    refine mode_of_rowsOpenIn (rows ?_) hr
    rw [hsum, Bool.true_and, Bool.and_eq_true]
    exact ⟨(Bool.not_eq_true' _).mpr hclosed, (Bool.not_eq_true' _).mpr (Bool.eq_false_iff.mpr fun none => hlive (List.isEmpty_iff.mp none))⟩

end Sys2Proof.Machine
end

section
/-!
# The max phase of ATTEND (spec/07 R187 to R189)

Its score passes leave all but their buffers; then it writes STATS, and the tags of STATS.
-/
namespace Sys2Proof.Machine

/-! ## Steps, and rows closed -/

/-- What each step of an op keeps holds once they have all gone through. -/
theorem foldlM_invariant {α : Type} {f : Core → α → Except CFault Core} {P : Core → Prop} (xs : List α)
    (step : ∀ x ∈ xs, ∀ t, P t → ∃ u, f t x = .ok u ∧ P u) : ∀ {k}, P k → ∃ u, xs.foldlM f k = .ok u ∧ P u := by
  induction xs with
  | nil => exact fun {k} h => ⟨k, rfl, h⟩
  | cons x xs ih =>
    intro k h
    obtain ⟨t, first, ht⟩ := step x List.mem_cons_self k h
    obtain ⟨u, others, hu⟩ := ih (fun y hy => step y (List.mem_cons_of_mem _ hy)) ht
    exact ⟨u, by rw [List.foldlM_cons, first]; exact others, hu⟩

section
variable (k : Core) (r0 n mode fmt opAddr : Nat)

theorem closeBuffers_succ : closeBuffers k r0 (n + 1) mode fmt opAddr =
    let t := closeBuffers k r0 n mode fmt opAddr
    { t with rows := Tab.set {} t.rows (r0 + n) ⟨false, mode, fmt, opAddr, 0⟩ } := by
  simp only [closeBuffers, List.range_succ, List.foldl_append, List.foldl_cons, List.foldl_nil]

/-- Closing rows changes their state alone. -/
theorem closeBuffers_eq : closeBuffers k r0 n mode fmt opAddr = { k with rows := (closeBuffers k r0 n mode fmt opAddr).rows } := by
  induction n with
  | zero => rfl
  | succ n ih => rw [closeBuffers_succ, ih]

theorem row_closeBuffers (r : Nat) : (closeBuffers k r0 n mode fmt opAddr).row r =
    if r0 ≤ r ∧ r < r0 + n then ⟨false, mode, fmt, opAddr, 0⟩ else k.row r := by
  induction n with
  | zero => rw [if_neg (by omega)]; rfl
  | succ n ih =>
    rw [closeBuffers_succ, Core.row, Tab.get_set, ← Core.row, ih]
    grind

theorem elem_closeBuffers (r j : Nat) : (closeBuffers k r0 n mode fmt opAddr).elem r j = k.elem r j := by
  rw [closeBuffers_eq]
  rfl

theorem scratch_closeBuffers : (closeBuffers k r0 n mode fmt opAddr).scratch = k.scratch := by rw [closeBuffers_eq]

end

@[simp] theorem Core.elem_orArith (k : Core) (x : Arith) (r j : Nat) : (k.orArith x).elem r j = k.elem r j := rfl

/-! ## Score passes -/

/-- `t` is `k` with other elements in `n` rows, and other status bits. -/
def Core.Buffered (k t : Core) (r0 n : Nat) : Prop :=
  t = { k with stock := t.stock, arith := t.arith } ∧ ∀ r j, j < 128 → r < r0 ∨ r0 + n ≤ r → t.elem r j = k.elem r j

theorem Core.Buffered.trans {k m t : Core} {r0 n : Nat} (h : k.Buffered m r0 n) (h' : m.Buffered t r0 n) : k.Buffered t r0 n := by
  obtain ⟨effect, elem⟩ := h
  obtain ⟨effect', elem'⟩ := h'
  exact ⟨by rw [effect', effect], fun r j hj hr => (elem' r j hj hr).trans (elem r j hj hr)⟩

theorem Core.Buffered.scratch {k t : Core} {r0 n : Nat} (h : k.Buffered t r0 n) : t.scratch = k.scratch := by rw [h.1]

namespace AttendArgs

variable (a : AttendArgs)

/-- The score elements of a row of a key tile (R188). -/
def scores (k : Core) (tau i : Nat) : List Acc :=
  ((List.range 128).map (128 * tau + ·)).map fun j =>
    if a.visible i j then a.sacc k i j else { elem := { v := 0, l := a.scoreL k i j, s := .finite } }

theorem length_scores (k : Core) (tau i : Nat) : ((a.scores k tau i).map Acc.elem).length = 128 := by
  simp only [scores, List.length_map, List.length_range]

/-- A score pass that breaches no anchor stores its score elements. -/
theorem scoreRow_eq (buf tau : Nat) {t : Core} {i : Nat} (safe : ∀ j, a.visible i j = true → (a.sacc t i j).breach = none) :
    a.scoreRow buf t tau i = .ok ((t.setElems (buf + tau % 2 * a.mc + i) 0 ((a.scores t tau i).map Acc.elem)).orArith
      ((a.scores t tau i).foldl (fun s x => s.or x.arith) {})) := by
  have unbroken : firstBreach 0 (a.scores t tau i) = none := by
    refine firstBreach_eq_none 0 fun x hx => ?_
    obtain ⟨j, -, rfl⟩ := List.mem_map.mp hx
    split
    case isTrue visible => exact safe j visible
    case isFalse => rfl
  rw [scoreRow, ← scores, unbroken]

/-- A score pass that breaches no anchor writes one row of its buffers. -/
theorem scoreRow_spec (buf tau : Nat) {t : Core} {i : Nat} (hi : i < a.mc)
    (safe : ∀ j, a.visible i j = true → (a.sacc t i j).breach = none) :
    ∃ u, a.scoreRow buf t tau i = .ok u ∧ t.Buffered u buf (2 * a.mc) := by
  refine ⟨_, a.scoreRow_eq buf tau safe, by rw [Core.orArith, Core.setElems_eq], fun r j hj hr => ?_⟩
  have slot : tau % 2 * a.mc ≤ a.mc := (Nat.mul_le_mul_right _ (by omega)).trans (Nat.one_mul _).le
  rw [Core.elem_orArith, Core.elem_setElems _ hj _ _ _ (by rw [a.length_scores]), if_neg (by omega)]

/-- What rests on the scratchpad alone. -/
theorem sacc_congr {x y : Core} (h : y.scratch = x.scratch) : a.sacc y = a.sacc x := by
  funext i j
  simp only [sacc, scoreL, Desc.planeByte_congr h, Desc.panelByte_congr h, h]

theorem stat_congr {x y : Core} (h : y.scratch = x.scratch) : a.stat y = a.stat x := by
  funext n
  rw [stat, stat, h]

theorem rowMax_congr {x y : Core} (h : y.scratch = x.scratch) : a.rowMax y = a.rowMax x := by
  funext i
  simp only [rowMax, a.sacc_congr h, a.stat_congr h]

theorem mem_maxSteps {x : Nat × Nat} (h : x ∈ a.maxSteps) : x.2 ∈ a.rows := by
  obtain ⟨tau, -, hx⟩ := List.mem_flatMap.mp h
  obtain ⟨i, hi, rfl⟩ := List.mem_map.mp hx
  exact hi

/-- The score passes of the max phase. -/
theorem buffered_maxSteps (fits : a.Fits) {k : Core} (safe : ∀ i ∈ a.rows, ∀ j ∈ a.seen i, (a.sacc k i j).breach = none) :
    ∃ u, a.maxSteps.foldlM (fun t x => a.scoreRow a.srow t x.1 x.2) k = .ok u ∧ k.Buffered u a.srow (2 * a.mc) := by
  refine foldlM_invariant a.maxSteps (fun x hx t before => ?_) ⟨rfl, fun _ _ _ _ => rfl⟩
  have hi := a.mem_maxSteps hx
  obtain ⟨u, done, after⟩ := a.scoreRow_spec a.srow x.1 (t := t) (fits.rows.2 _ hi).1 fun j visible => by
    rw [a.sacc_congr before.scratch]
    exact safe _ hi j (mem_seen fits visible)
  exact ⟨u, done, before.trans after⟩

/-! ## STATS -/

/-- The tag that a column of the values starts from, with its status (R189). -/
def tag0 (k : Core) (n : Nat) : Nat × Arith := if a.isOpen then (0, {}) else tagOfStat (a.stat k (128 + n))

/-- The tag of a column of the values, as the max phase stores it (R189). -/
def colTag (k : Core) (n : Nat) : Nat :=
  let vt := (List.range (ceilDiv a.nk 64)).foldl (fun m b => max m (a.vp.panelByte k .anchored 0 n b)) (a.tag0 k n).1
  (encode .fp32 ⟨.finite, false, vt, 0⟩ .rne).1

theorem fst_tag0 (k : Core) (n : Nat) : (a.tag0 k n).1 = if a.isOpen then 0 else (tagOfStat (a.stat k (128 + n))).1 := by
  rw [tag0, apply_ite Prod.fst]

/-- What the max phase stores in STATS: the maxima of the rows, and the tags of the columns. -/
def entries (k : Core) : List (Nat × Nat) :=
  a.rows.map (fun i => (i, (a.rowMax k i).1)) ++ (List.range a.dv).map fun n => (128 + n, a.colTag k n)

/-- A number stored in STATS. -/
def putStat (m : Memory) (e : Nat × Nat) : Memory := Memory.write m (a.statAddr e.1) (toLE 4 e.2)

/-- The tags of STATS, where it has them. -/
def putStatTags (m : Memory) : Memory :=
  if !a.stats.tagV then m
  else
    let wrote (b : Nat) : Bool := (List.range 64).any fun i =>
      let n := 64 * b + i
      if n < 128 then a.rows.contains n else decide (n < 128 + a.dv)
    ([0, 1, 2, 3].filter wrote).foldl (fun t b =>
      Memory.write t (a.stats.tagPtr + b) (rowTags .fp32 (loadRow m .fp32 (a.statAddr (64 * b)) 64))) m

/-- Scratchpad and status written one step after the other. -/
theorem foldl_scratch_orArith {α : Type} (f : Memory → α → Memory) (g : α → Arith) (xs : List α) (k : Core) :
    ∃ x, xs.foldl (fun (t : Core) y => ({ t with scratch := f t.scratch y } : Core).orArith (g y)) k =
      { k with scratch := xs.foldl f k.scratch, arith := x } := by
  induction xs generalizing k with
  | nil => exact ⟨k.arith, rfl⟩
  | cons y xs ih => exact ih _

theorem tagStats_eq (k : Core) : a.tagStats k = { k with scratch := a.putStatTags k.scratch } := by
  unfold tagStats putStatTags
  split <;> rfl

theorem writeStats_effect (k : Core) :
    ∃ x, a.writeStats k = { k with scratch := a.putStatTags ((a.entries k).foldl a.putStat k.scratch), arith := x } := by
  obtain ⟨x, rows⟩ := foldl_scratch_orArith (fun m i => a.putStat m (i, (a.rowMax k i).1)) (fun i => (a.rowMax k i).2) a.rows k
  obtain ⟨y, cols⟩ := foldl_scratch_orArith (fun m n => a.putStat m (128 + n, a.colTag k n)) (fun n => (a.tag0 k n).2) (List.range a.dv)
    { k with scratch := a.rows.foldl (fun m i => a.putStat m (i, (a.rowMax k i).1)) k.scratch, arith := x }
  have whole : a.writeStats k = a.tagStats _ := congrArg a.tagStats ((congrArg (List.foldl _ · _) rows).trans cols)
  refine ⟨y, whole.trans ?_⟩
  rw [tagStats_eq, entries, List.foldl_append, List.foldl_map, List.foldl_map]

/-! ## Codes that fit a word -/

theorem max32_lt (x y : Nat) : (max32 x y).1 < 2 ^ 32 := by
  have fits (m : Dec) : (if m.isZero then 0 else (encode .fp32 m .rne).1) < 2 ^ 32 := by
    split
    case isTrue => exact Nat.two_pow_pos 32
    case isFalse => exact encode_lt .fp32 _ _
  unfold max32
  dsimp only
  split
  case isTrue => exact show Fmt.nanCode .fp32 < 2 ^ 32 by decide
  case isFalse => exact fits _

theorem rowMax_lt (k : Core) (i : Nat) : (a.rowMax k i).1 < 2 ^ 32 := by
  have first : (if a.isOpen then negInf32 else a.stat k i) < 2 ^ 32 := by
    split
    · decide
    · exact Memory.nat_lt _ _ 4
  refine List.foldlRecOn (motive := fun (r : Nat × Arith) => r.1 < 2 ^ 32) _ _ first fun r before j _ => ?_
  dsimp only
  split
  case isTrue => exact max32_lt ..
  case isFalse => exact before

theorem entries_lt {k : Core} {e : Nat × Nat} (h : e ∈ a.entries k) : e.2 < 2 ^ 32 := by
  rcases List.mem_append.mp h with row | col
  · obtain ⟨i, -, rfl⟩ := List.mem_map.mp row
    exact a.rowMax_lt k i
  · obtain ⟨n, -, rfl⟩ := List.mem_map.mp col
    exact encode_lt .fp32 _ _

section
variable {a} (fits : a.Fits)
include fits

theorem entry_number {k : Core} {e : Nat × Nat} (h : e ∈ a.entries k) : e.1 < 256 := by
  rcases List.mem_append.mp h with row | col
  · obtain ⟨i, hi, rfl⟩ := List.mem_map.mp row
    have := (fits.rows.2 i hi).1
    have := fits.mc
    dsimp only
    omega
  · obtain ⟨n, hn, rfl⟩ := List.mem_map.mp col
    have := List.mem_range.mp hn
    have := fits.dv.2
    dsimp only
    omega

/-- No two entries bear one number. -/
theorem entries_apart (k : Core) : (a.entries k).Pairwise fun e e' => e.1 ≠ e'.1 := by
  rw [entries, List.pairwise_append, List.pairwise_map, List.pairwise_map]
  refine ⟨fits.rows.1, List.nodup_range.imp fun other same => other (by dsimp only at same; omega), fun e he e' he' => ?_⟩
  obtain ⟨i, hi, rfl⟩ := List.mem_map.mp he
  obtain ⟨n, -, rfl⟩ := List.mem_map.mp he'
  have := (fits.rows.2 i hi).1
  have := fits.mc
  dsimp only
  omega

/-- Each entry stands once they are stored, and bytes beyond STATS stay. -/
theorem putStats_spec (k : Core) (m : Memory) : let n := (a.entries k).foldl a.putStat m
    (∀ e ∈ a.entries k, Memory.nat n (a.statAddr e.1) 4 = e.2) ∧
      ∀ b, ¬ InRange b (a.stats.base, a.stats.span) → Memory.get n b = Memory.get m b := by
  have within (e : Nat × Nat) (_ : e ∈ a.entries k) (t : Memory) (b : Nat) (outside : ¬ InRange b (a.statAddr e.1, 4)) :
      Memory.get (a.putStat t e) b = Memory.get t b := by
    unfold InRange at outside
    rw [putStat, Memory.get_write, length_toLE, if_neg (by dsimp only at outside; omega)]
  have apart : (a.entries k).Pairwise fun e e' => ∀ b, InRange b (a.statAddr e.1, 4) → ¬ InRange b (a.statAddr e'.1, 4) := by
    refine (entries_apart fits k).imp fun other b here there => ?_
    unfold InRange statAddr at *
    dsimp only at *
    omega
  refine ⟨fun e he => ?_, fun b outside => get_foldl_of_untouched within (fun e he here => outside ?_) m⟩
  · obtain ⟨t, same⟩ := get_foldl_of_touched within apart he m
    have stored := (Memory.nat_congr fun b hb => same (a.statAddr e.1 + b) ⟨Nat.le_add_right .., Nat.add_lt_add_left hb _⟩).trans
      (Memory.nat_write t (a.statAddr e.1) 4 e.2)
    exact stored.trans (Nat.mod_eq_of_lt (a.entries_lt he))
  · have := entry_number fits he
    rw [fits.span_stats]
    unfold InRange statAddr at *
    dsimp only at *
    omega

theorem Fits.tagLen_stats : a.stats.tagLen = 4 := by
  have rows : a.stats.rows = 1 := by
    rw [Desc.rows, fits.stRank, List.drop_eq_nil_of_le (by rw [List.length_take]; omega)]
    rfl
  rw [Desc.tagLen, rows, fits.stExt]
  rfl

/-- Bytes beyond the tags of STATS stay as these are written. -/
theorem get_putStatTags {b : Nat} (m : Memory) (outside : a.stats.tagV = true → ¬ InRange b (a.stats.tagPtr, a.stats.tagLen)) :
    Memory.get (a.putStatTags m) b = Memory.get m b := by
  unfold putStatTags
  split
  case isTrue => rfl
  case isFalse tagged =>
    have outside := outside (by simpa using tagged)
    refine get_foldl_of_untouched (touches := fun x b => InRange b (a.stats.tagPtr + x, 1)) (fun x hx t b hb => ?_) (fun x hx here => ?_) m
    · have one : (rowTags .fp32 (loadRow m .fp32 (a.statAddr (64 * x)) 64)).length = 1 := by
        rw [length_rowTags, length_loadRow]
        rfl
      unfold InRange at hb
      rw [Memory.get_write, one, if_neg (by dsimp only at hb; omega)]
    · have few : x < 4 := by
        have := List.mem_of_mem_filter hx
        simp only [List.mem_cons, List.not_mem_nil, or_false] at this
        omega
      rw [fits.tagLen_stats] at outside
      unfold InRange at *
      dsimp only at *
      omega

/-- What the max phase leaves in the scratchpad: STATS, where its planes lie apart; bytes beyond STATS and its planes stay. -/
theorem writeStats_spec (apart : a.stats.planesApart) (k : Core) : let t := a.writeStats k
    (∀ e ∈ a.entries k, a.stat t e.1 = e.2) ∧ a.stats.keepsRest k.scratch t.scratch := by
  obtain ⟨x, effect⟩ := a.writeStats_effect k
  obtain ⟨stored, rest⟩ := putStats_spec fits k k.scratch
  obtain ⟨beside, -⟩ := apart.spec
  rw [effect]
  refine ⟨fun e he => Eq.trans (Memory.nat_congr fun b hb => ?_) (stored e he), fun b outside => ?_⟩
  · have number := entry_number fits he
    refine get_putStatTags fits _ fun tagged => beside tagged _ ?_
    rw [fits.span_stats]
    unfold InRange statAddr
    dsimp only
    omega
  · refine (get_putStatTags fits _ fun tagged here => ?_).trans (rest b fun here => ?_)
    · have := outside (a.stats.tagPtr, a.stats.tagLen) (by simp [Desc.hulls, tagged])
      unfold InRange at here
      omega
    · have := outside (a.stats.base, a.stats.span) (by simp [Desc.hulls])
      unfold InRange at here
      omega

/-! ## The issue -/

/-- What the max phase leaves as it issues, where no product breaches an anchor. -/
theorem enterMax_spec {s t : State} {c : Nat} (h : s.StoresKept t c) (at_ : State → Nat × Nat → Nat) (live : a.rows ≠ [])
    (apart : a.stats.planesApart) (safe : ∀ i ∈ a.rows, ∀ j ∈ a.seen i, (a.sacc (s.core c) i j).breach = none) :
    let k := s.core c
    let u := a.enterMax at_ c t
    s.RowOp u c ∧ k.sameRows (u.core c) a.srow (2 * a.mc) ∧ (∀ r, r < 2 * a.mc → ((u.core c).row (a.srow + r)).isOpen = false) ∧
      (∀ e ∈ a.entries k, a.stat (u.core c) e.1 = e.2) ∧ a.stats.keepsRest k.scratch (u.core c).scratch := by
  intro k u
  obtain ⟨v, done, buffered⟩ := buffered_maxSteps a fits (k := t.core c) (by rw [a.sacc_congr h.scratch]; exact safe)
  have scratch : v.scratch = k.scratch := buffered.scratch.trans h.scratch
  obtain ⟨effect, elem⟩ := buffered
  obtain ⟨x, stats⟩ := a.writeStats_effect v
  obtain ⟨stored, rest⟩ := writeStats_spec fits apart v
  have entries : a.entries v = a.entries k := by
    simp only [AttendArgs.entries, colTag, tag0, a.rowMax_congr scratch, a.stat_congr scratch, Desc.panelByte_congr scratch]
  have rows : v.rows = k.rows := by rw [effect]; exact h.rows
  rw [entries] at stored
  rw [scratch] at rest
  have entered : u = t.setCore c (closeBuffers (a.writeStats v) a.srow (2 * a.mc) a.mode.code a.q.fmt.code a.opAddr) := by
    have later : v.later = (t.core c).later := by rw [effect]
    simp only [u, enterMax, List.isEmpty_eq_false_iff.mpr live, Bool.false_eq_true, if_false, runSteps_of_foldlM _ done, later, if_true]
  have core : u.core c = closeBuffers (a.writeStats v) a.srow (2 * a.mc) a.mode.code a.q.fmt.code a.opAddr := by
    rw [entered, State.core_setCore, if_pos rfl]
  have row (r : Nat) : (u.core c).row r =
      if a.srow ≤ r ∧ r < a.srow + 2 * a.mc then ⟨false, a.mode.code, a.q.fmt.code, a.opAddr, 0⟩ else k.row r := by
    rw [core, row_closeBuffers, stats, ← Core.row_congr rows]
    rfl
  refine ⟨?_, fun r hr => ⟨?_, fun j hj => ?_⟩, fun r hr => ?_, ?_, ?_⟩
  · rw [entered]
    refine h.rowOp.setCore ?_ ?_
    all_goals rw [closeBuffers_eq, stats, effect]
  · rw [row, if_neg (by omega)]
  · rw [core, elem_closeBuffers, stats]
    exact (elem r j hj hr).trans (Core.elem_congr h.stock r j)
  · rw [row, if_pos (by omega)]
  · rw [core]
    exact fun e he => (congrFun (a.stat_congr (scratch_closeBuffers ..)) _).trans (stored e he)
  · rw [core, scratch_closeBuffers]
    exact rest

end

end AttendArgs

end Sys2Proof.Machine
end

section
/-!
# The sum phase of ATTEND (spec/07 R187, R190)

Each value pass stores its P row and adds the products of its exponentials; what it reads lies apart from its P rows, and the score passes leave
all but their buffers.
-/
namespace Sys2Proof.Machine

/-! ## Lists -/

/-- Of lists over distinct places of which all but one are empty that one remains. -/
theorem flatMap_of_unique {α : Type} {l : List Nat} (nodup : l.Nodup) {f : Nat → List α} {r : Nat}
    (others : ∀ i ∈ l, i ≠ r → f i = []) : l.flatMap f = if l.contains r then f r else [] := by
  induction l with
  | nil => rfl
  | cons i l ih =>
    obtain ⟨new, nodup⟩ := List.nodup_cons.mp nodup
    rw [List.flatMap_cons, ih nodup fun j hj => others j (.tail _ hj), List.contains_cons]
    by_cases first : i = r
    · subst first
      simp [new]
    · rw [others i (.head _) first, List.nil_append]
      simp [Ne.symm first]

/-- Steps that follow others by `lam` places. -/
theorem flatMap_range_lag {α : Type} (n lam : Nat) (f : Nat → List α) :
    ((List.range (n + lam)).flatMap fun p => if lam ≤ p then f (p - lam) else []) = (List.range n).flatMap f := by
  induction n with
  | zero =>
    rw [List.range_zero, List.flatMap_nil, List.flatMap_eq_nil_iff]
    intro p hp
    have := List.mem_range.mp hp
    exact if_neg (by omega)
  | succ n ih =>
    rw [Nat.succ_add, List.range_succ, List.flatMap_append, ih, List.range_succ, List.flatMap_append, List.flatMap_singleton,
      List.flatMap_singleton, if_pos (Nat.le_add_left ..), Nat.add_sub_cancel]

theorem zip_map_self {α β : Type} (l : List α) (f : α → β) : l.zip (l.map f) = l.map fun x => (x, f x) := by
  simpa only [List.map_id'] using List.zip_map' (f := fun x => x) (g := f) (l := l)

theorem products_congr {ks : List Nat} {a b a' b' : Nat → Dec × Arith} (ha : ∀ k ∈ ks, a' k = a k) (hb : ∀ k ∈ ks, b' k = b k) :
    products ks a' b' = products ks a b := List.map_congr_left fun k hk => by rw [ha k hk, hb k hk]

theorem keepsAnchor_congr {mode : AccMode} {x y : Elem} {ks ks' : List Nat} {a b a' b' : Nat → Dec × Arith} (hl : y.l = x.l)
    (hks : ∀ k ∈ ks', k ∈ ks) (ha : ∀ k ∈ ks', a' k = a k) (hb : ∀ k ∈ ks', b' k = b k) (safe : keepsAnchor mode x ks a b) :
    keepsAnchor mode y ks' a' b' := by
  intro k hk
  rw [hl, ha k hk, hb k hk]
  exact safe k (hks k hk)

namespace AttendArgs

variable (a : AttendArgs)

/-! ## The keys of a tile -/

/-- The keys of a tile. -/
def tile (tau : Nat) : List Nat := (List.range (min 128 (a.nkc - 128 * tau))).map (128 * tau + ·)

/-- The keys of a tile that a query row sees. -/
def tileSeen (tau i : Nat) : List Nat := (a.tile tau).filter (a.visible i)

theorem tile_eq_span (tau : Nat) : a.tile tau = span (0 + tau * 128) (min (0 + tau * 128 + 128) a.nkc) := by
  have length : min (tau * 128 + 128) a.nkc - tau * 128 = min 128 (a.nkc - tau * 128) := by omega
  rw [tile, span, Nat.zero_add, length, Nat.mul_comm 128 tau]

/-- The tiles together hold every key once. -/
theorem flatMap_tileSeen (i : Nat) : ((List.range (ceilDiv a.nkc 128)).flatMap fun tau => a.tileSeen tau i) = a.seen i := by
  have whole := le_ceilDiv_mul a.nkc (b := 128) (by decide)
  have tiles : (List.range (ceilDiv a.nkc 128)).flatMap a.tile = List.range a.nkc := by
    rw [funext a.tile_eq_span, flatMap_span, Nat.zero_add, Nat.min_eq_right whole, span_eq_range', List.range_eq_range', Nat.sub_zero]
  rw [seen, ← tiles, List.filter_flatMap]
  rfl

theorem mem_tileSeen {tau i j : Nat} (h : j ∈ a.tileSeen tau i) : a.visible i j = true ∧ j ∈ a.tile tau :=
  ⟨(List.mem_filter.mp h).2, (List.mem_filter.mp h).1⟩

/-! ## What a value pass adds -/

/-- The exponential of a query row and a key, as a value of the op's format. -/
def prob (k : Core) (i j : Nat) : Dec × Arith := decodeA a.q.fmt (a.expo k i j).1

/-- The value of a key in a column. -/
def val (k : Core) (n j : Nat) : Dec × Arith := a.vp.panel k.scratch j n

/-- The number 1, by which the sum takes the exponentials. -/
def one (_ : Nat) : Dec × Arith := (oneDec, {})

/-- The products that the value pass of a query row and a key tile adds to its outputs, element by element. -/
def outputTerms (k : Core) (tau i r j : Nat) : List Dec :=
  if r = a.srow + i ∧ j < a.dv then products (a.tileSeen tau i) (a.prob k i) (a.val k j) else []

/-- The products that it adds to the sum of its row. -/
def sumTerms (k : Core) (tau i r j : Nat) : List Dec :=
  if r = a.srow + a.mc ∧ j = i then products (a.tileSeen tau i) (a.prob k i) one else []

/-- The products that it adds. -/
def valueTerms (k : Core) (tau i r j : Nat) : List Dec := a.outputTerms k tau i r j ++ a.sumTerms k tau i r j

/-- The bytes of the P rows. -/
def pRows : Nat × Nat := (512 * a.pline, 1024 * a.mc)

/-- `t` is `k` with products added outside the score buffers, other bytes in the P rows, and other status bits. -/
structure Adds (k t : Core) (p : Nat → Nat → List Dec) : Prop where
  effect : t = { k with scratch := t.scratch, stock := t.stock, arith := t.arith }
  beside : ∀ b, ¬ InRange b a.pRows → Memory.get t.scratch b = Memory.get k.scratch b
  elem : ∀ r j, j < 128 → r < a.srow + a.mc + 1 ∨ a.srow + a.mc + 1 + 2 * a.mc ≤ r → t.elem r j = (p r j).foldl addProduct (k.elem r j)

section
variable {a} {k m t : Core} {p q : Nat → Nat → List Dec}

theorem Adds.refl (k : Core) : a.Adds k k fun _ _ => [] := ⟨rfl, fun _ _ => rfl, fun _ _ _ _ => rfl⟩

theorem Adds.trans (h : a.Adds k m p) (h' : a.Adds m t q) : a.Adds k t fun r j => p r j ++ q r j where
  effect := by rw [h'.effect, h.effect]
  beside b hb := (h'.beside b hb).trans (h.beside b hb)
  elem r j hj hr := by rw [h'.elem r j hj hr, h.elem r j hj hr, List.foldl_append]

theorem Adds.row (h : a.Adds k t p) (r : Nat) : t.row r = k.row r := by
  rw [h.effect]
  rfl

theorem Adds.elem_l (h : a.Adds k t p) {r j : Nat} (hj : j < 128) (hr : r < a.srow + a.mc + 1) : (t.elem r j).l = (k.elem r j).l := by
  rw [h.elem r j hj (.inl hr), foldl_addProduct_l]

/-- The steps of a sum phase, each of which adds products however the steps before it have added theirs. -/
theorem Adds.foldlM {α : Type} {f : Core → α → Except CFault Core} {p : α → Nat → Nat → List Dec} (xs : List α)
    (step : ∀ x ∈ xs, ∀ t q, a.Adds k t q → ∃ u, f t x = .ok u ∧ a.Adds t u (p x)) :
    ∀ {t q}, a.Adds k t q → ∃ u, xs.foldlM f t = .ok u ∧ a.Adds t u fun r j => xs.flatMap fun x => p x r j := by
  induction xs with
  | nil => exact fun {t} _ _ => ⟨t, rfl, .refl t⟩
  | cons x xs ih =>
    intro t q before
    obtain ⟨m, first, added⟩ := step x List.mem_cons_self t q before
    obtain ⟨u, others, rest⟩ := ih (fun y hy => step y (List.mem_cons_of_mem _ hy)) (before.trans added)
    exact ⟨u, by rw [List.foldlM_cons, first]; exact others, added.trans rest⟩

/-- A score pass adds nothing. -/
theorem Adds.of_buffered (h : k.Buffered t (a.srow + a.mc + 1) (2 * a.mc)) : a.Adds k t fun _ _ => [] where
  effect := by rw [h.1]
  beside b _ := by rw [h.scratch]
  elem r j hj hr := h.2 r j hj hr

theorem Adds.of_adds (h : k.Adds t p) : a.Adds k t p where
  effect := by rw [h.1]
  beside b _ := by rw [h.scratch]
  elem r j hj _ := h.2 r j hj

/-- A sum of a row, replaced. -/
theorem adds_setElem {i : Nat} (hi : i < 128) {x : Elem} {ps : List Dec} (sum : x = ps.foldl addProduct (k.elem (a.srow + a.mc) i))
    (status : Arith) :
    a.Adds k ((k.setElem (a.srow + a.mc) i x).orArith status) fun r j => if r = a.srow + a.mc ∧ j = i then ps else [] where
  effect := rfl
  beside _ _ := rfl
  elem r j hj _ := by
    rw [Core.elem_orArith, Core.elem_setElem _ _ _ _ hi hj, sum]
    split
    case isTrue here => rw [here.1, here.2]
    case isFalse => rfl

/-- What an ATTEND reads stands while it writes its P rows, if these lie apart. -/
theorem Adds.sameReads (apart : ∀ h ∈ a.reads, overlap a.pRows h = false) (before : a.Adds k t q) : a.SameReads k t :=
  fun h member b inside => before.beside b fun here => not_inRange_of_overlap (apart h member) here inside

end

/-! ## A value pass -/

/-- The codes of a P row, with their status: those of the keys that the query row does not see are zero (R190). -/
def probs (t : Core) (tau i : Nat) : List (Nat × Arith) := (a.tile tau).map fun j => if a.visible i j then a.expo t i j else (0, {})

/-- A core with a P row stored. -/
def storeP (t : Core) (tau i : Nat) : Core :=
  ({ t with scratch := Memory.write t.scratch (512 * (a.pline + tau % 2 * a.mc + i)) (packRow a.q.fmt ((a.probs t tau i).map Prod.fst)) } :
    Core).orArith ((a.probs t tau i).foldl (fun s p => s.or p.2) {})

/-- The keys of a tile that a query row sees, each with its exponential. -/
def seenProbs (t : Core) (tau i : Nat) : List (Nat × Nat × Arith) :=
  ((a.tile tau).zip (a.probs t tau i)).filter fun x => a.visible i x.1

/-- The code that stands for a key in a P row. -/
def code (t : Core) (tau i j : Nat) : Nat := ((a.probs t tau i).getD (j - 128 * tau) (0, {})).1

/-- The outputs of a value pass. -/
def addOutputs (t : Core) (tau i : Nat) : Except CFault Core :=
  (a.storeP t tau i).addTerms a.opAddr (a.srow + i) i a.dv ((a.seenProbs t tau i).map Prod.fst)
    (fun j => decodeA a.q.fmt (a.code t tau i j)) fun j n => a.vp.panel (a.storeP t tau i).scratch j n

/-- The sum of a row as a value pass adds to it. -/
def sumAcc (u : Core) (i : Nat) (seen : List (Nat × Nat × Arith)) : Acc :=
  seen.foldl (fun (x : Acc) (y : Nat × Nat × Arith) => x.add a.mode y.1 (decodeA a.q.fmt y.2.1) (oneDec, {})) { elem := u.elem (a.srow + a.mc) i }

/-- A value pass whose outputs and whose sum breach no anchor. -/
theorem valueRow_eq {t u : Core} {tau i : Nat} (outputs : a.addOutputs t tau i = .ok u)
    (unbroken : (a.sumAcc u i (a.seenProbs t tau i)).breach = none) :
    a.valueRow t tau i = .ok ((u.setElem (a.srow + a.mc) i (a.sumAcc u i (a.seenProbs t tau i)).elem).orArith
      (a.sumAcc u i (a.seenProbs t tau i)).arith) := by
  unfold valueRow
  dsimp only
  split
  case h_1 e failed => exact absurd (outputs.symm.trans failed) nofun
  case h_2 v done =>
    obtain rfl : u = v := Except.ok.inj (outputs.symm.trans done)
    split
    case h_1 j broken => exact absurd (unbroken.symm.trans broken) nofun
    case h_2 => rfl

theorem seenProbs_eq (t : Core) (tau i : Nat) : a.seenProbs t tau i = (a.tileSeen tau i).map fun j => (j, a.expo t i j) := by
  rw [seenProbs, probs, zip_map_self, List.filter_map, tileSeen]
  refine List.map_congr_left fun j hj => ?_
  rw [if_pos (show a.visible i j = true from (List.mem_filter.mp hj).2)]

theorem map_seenProbs (t : Core) (tau i : Nat) : (a.seenProbs t tau i).map Prod.fst = a.tileSeen tau i := by
  rw [seenProbs_eq, List.map_map]
  exact List.map_id' _

theorem code_eq (t : Core) {tau i j : Nat} (hj : j ∈ a.tileSeen tau i) : a.code t tau i j = (a.expo t i j).1 := by
  obtain ⟨visible, inTile⟩ := a.mem_tileSeen hj
  obtain ⟨n, hn, rfl⟩ := List.mem_map.mp inTile
  have hn := List.mem_range.mp hn
  rw [code, Nat.add_sub_cancel_left, probs, tile, List.map_map, List.getD_eq_getElem _ _ (by simpa using hn)]
  simp [visible]

/-- The sum of a row takes the exponentials of the keys that it sees. -/
theorem sumAcc_eq (t u : Core) (tau i : Nat) : a.sumAcc u i (a.seenProbs t tau i) =
    (a.tileSeen tau i).foldl (fun x j => x.add a.mode j (a.prob t i j) (one j)) { elem := u.elem (a.srow + a.mc) i } := by
  rw [sumAcc, seenProbs_eq, List.foldl_map]
  rfl

/-- A P row fills its line at most. -/
theorem length_packRow_probs (t : Core) (tau i : Nat) : (packRow a.q.fmt ((a.probs t tau i).map Prod.fst)).length ≤ 512 := by
  have tile : ((a.probs t tau i).map Prod.fst).length ≤ 128 := by
    simp only [probs, AttendArgs.tile, List.length_map, List.length_range]
    exact Nat.min_le_left ..
  rw [length_packRow]
  have line : a.q.fmt.bytes 128 ≤ 512 := by cases a.q.fmt <;> decide
  exact (bitBytes_mono _ tile).trans line

section
variable {a} (t : Core) {tau i : Nat} (hi : i < a.mc)
include hi

theorem get_storeP {b : Nat} (outside : ¬ InRange b a.pRows) : Memory.get (a.storeP t tau i).scratch b = Memory.get t.scratch b := by
  have written := Memory.get_write (packRow a.q.fmt ((a.probs t tau i).map Prod.fst)) t.scratch
    (512 * (a.pline + tau % 2 * a.mc + i)) b
  have length := a.length_packRow_probs t tau i
  have slot : tau % 2 * a.mc ≤ a.mc := (Nat.mul_le_mul_right _ (by omega)).trans (Nat.one_mul _).le
  unfold InRange pRows at outside
  rw [if_neg (by dsimp only at outside; omega)] at written
  exact written

theorem adds_storeP : a.Adds t (a.storeP t tau i) fun _ _ => [] :=
  ⟨rfl, fun _ outside => get_storeP t hi outside, fun _ _ _ _ => rfl⟩

end

section
variable {a} (fits : a.Fits) (apart : ∀ h ∈ a.reads, overlap a.pRows h = false) {k : Core} {i : Nat} (hi : i ∈ a.rows)
  (mode : (k.row (a.srow + i)).mode = a.mode.code)
  (safe : ∀ n, n < a.dv → keepsAnchor a.mode (k.elem (a.srow + i) n) (a.seen i) (a.prob k i) (a.val k n))
  (safeSum : keepsAnchor a.mode (k.elem (a.srow + a.mc) i) (a.seen i) (a.prob k i) one)
include fits hi

/-- The exponentials of a value pass are those that stood before the op, as far as its row sees. -/
theorem prob_same {t : Core} (same : a.SameReads k t) {tau j : Nat} (hj : j ∈ a.tileSeen tau i) : a.prob t i j = a.prob k i j := by
  rw [prob, prob, expo_same fits same hi (lt_of_visible (a.mem_tileSeen hj).1)]

include apart mode safe

/-- The outputs of a value pass, where no product breaches an anchor. -/
theorem adds_addOutputs {t : Core} {q : Nat → Nat → List Dec} (before : a.Adds k t q) (tau : Nat) :
    ∃ u, a.addOutputs t tau i = .ok u ∧
      a.Adds t u (a.outputTerms k tau i) := by
  have hmc := (fits.rows.2 i hi).1
  have stored : a.Adds t (a.storeP t tau i) fun _ _ => [] := adds_storeP t hmc
  have same := before.sameReads apart
  have same1 := (before.trans stored).sameReads apart
  have probs (j : Nat) (hj : j ∈ a.tileSeen tau i) : decodeA a.q.fmt (a.code t tau i j) = a.prob k i j := by
    rw [a.code_eq t hj]
    exact prob_same fits hi same hj
  have vals (n : Nat) (hn : n < a.dv) (j : Nat) (hj : j ∈ a.tileSeen tau i) : a.vp.panel (a.storeP t tau i).scratch j n = a.val k n j :=
    value_same fits same1 (lt_of_visible (a.mem_tileSeen hj).1) hn
  have anchors (n : Nat) (hn : n < a.dv) : keepsAnchor a.mode ((a.storeP t tau i).elem (a.srow + i) n)
      ((a.seenProbs t tau i).map Prod.fst) (fun j => decodeA a.q.fmt (a.code t tau i j))
      fun j => a.vp.panel (a.storeP t tau i).scratch j n := by
    rw [a.map_seenProbs]
    exact keepsAnchor_congr (before.elem_l (hn.trans_le fits.dv.2) (by omega)) (fun j hj => mem_seen fits (a.mem_tileSeen hj).1) probs
      (vals n hn) (safe n hn)
  obtain ⟨u, done, added⟩ := Core.adds_addTerms (k := a.storeP t tau i) (opAddr := a.opAddr) (recRow := i)
    ((congrArg StockRow.mode (before.row _)).trans mode) fits.dv.2 anchors
  have outputs := added.congr (q := a.outputTerms k tau i) fun r j => by
    rw [a.map_seenProbs]
    refine if_ctx_congr Iff.rfl (fun here => ?_) fun _ => rfl
    exact products_congr probs (vals j here.2)
  exact ⟨u, done, stored.trans (.of_adds outputs)⟩

include safeSum

/-- A value pass, where no product breaches an anchor. -/
theorem adds_valueRow {t : Core} {q : Nat → Nat → List Dec} (before : a.Adds k t q) (tau : Nat) :
    ∃ u, a.valueRow t tau i = .ok u ∧ a.Adds t u (a.valueTerms k tau i) := by
  have hmc := (fits.rows.2 i hi).1
  have columns := fits.mc
  obtain ⟨u, outputs, added⟩ := adds_addOutputs fits apart hi mode safe before tau
  have same := before.sameReads apart
  have probs (j : Nat) (hj : j ∈ a.tileSeen tau i) : a.prob t i j = a.prob k i j := prob_same fits hi same hj
  have anchors : keepsAnchor a.mode (u.elem (a.srow + a.mc) i) (a.tileSeen tau i) (a.prob t i) one :=
    keepsAnchor_congr ((before.trans added).elem_l (by omega) (by omega)) (fun j hj => mem_seen fits (a.mem_tileSeen hj).1) probs
      (fun _ _ => rfl) safeSum
  obtain ⟨sum, unbroken⟩ := Acc.foldl_add (a.tileSeen tau i) (x := { elem := u.elem (a.srow + a.mc) i }) anchors
  rw [← a.sumAcc_eq] at sum unbroken
  rw [sumOf_eq_products, products_congr probs fun _ _ => rfl] at sum
  exact ⟨_, a.valueRow_eq outputs unbroken, added.trans (adds_setElem (by omega) sum _)⟩

end

/-! ## The products of the whole phase -/

/-- The products of a step, element by element: a score pass adds none. -/
def sumStepTerms (k : Core) (x : Bool × Nat × Nat) (r j : Nat) : List Dec := if x.1 then [] else a.valueTerms k x.2.1 x.2.2 r j

/-- The keys whose products an output element takes. -/
def keys (r n : Nat) : List Nat := if a.rows.contains r && decide (n < a.dv) then a.seen r else []

/-- The keys whose exponentials the sum of a row takes. -/
def sumKeys (r : Nat) : List Nat := if a.rows.contains r then a.seen r else []

theorem mem_sumSteps {lam : Nat} {x : Bool × Nat × Nat} (h : x ∈ a.sumSteps lam) : x.2.2 ∈ a.rows := by
  obtain ⟨p, -, hx⟩ := List.mem_flatMap.mp h
  rcases List.mem_append.mp hx with score | value
  · split at score
    case isTrue => obtain ⟨i, hi, rfl⟩ := List.mem_map.mp score; exact hi
    case isFalse => exact absurd score List.not_mem_nil
  · split at value
    case isTrue => obtain ⟨i, hi, rfl⟩ := List.mem_map.mp value; exact hi
    case isFalse => exact absurd value List.not_mem_nil

/-- The products of all steps are those of the value passes, tile by tile. -/
theorem flatMap_sumSteps (lam : Nat) (k : Core) (r j : Nat) : ((a.sumSteps lam).flatMap fun x => a.sumStepTerms k x r j) =
    (List.range (ceilDiv a.nkc 128)).flatMap fun tau => a.rows.flatMap fun i => a.valueTerms k tau i r j := by
  rw [← flatMap_range_lag _ lam, sumSteps, List.flatMap_assoc]
  refine congrArg (List.flatMap · _) (funext fun p => ?_)
  have scores : (if p < ceilDiv a.nkc 128 then a.rows.map fun i => (true, p, i) else []).flatMap (fun x => a.sumStepTerms k x r j) = [] := by
    refine List.flatMap_eq_nil_iff.mpr fun x hx => ?_
    split at hx
    case isTrue => obtain ⟨i, -, rfl⟩ := List.mem_map.mp hx; rfl
    case isFalse => exact absurd hx List.not_mem_nil
  rw [List.flatMap_append, scores, List.nil_append]
  split
  case isTrue => rw [List.flatMap_map]; rfl
  case isFalse => rfl

section
variable {a} (fits : a.Fits) (k : Core)
include fits

/-- An output element takes the products of its row's exponentials and the values of its column. -/
theorem flatMap_outputs {r : Nat} (hr : r < a.mc) (j : Nat) :
    ((List.range (ceilDiv a.nkc 128)).flatMap fun tau => a.rows.flatMap fun i => a.valueTerms k tau i (a.srow + r) j) =
      products (a.keys r j) (a.prob k r) (a.val k j) := by
  have terms (tau i : Nat) : a.valueTerms k tau i (a.srow + r) j =
      if r = i ∧ j < a.dv then products (a.tileSeen tau i) (a.prob k i) (a.val k j) else [] := by
    have notSum : ¬ (r = a.mc ∧ j = i) := by omega
    simp only [valueTerms, outputTerms, sumTerms, Nat.add_left_cancel_iff, notSum, if_false, List.append_nil]
  have pass (tau : Nat) : (a.rows.flatMap fun i => a.valueTerms k tau i (a.srow + r) j) =
      if a.rows.contains r && decide (j < a.dv) then products (a.tileSeen tau r) (a.prob k r) (a.val k j) else [] := by
    rw [flatMap_of_unique fits.rows.1 (r := r) fun i _ other => (terms tau i).trans (if_neg fun here => other here.1.symm), terms]
    cases a.rows.contains r <;> simp
  rw [funext pass, keys]
  split
  · rw [← a.flatMap_tileSeen, products, List.map_flatMap]
    rfl
  · exact List.flatMap_eq_nil_iff.mpr fun _ _ => rfl

/-- Other rows take no product. -/
theorem flatMap_others {r : Nat} (hr : r < a.srow ∨ a.srow + a.mc < r) (j : Nat) :
    ((List.range (ceilDiv a.nkc 128)).flatMap fun tau => a.rows.flatMap fun i => a.valueTerms k tau i r j) = [] := by
  refine List.flatMap_eq_nil_iff.mpr fun tau _ => List.flatMap_eq_nil_iff.mpr fun i hi => ?_
  have := (fits.rows.2 i hi).1
  rw [valueTerms, outputTerms, if_neg (by omega), sumTerms, if_neg (by omega), List.append_nil]

/-- The sum of a row takes its exponentials. -/
theorem flatMap_sums (j : Nat) :
    ((List.range (ceilDiv a.nkc 128)).flatMap fun tau => a.rows.flatMap fun i => a.valueTerms k tau i (a.srow + a.mc) j) =
      products (a.sumKeys j) (a.prob k j) one := by
  have terms (tau i : Nat) (hi : i ∈ a.rows) : a.valueTerms k tau i (a.srow + a.mc) j =
      if j = i then products (a.tileSeen tau i) (a.prob k i) one else [] := by
    have notOutput : ¬ (a.mc = i ∧ j < a.dv) := by
      have := (fits.rows.2 i hi).1
      omega
    simp only [valueTerms, outputTerms, sumTerms, Nat.add_left_cancel_iff, notOutput, true_and, if_false, List.nil_append]
  have pass (tau : Nat) : (a.rows.flatMap fun i => a.valueTerms k tau i (a.srow + a.mc) j) =
      if a.rows.contains j then products (a.tileSeen tau j) (a.prob k j) one else [] := by
    rw [flatMap_of_unique fits.rows.1 (r := j) fun i hi other => (terms tau i hi).trans (if_neg fun here => other here.symm)]
    split
    case isTrue here => rw [terms tau j (List.contains_iff_mem.mp here), if_pos rfl]
    case isFalse => rfl
  rw [funext pass, sumKeys]
  split
  · rw [← a.flatMap_tileSeen, products, List.map_flatMap]
    rfl
  · exact List.flatMap_eq_nil_iff.mpr fun _ _ => rfl

variable {k} (apart : ∀ h ∈ a.reads, overlap a.pRows h = false)
  (mode : ∀ r, r < a.mc + 1 → (k.row (a.srow + r)).mode = a.mode.code)
  (unbroken : ∀ i ∈ a.rows, ∀ j ∈ a.seen i, (a.sacc k i j).breach = none)
  (safe : ∀ r n, r < a.mc → n < 128 → keepsAnchor a.mode (k.elem (a.srow + r) n) (a.keys r n) (a.prob k r) (a.val k n))
  (safeSum : ∀ r, r < 128 → keepsAnchor a.mode (k.elem (a.srow + a.mc) r) (a.sumKeys r) (a.prob k r) one)
include apart mode unbroken safe safeSum

/-- One step of the sum phase, where no product breaches an anchor. -/
theorem adds_sumStep {lam : Nat} {x : Bool × Nat × Nat} (hx : x ∈ a.sumSteps lam) {t : Core} {q : Nat → Nat → List Dec}
    (before : a.Adds k t q) : ∃ u, a.sumStep t x = .ok u ∧ a.Adds t u (a.sumStepTerms k x) := by
  have hi := a.mem_sumSteps hx
  obtain ⟨score, tau, i⟩ := x
  have hmc := (fits.rows.2 i hi).1
  have named : a.rows.contains i = true := List.contains_iff_mem.mpr hi
  have columns := fits.dv.2
  have rows := fits.mc
  cases score with
  | true =>
    obtain ⟨u, done, buffered⟩ := a.scoreRow_spec (a.srow + a.mc + 1) tau (t := t) hmc fun j visible => by
      rw [sacc_same fits (before.sameReads apart) hi (lt_of_visible visible)]
      exact unbroken i hi j (mem_seen fits visible)
    exact ⟨u, done, .of_buffered buffered⟩
  | false =>
    refine adds_valueRow fits apart hi (mode i (by omega)) (fun n hn => ?_) ?_ before tau
    · have keys : a.keys i n = a.seen i := if_pos (by rw [named, decide_eq_true hn]; rfl)
      exact keys ▸ safe i n hmc (by omega)
    · have keys : a.sumKeys i = a.seen i := if_pos named
      exact keys ▸ safeSum i (by omega)

/-- All steps of the sum phase. -/
theorem adds_sumSteps (lam : Nat) : ∃ u, (a.sumSteps lam).foldlM a.sumStep k = .ok u ∧
    a.Adds k u fun r j => (a.sumSteps lam).flatMap fun x => a.sumStepTerms k x r j :=
  Adds.foldlM _ (fun _ hx _ _ before => adds_sumStep fits apart mode unbroken safe safeSum hx before) (.refl k)

end

/-! ## The issue -/

/-- An element of its output rows and of its row of sums before its products: opened, or as it stands. -/
def start (k : Core) (r j : Nat) : Elem := if a.isOpen then openElem (a.outL k r j) else k.elem (a.srow + r) j

theorem outL_congr {x y : Core} (h : y.scratch = x.scratch) : a.outL y = a.outL x := by
  funext r j
  simp only [outL, a.stat_congr h]

theorem prob_congr {x y : Core} (h : y.scratch = x.scratch) : a.prob y = a.prob x := by
  funext i j
  simp only [prob, expo, a.stat_congr h, a.sacc_congr h]

theorem val_congr {x y : Core} (h : y.scratch = x.scratch) : a.val y = a.val x := by
  funext n j
  rw [val, val, h]

theorem opened_effect (k : Core) : ∃ x, a.opened k =
    { k.openedIf a.isOpen a.srow (a.mc + 1) a.mode.code a.q.fmt.code a.opAddr 0 (a.outL k) with arith := x } := by
  unfold opened
  split
  · exact ⟨_, rfl⟩
  · exact ⟨_, rfl⟩

/-- The rows as the sum phase finds or opens them. -/
theorem opened_spec (k : Core) : k.StockEffect (a.opened k) ∧ k.sameRows (a.opened k) a.srow (a.mc + 1) ∧
    (∀ r, r < a.mc + 1 → (a.opened k).row (a.srow + r) =
      if a.isOpen then ⟨true, a.mode.code, a.q.fmt.code, a.opAddr, 0⟩ else k.row (a.srow + r)) ∧
    ∀ r j, r < a.mc + 1 → j < 128 → (a.opened k).elem (a.srow + r) j = a.start k r j := by
  obtain ⟨x, effect⟩ := a.opened_effect k
  rw [effect]
  refine ⟨?_, k.sameRows_openedIf _ _ _ _ _ _ _ _, fun r hr => k.row_openedIf _ _ _ _ _ _ _ _ hr,
    fun r j hr hj => k.elem_openedIf _ _ _ _ _ _ _ _ hr hj⟩
  have stock := k.stockEffect_openedIf a.isOpen a.srow (a.mc + 1) a.mode.code a.q.fmt.code a.opAddr 0 (a.outL k)
  unfold Core.StockEffect at stock ⊢
  rw [stock]

/-- What the sum phase leaves as it issues, where no product breaches an anchor and its P rows lie apart from what it reads. -/
theorem enterSum_spec (fits : a.Fits) {s t : State} {c : Nat} (h : s.StoresKept t c) (lam : Nat)
    (at_ : State → Bool × Nat × Nat → Nat) (live : a.rows ≠ []) (apart : ∀ h ∈ a.reads, overlap a.pRows h = false)
    (closed : a.isOpen = false → ∀ r, r < a.mc + 1 → ((s.core c).row (a.srow + r)).mode = a.mode.code)
    (unbroken : ∀ i ∈ a.rows, ∀ j ∈ a.seen i, (a.sacc (s.core c) i j).breach = none)
    (safe : ∀ r n, r < a.mc → n < 128 →
      keepsAnchor a.mode (a.start (s.core c) r n) (a.keys r n) (a.prob (s.core c) r) (a.val (s.core c) n))
    (safeSum : ∀ r, r < 128 → keepsAnchor a.mode (a.start (s.core c) a.mc r) (a.sumKeys r) (a.prob (s.core c) r) one) :
    let k := s.core c
    let u := a.enterSum lam at_ c t
    s.RowOp u c ∧ k.sameRows (u.core c) a.srow (3 * a.mc + 1) ∧
      (∀ r n, r < a.mc → n < 128 → (u.core c).elem (a.srow + r) n = sumOf (a.start k r n) (a.keys r n) (a.prob k r) (a.val k n)) ∧
      (∀ r, r < 128 → (u.core c).elem (a.srow + a.mc) r = sumOf (a.start k a.mc r) (a.sumKeys r) (a.prob k r) one) ∧
      (∀ r, r < 2 * a.mc → ((u.core c).row (a.srow + a.mc + 1 + r)).isOpen = false) ∧
      ∀ b, ¬ InRange b a.pRows → Memory.get (u.core c).scratch b = Memory.get k.scratch b := by
  intro k u
  obtain ⟨stock, same, rows, elems⟩ := a.opened_spec (t.core c)
  have scratch : (a.opened (t.core c)).scratch = k.scratch := stock.scratch.trans h.scratch
  have start (r j : Nat) (hr : r < a.mc + 1) (hj : j < 128) : (a.opened (t.core c)).elem (a.srow + r) j = a.start k r j := by
    rw [elems r j hr hj, AttendArgs.start, AttendArgs.start, a.outL_congr h.scratch, Core.elem_congr h.stock]
  have mode (r : Nat) (hr : r < a.mc + 1) : ((a.opened (t.core c)).row (a.srow + r)).mode = a.mode.code := by
    rw [rows r hr]
    cases hopen : a.isOpen
    · exact (congrArg StockRow.mode (Core.row_congr h.rows _)).trans (closed hopen r hr)
    · rfl
  obtain ⟨v, done, added⟩ := adds_sumSteps fits apart mode (by rw [a.sacc_congr scratch]; exact unbroken)
    (fun r n hr hn => by rw [start r n (by omega) hn, a.prob_congr scratch, a.val_congr scratch]; exact safe r n hr hn)
    (fun r hr => by rw [start a.mc r (by omega) hr, a.prob_congr scratch]; exact safeSum r hr) lam
  have entered : u = t.setCore c (closeBuffers v (a.srow + a.mc + 1) (2 * a.mc) a.mode.code a.q.fmt.code a.opAddr) := by
    simp only [u, enterSum, List.isEmpty_eq_false_iff.mpr live, Bool.false_eq_true, if_false, runSteps_of_foldlM _ done]
  have core : u.core c = closeBuffers v (a.srow + a.mc + 1) (2 * a.mc) a.mode.code a.q.fmt.code a.opAddr := by
    rw [entered, State.core_setCore, if_pos rfl]
  refine ⟨?rowOp, fun r hr => ⟨?row, fun j hj => ?elem⟩, fun r n hr hn => ?outputs, fun r hr => ?sums, fun r hr => ?closed,
    fun b outside => ?bytes⟩
  case rowOp =>
    rw [entered]
    refine h.rowOp.setCore ?_ ?_
    all_goals rw [closeBuffers_eq, added.effect]
    · exact stock.cnts
    · exact stock.shape
  case row =>
    rw [core, row_closeBuffers, if_neg (by omega), added.row, (same r (by omega)).1, Core.row_congr h.rows]
  case elem =>
    rw [core, elem_closeBuffers, added.elem r j hj (by omega), a.flatMap_sumSteps, flatMap_others fits _ (by omega), List.foldl_nil,
      (same r (by omega)).2 j hj, Core.elem_congr h.stock]
  case outputs =>
    rw [core, elem_closeBuffers, added.elem _ _ hn (by omega), a.flatMap_sumSteps, flatMap_outputs fits _ hr, start r n (by omega) hn,
      a.prob_congr scratch, a.val_congr scratch, sumOf_eq_products]
  case sums =>
    rw [core, elem_closeBuffers, added.elem _ _ hr (by omega), a.flatMap_sumSteps, flatMap_sums fits, start a.mc r (by omega) hr,
      a.prob_congr scratch, sumOf_eq_products]
  case closed =>
    rw [core, row_closeBuffers, if_pos (by omega)]
  case bytes =>
    rw [core, scratch_closeBuffers, added.beside b outside, scratch]

end AttendArgs

/-! ## The statement -/

theorem planFor_attend {o : Op} (h : o.opc = 0x03) : planFor o = planAttend := by simp only [planFor, h]

/-- Settles O17: the issue by `gives_attend`, the max phase by `AttendArgs.enterMax_spec`, the sum phase by `AttendArgs.enterSum_spec`. -/
theorem attentionPhases : Obligations.AttentionPhases := by
  intro s c i q kp vp st h k o hopc hrefs a f anchored seen unbroken
  have look := s.core_look c
  have kept := s.storesKept_ahead c i
  have given := State.gives_dueIssue h (planFor_attend hopc) (gives_attend (s.look c) c o (by rw [look, Core.refs_looked]; exact hrefs))
  rw [look] at given
  obtain ⟨fits, effectMax, effectSum, rows⟩ : a.Fits ∧
    (bit o.var 0 = false → ∃ at_, ∀ id t, i.effect id t = a.enterMax at_ c t) ∧
    (bit o.var 0 = true → ∃ lam at_, ∀ id t, i.effect id t = a.enterSum lam at_ c t) ∧
    (bit o.var 0 = true → a.isOpen = false → a.rows ≠ [] → ∀ r, r < a.mc + 1 → (k.row (a.srow + r)).mode = a.mode.code) := given
  refine ⟨fun phase live apart => ?max, fun phase live apart => ?sum⟩
  case max =>
    obtain ⟨at_, effect⟩ := effectMax phase
    have issued := issueRow_effect h (mnemonic := "ATTEND_MAX_PHASE") (mine := fun o => o.opc == 0x03 && !bit o.var 0)
      (by simp [o, k, hopc, phase]) (planFor_attend hopc)
    rw [effect] at issued
    obtain ⟨rowOp, same, closed, stats, rest⟩ := AttendArgs.enterMax_spec fits kept at_ live apart unbroken
    refine ⟨_, issued, rowOp, same, closed, fun r hr => stats (r, _) (List.mem_append_left _ (List.mem_map_of_mem hr)),
      fun n hn => ?_, rest⟩
    have stored := stats (128 + n, a.colTag k n) (List.mem_append_right _ (List.mem_map_of_mem (List.mem_range.mpr hn)))
    rw [AttendArgs.colTag, a.fst_tag0] at stored
    exact stored
  case sum =>
    intro p v ks one start start1 ks1 safe safeSum
    obtain ⟨lam, at_, effect⟩ := effectSum phase
    have issued := issueRow_effect h (mnemonic := "ATTEND_SUM_PHASE") (mine := fun o => o.opc == 0x03 && bit o.var 0)
      (by simp [o, k, hopc, phase]) (planFor_attend hopc)
    rw [effect] at issued
    have out (r n : Nat) (hr : r < a.mc) : a.start k r n = start r n := by
      rw [AttendArgs.start, a.outL_of_lt k hr]
      rfl
    have sum (r : Nat) : a.start k a.mc r = start1 r := by
      rw [AttendArgs.start, a.outL_last]
      rfl
    obtain ⟨rowOp, same, outputs, sums, closed, bytes⟩ := a.enterSum_spec fits kept lam at_ live apart
      (fun hclosed => rows phase hclosed live) unbroken (fun r n hr hn => (out r n hr).symm ▸ safe r n hr hn)
      fun r hr => (sum r).symm ▸ safeSum r hr
    refine ⟨_, issued, rowOp, same, fun r n hr hn => (outputs r n hr hn).trans (congrArg (sumOf · _ _ _) (out r n hr)),
      fun r hr => (sums r hr).trans (congrArg (sumOf · _ _ _) (sum r)), closed, fun b outside => bytes b fun inside => ?_⟩
    unfold InRange AttendArgs.pRows at inside
    dsimp only at inside
    omega

end Sys2Proof.Machine
end

section
/-!
# Transfers end (spec/08 R210, R213; spec/06 R152, R154; spec/01 R23)

Acknowledgements, refusals, attached increments and slot mismatches: what O25 claims of them, claim by claim, and the two claims that fail.
-/
namespace Sys2Proof.Machine

/-! ## Transfers that are gone -/

/-- No transfer of a number is left. -/
def State.Gone (s : State) (i : Nat) : Prop := ∀ y ∈ s.xfers, y.id ≠ i

theorem State.gone_delXfer (s : State) (i : Nat) : (s.delXfer i).Gone i := fun y hy => by
  simpa using (List.mem_filter.mp hy).2

namespace State.Gone

variable {s t : State} {i : Nat}

theorem congr (h : s.Gone i) (hx : t.xfers = s.xfers) : t.Gone i := fun y hy => h y (hx ▸ hy)

theorem modXfer (h : s.Gone i) (j : Nat) {f : Xfer → Xfer} (hf : ∀ x, (f x).id = x.id) : (s.modXfer j f).Gone i := fun y hy => by
  obtain ⟨x, hx, rfl⟩ := State.mem_modXfer hy
  split
  · exact hf x ▸ h x hx
  · exact h x hx

theorem giveTag (h : s.Gone i) (c : Nat) : (s.giveTag c).Gone i := by
  unfold State.giveTag
  split
  · exact h
  · split
    · exact h.modXfer _ fun _ => rfl
    · exact h

theorem dropWaiting (h : s.Gone i) (c : Nat) : (s.dropWaiting c).Gone i := fun y hy => h y (List.mem_filter.mp hy).1

theorem dropPrograms (h : s.Gone i) (c : Nat) : (s.dropPrograms c).Gone i := fun y hy => by
  obtain ⟨x, hx, rfl⟩ := List.mem_map.mp hy
  split <;> exact h x hx

theorem coreFault (h : s.Gone i) (c : Nat) (f : CFault) : (s.coreFault c f).Gone i := by
  unfold State.coreFault
  dsimp only
  split
  · unfold State.stopCore
    dsimp only
    split <;> exact ((h.congr (by rfl)).dropWaiting c).dropPrograms c
  · exact h.congr rfl

end State.Gone

/-! ## Acknowledgements and refusals (spec/08 R210, R213) -/

section
variable (s : State) (x : Xfer) (cyc : Nat) (quiet : Bool)

@[simp] theorem State.opDone_mem : (s.opDone x cyc quiet).mem = s.mem := by
  unfold State.opDone
  split <;> rfl

@[simp] theorem State.opDone_err : (s.opDone x cyc quiet).err = s.err := by
  unfold State.opDone
  split <;> rfl

@[simp] theorem State.running_opDone (c : Nat) : ((s.opDone x cyc quiet).core c).running = (s.core c).running := by
  unfold State.opDone
  split
  · rfl
  · rw [State.core_modCore]
    split
    · subst_vars; rfl
    · rfl

@[simp] theorem State.countSent_mem : (s.countSent x).mem = s.mem := by
  unfold State.countSent
  split <;> rfl

end

/-- With its acknowledgement a transfer of the module's own is gone, where no increment of it is still to go on. -/
theorem leads_transferAcknowledgement {s : State} {i : Nat} {x : Xfer} (hx : s.xfer i = some x) (committed : x.stage = .committed)
    (hlate : x.late = none) (own : x.foreign = false) (program : x.kind ≠ .program) (descriptors : x.kind ≠ .descriptors) (hatt : x.att = []) :
    Leads (exec (.transferAcknowledgement i) s) fun t => t.Gone i ∧ t.mem = s.mem := by
  let u := (((s.countSent x).opDone x (s.cyc + 1) false).delXfer i).giveTag x.core
  have next : exec (.transferAcknowledgement i) s = .next (u.errorInHalt x.core x.err) := by
    show execTransferAcknowledgement i s = _
    simp [execTransferAcknowledgement, hx, committed, hlate, own, program, descriptors, hatt, u]
  have gone : u.Gone i := (State.gone_delXfer _ i).giveTag x.core
  have mem : u.mem = s.mem := by simp [u]
  refine ⟨_, next, ?_⟩
  unfold State.errorInHalt
  split
  · exact ⟨gone.coreFault _ _, by rw [State.coreFault_mem, mem]⟩
  · exact ⟨gone, mem⟩

/-- A fault raises one record. -/
theorem State.transit_coreFault (s : State) (c : Nat) (f : CFault) :
    ∃ r, (s.coreFault c f).err.transit = s.err.transit ++ [r] ∧ r.domain = 0 ∧ r.index = c ∧ r.code = f.code := by
  unfold State.coreFault
  dsimp only
  split
  · exact ⟨_, congrArg _ (State.stopCore_err ..), rfl, rfl, rfl⟩
  · exact ⟨_, rfl, rfl, rfl, rfl⟩

/-- A transfer of the module's own that is refused is gone, and its core faults for it: with CF_SEND_REFUSED for a message, with
CF_WINDOW_CLOSED for a write (spec/17 R419). -/
theorem leads_negativeAcknowledgement {s : State} {i : Nat} {x : Xfer} (hx : s.xfer i = some x) (refused : x.stage = .refused)
    (hlate : x.late = none) (own : x.foreign = false) (running : (s.core x.core).running = true) :
    Leads (exec (.negativeAcknowledgement i) s) fun t => (t.core x.core).faulted = true ∧ (t.core x.core).running = false ∧ t.Gone i ∧
      t.mem = s.mem ∧ ∃ r, t.err.transit = s.err.transit ++ [r] ∧ r.domain = 0 ∧ r.index = x.core ∧
        r.code = if x.asSend then 0x05 else 0x0A := by
  let u := ((s.opDone x (s.cyc + 1) true).delXfer i).giveTag x.core
  have gone : u.Gone i := (State.gone_delXfer _ i).giveTag x.core
  have mem : u.mem = s.mem := by simp [u]
  have err : u.err = s.err := by simp [u]
  have live : (u.core x.core).running = true := by
    rw [State.core_congr (State.giveTag_cores ..), State.core_congr (State.delXfer_cores ..), State.running_opDone, running]
  obtain ⟨v, f, next, hgone, hmem, herr, hlive, code⟩ : ∃ (v : State) (f : CFault),
      exec (.negativeAcknowledgement i) s = .next (v.coreFault x.core f) ∧
        v.Gone i ∧ v.mem = s.mem ∧ v.err = s.err ∧ (v.core x.core).running = true ∧ f.code = if x.asSend then 0x05 else 0x0A := by
    show ∃ v f, execNegativeAcknowledgement i s = _ ∧ _
    cases hsend : x.asSend with
    | true =>
      refine ⟨u.noteRefused x.core x.route.tag x.opAddr x.reason,
        sendRefused x.opAddr x.route.tag x.reason x.dstCore (x.xrank.getD 0), ?_, gone.congr rfl, mem, err, ?_, rfl⟩
      · simp [execNegativeAcknowledgement, hx, refused, hlate, own, hsend, u]
      · simp [State.noteRefused, live]
    | false =>
      refine ⟨u, windowClosed x.opAddr x.win x.epoch x.reason, ?_, gone, mem, err, live, rfl⟩
      simp [execNegativeAcknowledgement, hx, refused, hlate, own, hsend, u]
  obtain ⟨faulted, stopped⟩ := State.core_coreFault hlive f
  refine ⟨_, next, faulted, stopped, hgone.coreFault _ f, (State.coreFault_mem ..).trans hmem, ?_⟩
  rw [← code, ← herr]
  exact v.transit_coreFault x.core f

/-! ## Attached increments (spec/06 R152, R154) -/

/-- An increment attached to a write into memory goes on to the core of its route. -/
def State.passOn (x : Xfer) (s : State) (g : Sig × Nat) : State :=
  { s.takeId.2 with
    sigs := s.sigs ++ [{ id := s.nextId, srcCore := x.core, srcRank := s.rankFrom x, opAddr := x.opAddr, tag := g.1.route, static := false,
                         dstCore := g.2, cnt := g.1.cnt, inc := g.1.inc, mark := if x.err.isSome then x.err else x.attMark,
                         ready := s.cyc, seq := 0, stamp := s.stamp32, attached := true, foreign := x.foreign, ref := 0xFFFFFFFF }] }

/-- A signal message goes to the core of an increment, for its counter and by its amount. -/
def SigMsg.Carries (m : SigMsg) (g : Sig × Nat) : Prop := m.dstCore = g.2 ∧ m.cnt = g.1.cnt ∧ m.inc = g.1.inc

theorem State.foldl_passOn (x : Xfer) (gs : List (Sig × Nat)) : ∀ s : State,
    (∃ ms, (gs.foldl (State.passOn x) s).sigs = s.sigs ++ ms ∧ List.Forall₂ SigMsg.Carries ms gs) ∧
      (gs.foldl (State.passOn x) s).cores = s.cores ∧ (gs.foldl (State.passOn x) s).mem = s.mem := by
  induction gs with
  | nil => exact fun s => ⟨⟨[], (List.append_nil _).symm, .nil⟩, rfl, rfl⟩
  | cons g gs ih =>
    intro s
    obtain ⟨⟨ms, sigs, carry⟩, cores, mem⟩ := ih (s.passOn x g)
    exact ⟨⟨_ :: ms, sigs.trans (List.append_assoc ..), .cons ⟨rfl, rfl, rfl⟩ carry⟩, cores, mem⟩

/-- The increments attached to a write into memory that has committed go on, each as a signal message of its own. -/
theorem leads_attachedIncrementForward {s : State} {i : Nat} {x : Xfer} (hx : s.xfer i = some x) (committed : x.stage = .committed)
    (hatt : x.att ≠ []) (remote : x.remote = true) (memory : s.inMemory x.dst = true) :
    Leads (exec (.attachedIncrementForward i) s) fun t =>
      (∃ ms, t.sigs = s.sigs ++ ms ∧ List.Forall₂ SigMsg.Carries ms (x.att.zip x.attCores)) ∧ t.cores = s.cores ∧ t.mem = s.mem := by
  have next : exec (.attachedIncrementForward i) s =
      .next (((x.att.zip x.attCores).foldl (State.passOn x) s).modXfer i fun y => { y with att := [], attCores := [] }) := by
    show execAttachedIncrementForward i s = _
    simp [execAttachedIncrementForward, hx, committed, hatt, remote, memory]
    rfl
  exact ⟨_, next, State.foldl_passOn x _ s⟩

/-! ## Slot mismatches (spec/01 R23, spec/03 R478) -/

/-- The command of a slot mismatch brings what its cycle holds. -/
theorem exec_staticSlotMismatch {s : State} {i : Nat} {x : Xfer} (hx : s.xfer i = some x) (static : x.static = true) (hlost : x.lost = true)
    (launched : x.stage = .launched) {router output input slot : Nat}
    (hslot : s.slot (placeOfRouter router).1 (placeOfRouter router).2 output (slot % 64) ≠ input) :
    exec (.staticSlotMismatch i router output input slot) s = .next s.settle := by
  show execStaticSlotMismatch i router output input slot s = _
  simp [execStaticSlotMismatch, hx, static, hlost, launched, hslot]

/-- The header of a transfer that no slot table carries to its core refuses it with reason 6. -/
theorem State.refused_staticHeader {s : State} {x y : Xfer} (hlost : x.lost = true) (hy : y ∈ (s.staticHeader x).xfers) (hid : y.id = x.id) :
    y.stage = .refused ∧ y.reason = 6 ∧ y.asSend = true := by
  have header : s.staticHeader x = s.refuseLost x := by simp [State.staticHeader, State.messageHeader, State.writeHeader, hlost]
  rw [header] at hy
  unfold State.refuseLost at hy
  split at hy <;>
    exact State.of_mem_modXfer (P := fun y => y.stage = .refused ∧ y.reason = 6 ∧ y.asSend = true) (fun _ => ⟨rfl, rfl, rfl⟩) hy hid

namespace HeldBySignal

/-- A message of the static plane that no slot table carries to its core. -/
def lost : Xfer := { id := 1, kind := .message, static := true, lost := true, stage := .launched }

/-- A signal message of the static plane for counter 0 of core 0 that names transfer 1 as the holder of its tag (`xid`). Only signal
messages of the memory plane are made with one. -/
def signal : SigMsg :=
  { id := 2, srcCore := 0, srcRank := 0, opAddr := 0, tag := 0, static := true, dstCore := 0, cnt := 0, inc := 1, mark := none, ready := 0,
    seq := 0, stamp := 0, attached := false, xid := 1 }

/-- Both come due in the present cycle, and core 0 has a run. -/
def state : State :=
  { State.reset with
    xfers := [lost], sigs := [signal], nextId := 3
    parts := [(0, { exist := true, regions := 1, run := { present := true, started := true, cores := [0] } })] }

theorem committed : ∀ y ∈ state.settle.xfers, y.stage = .committed := by decide +kernel

/-- Not every cycle that brings the header of a lost transfer leaves it refused, as O25 has it: a signal message that names it is accepted
after the header and commits it. -/
theorem exists_lost_not_refused : ∃ (s : State) (x : Xfer), s.xfer x.id = some x ∧ x.static = true ∧ x.lost = true ∧ x.stage = .launched ∧
    s.clk.settled ≠ s.cyc + 1 ∧ x.ready ≤ s.cyc ∧ x.id < s.nextId ∧ (∀ y ∈ s.xfers, y.id = x.id → y = x) ∧
    ∀ y ∈ s.settle.xfers, y.stage ≠ .refused :=
  ⟨state, lost, rfl, rfl, rfl, rfl, by decide, by decide, by decide, by simp [state],
    fun y hy refused => absurd ((committed y hy).symm.trans refused) (by decide)⟩

end HeldBySignal

/-! ## The statement -/

namespace RefusedStore

/-- A STORE of core 0 that the window of its destination has refused as closed. -/
def write : Xfer := { id := 1, kind := .store, remote := true, win := 3, epoch := 1, len := 64, stage := .refused, reason := 1 }

/-- The core runs, and no record is on its way to the error queue. -/
def state : State := { State.reset with xfers := [write], cores := [(0, { running := true })] }

end RefusedStore

open RefusedStore in
/-- Refutes O25: it asks for code 0x06 in the record of a write that a window has refused. Its core raises CF_WINDOW_CLOSED, whose code is 0x0A
(spec/17 R419), and no other record. With that code the claim holds, by `leads_negativeAcknowledgement`. The claims on acknowledgements and
attached increments hold by `leads_transferAcknowledgement` and `leads_attachedIncrementForward`, those on a slot mismatch by
`exec_staticSlotMismatch` and `State.refused_staticHeader`; but that its cycle leaves the transfer refused fails too where a signal message of
the static plane names the transfer, by `HeldBySignal.exists_lost_not_refused`. -/
theorem not_transferEnds : ¬ Obligations.TransferEnds := by
  intro holds
  obtain ⟨-, refusal, -⟩ := holds state 1 write rfl
  obtain ⟨t, next, -, -, -, -, r, mem, -, -, claimed⟩ := refusal rfl rfl rfl rfl
  obtain ⟨u, next', -, -, -, -, q, raised, -, -, actual⟩ := leads_negativeAcknowledgement (s := state) (i := 1) (x := write) rfl rfl rfl rfl rfl
  obtain rfl : t = u := by injection next.symm.trans next'
  rw [raised] at mem
  obtain rfl : r = q := List.mem_singleton.mp mem
  exact absurd (claimed.symm.trans actual) (by decide)

end Sys2Proof.Machine
end

section
/-!
# Micro instructions are taken up (spec/09 R229, R236, R241, R244)

What a row of the micro instructions comes to, by the result of its step; and what a micro fault leaves.
-/
namespace Sys2Proof.Machine

/-! ## A core past its instruction -/

/-- A core is past the instruction at its PC (R229). -/
def State.pastMicro (s : State) (c : Nat) : State := s.modCore c fun k => { k with micro := k.micro.past }

@[simp] theorem State.core_pastMicro (s : State) (c : Nat) : (s.pastMicro c).core c = { s.core c with micro := (s.core c).micro.past } := by
  simp [State.pastMicro]

theorem State.core_pastMicro_of_ne (s : State) {c d : Nat} (h : d ≠ c) : (s.pastMicro c).core d = s.core d := by
  simp [State.pastMicro, h.symm]

@[simp] theorem State.pastMicro_mem (s : State) (c : Nat) : (s.pastMicro c).mem = s.mem := rfl

@[simp] theorem State.pastMicro_err (s : State) (c : Nat) : (s.pastMicro c).err = s.err := rfl

theorem Micro.stop_past {m : Micro} (h : m.running = true) : m.past.stop = { m.past with running := false, pc := m.pc } := by
  rw [Micro.stop, if_pos (show m.past.running = true from h)]
  rfl

theorem Micro.stop_of_running {m : Micro} (h : m.running = true) : m.stop = { m with running := false, pc := m.last } := by
  rw [Micro.stop, if_pos h]

/-! ## Tokens (spec/11 R284) -/

theorem State.mayPay_zero (s : State) (c : Nat) : s.mayPay c 0 = true := by
  unfold State.mayPay
  cases s.partOf c <;> simp

theorem State.payTokens_zero (s : State) (c : Nat) : s.payTokens c 0 = s := by
  unfold State.payTokens
  dsimp only
  split <;> rfl

theorem State.microCounted_of_access {s : State} {c w : Nat} (h : (s.core c).micro.access w = none) (pc : Nat) :
    s.microCounted c w pc = 0 := by
  rw [State.microCounted, h]

/-! ## An instruction is taken up -/

section
variable {s : State} {c opc : Nat}

theorem State.takes_iff : s.microTakes c = true ↔ s.microRuns c = true ∧ (s.core c).micro.overtime s.now = false ∧
    (s.core c).blockValid (opAddrOf (s.core c).micro.pc) = true := by
  simp [State.microTakes, and_assoc]

theorem State.running_of_takes (h : s.microTakes c = true) : (s.core c).micro.running = true := by
  obtain ⟨runs, -, -⟩ := State.takes_iff.mp h
  rw [State.microRuns, Bool.and_eq_true, Bool.and_eq_true] at runs
  exact runs.1.2

/-- An instruction that is not legal stops its core. -/
theorem microRow_illegal (h : s.microTakes c = true) (illegal : s.microLegal c (s.microWord c) = false) (mnemonic : String)
    {mine : Nat → Bool} (mineWord : mine (mOpc (s.microWord c)) = true) (f : MStep) :
    microRow mnemonic mine f c s = .next ((s.pastMicro c).microStop c (microFault 1 (s.core c).micro.pc)) := by
  obtain ⟨runs, time, valid⟩ := State.takes_iff.mp h
  unfold State.microWord at illegal mineWord
  simp [microRow, runs, time, valid, illegal, mineWord, State.pastMicro]

theorem State.ready_iff : s.microReady c opc = true ↔
    s.microTakes c = true ∧ mOpc (s.microWord c) = opc ∧ s.microLegal c (s.microWord c) = true := by
  simp [State.microReady, and_assoc]

theorem State.opc_of_ready (h : s.microReady c opc = true) : mOpc (s.microWord c) = opc := (State.ready_iff.mp h).2.1

variable (h : s.microReady c opc = true) (mnemonic : String) {f : MStep}
include h

theorem State.running_of_ready : (s.core c).micro.running = true := State.running_of_takes (State.ready_iff.mp h).1

/-- An access whose tokens lack waits (R236). -/
theorem microRow_waits (lacks : s.mayPay c (s.microCounted c (s.microWord c) (s.core c).micro.pc) = false) :
    microRow mnemonic (· == opc) f c s = .next s := by
  obtain ⟨takes, word, legal⟩ := State.ready_iff.mp h
  obtain ⟨runs, time, valid⟩ := State.takes_iff.mp takes
  unfold State.microWord at word legal lacks
  simp [microRow, runs, time, valid, word, legal, lacks]

section
variable (free : s.microCounted c (s.microWord c) (s.core c).micro.pc = 0)
include free

/-- An instruction that costs no tokens and goes through. -/
theorem microRow_next {t : State} (step : f (s.pastMicro c) c (s.microWord c) (s.core c).micro.pc = .ok t) :
    microRow mnemonic (· == opc) f c s = .next t := by
  obtain ⟨takes, word, legal⟩ := State.ready_iff.mp h
  obtain ⟨runs, time, valid⟩ := State.takes_iff.mp takes
  unfold State.microWord State.pastMicro at *
  simp [microRow, runs, time, valid, word, legal, free, State.mayPay_zero, State.payTokens_zero, step]

/-- An instruction that costs no tokens and faults. -/
theorem microRow_fault {t : State} {e : MFault} (step : f (s.pastMicro c) c (s.microWord c) (s.core c).micro.pc = .error (t, e)) :
    microRow mnemonic (· == opc) f c s = .next (t.microStop c e) := by
  obtain ⟨takes, word, legal⟩ := State.ready_iff.mp h
  obtain ⟨runs, time, valid⟩ := State.takes_iff.mp takes
  unfold State.microWord State.pastMicro at *
  simp [microRow, runs, time, valid, word, legal, free, State.mayPay_zero, State.payTokens_zero, step]

/-- An instruction that leaves its core, once past it, as `k`. -/
theorem leads_setCore {k : Core} (step : f (s.pastMicro c) c (s.microWord c) (s.core c).micro.pc = .ok ((s.pastMicro c).setCore c k)) :
    Leads (microRow mnemonic (· == opc) f c s) fun t => s.CoreEffect t c k :=
  ⟨_, microRow_next h mnemonic free step, (s.coreEffect_modCore c _).trans (State.coreEffect_setCore _ c k)⟩

/-- An instruction that changes its core, once past it, by `g`. -/
theorem leads_modCore {g : Core → Core}
    (step : f (s.pastMicro c) c (s.microWord c) (s.core c).micro.pc = .ok ((s.pastMicro c).modCore c g)) :
    Leads (microRow mnemonic (· == opc) f c s) fun t => s.CoreEffect t c (g { s.core c with micro := (s.core c).micro.past }) :=
  leads_setCore h mnemonic free (by rw [step, State.modCore, State.core_pastMicro])

end

/-- An instruction that changes the micro state of its core, once past it, by `g`. -/
theorem leads_modMicro {g : Micro → Micro} (free : s.microCounted c (s.microWord c) (s.core c).micro.pc = 0)
    (step : f (s.pastMicro c) c (s.microWord c) (s.core c).micro.pc =
      .ok ((s.pastMicro c).modCore c fun k => { k with micro := g k.micro })) :
    Leads (microRow mnemonic (· == opc) f c s) fun t => s.MicroEffect t c (g (s.core c).micro.past) :=
  leads_modCore h mnemonic free step

/-- The opcodes of the loads and stores (R238, R239). -/
def accessOpcodes : List Nat := [0x18, 0x19, 0x1A, 0x1B, 0x38, 0x39]

/-- Only loads and stores are transfers (R236). -/
theorem State.counted_of_ready (plain : opc ∉ accessOpcodes) (pc : Nat) : s.microCounted c (s.microWord c) pc = 0 := by
  have word := State.opc_of_ready h
  refine State.microCounted_of_access ?_ pc
  simp only [accessOpcodes, List.mem_cons, List.not_mem_nil, or_false, not_or] at plain
  simp [Micro.access, word, plain]

/-- An instruction that changes the micro state alone. -/
theorem leads_onMicro (plain : opc ∉ accessOpcodes) (g : Micro → Nat → Nat → Micro) :
    Leads (microRow mnemonic (· == opc) (onMicro g) c s) fun t =>
      s.MicroEffect t c (g (s.core c).micro.past (s.microWord c) (s.core c).micro.pc) :=
  leads_modMicro h mnemonic (g := fun m => g m _ _) (State.counted_of_ready h plain _) rfl

end

/-! ## Micro faults (R232, R244) -/

section
variable (s : State) (c : Nat) (f : CFault)

theorem State.core_stopCore_of_ne (b : Bool) {d : Nat} (h : d ≠ c) : (s.stopCore c b).core d = s.core d := by
  simp only [State.stopCore, State.core_congr (State.dropPrograms_cores ..), State.core_congr (State.dropWaiting_cores ..),
    State.core_setCore, if_neg h.symm]
  split <;> rfl

theorem State.core_coreFault_of_ne {d : Nat} (h : d ≠ c) : (s.coreFault c f).core d = s.core d := by
  unfold State.coreFault
  dsimp only
  split
  · exact State.core_stopCore_of_ne _ c _ h
  · rfl

theorem State.micro_stopCore (b : Bool) : ((s.stopCore c b).core c).micro = (s.core c).micro ∧
    ((s.stopCore c b).core c).scratch = (s.core c).scratch := by
  simp [State.stopCore, State.core_congr (State.dropPrograms_cores ..), State.core_congr (State.dropWaiting_cores ..)]

theorem State.micro_coreFault : ((s.coreFault c f).core c).micro = (s.core c).micro ∧
    ((s.coreFault c f).core c).scratch = (s.core c).scratch := by
  unfold State.coreFault
  dsimp only
  split
  · exact State.micro_stopCore _ c _
  · exact ⟨rfl, rfl⟩

end

/-- `t` is `s` with the micro run of a core ended by a fault at `pc`: registers, scratchpad and memory stand as they did, and one record is
raised. -/
structure State.StopsAt (s t : State) (c pc : Nat) (e : MFault) : Prop where
  micro : (t.core c).micro = { (s.core c).micro with running := false, last := pc, pc := pc, faulted := true, mfc := e.mfc }
  scratch : (t.core c).scratch = (s.core c).scratch
  others : ∀ d, d ≠ c → t.core d = s.core d
  mem : t.mem = s.mem
  record : ∃ r : LogRec, t.err.transit = s.err.transit ++ [r] ∧ r.domain = 0 ∧ r.index = c ∧ r.code = e.code

section
variable {s : State} {c : Nat} (h : (s.core c).micro.running = true) (e : MFault)
include h

theorem State.stopsAt_microStop : s.StopsAt (s.microStop c e) c (s.core c).micro.last e := by
  let u := s.modCore c fun k => { k with micro := { k.micro.stop with faulted := true, mfc := e.mfc } }
  have core : u.core c = { s.core c with micro := { (s.core c).micro.stop with faulted := true, mfc := e.mfc } } := by simp [u]
  let f : CFault := ⟨e.code, opAddrOf (u.core c).micro.pc, 0, e.fields⟩
  obtain ⟨micro, scratch⟩ := u.micro_coreFault c f
  exact {
    micro := micro.trans (by rw [core, Micro.stop_of_running h])
    scratch := scratch.trans (by rw [core])
    others := fun d hd => (u.core_coreFault_of_ne c f hd).trans (by simp [u, hd.symm])
    mem := State.coreFault_mem ..
    record := u.transit_coreFault c f }

/-- A fault of the instruction at the PC. -/
theorem State.stopsAt_pastMicro : s.StopsAt ((s.pastMicro c).microStop c e) c (s.core c).micro.pc e := by
  have past : ((s.pastMicro c).core c).micro.running = true := by rw [State.core_pastMicro]; exact h
  obtain ⟨micro, scratch, others, mem, record⟩ := State.stopsAt_microStop past e
  rw [State.core_pastMicro] at micro scratch
  exact ⟨micro, scratch, fun d hd => (others d hd).trans (s.core_pastMicro_of_ne hd), mem, record⟩

end

/-- A legal instruction that faults. -/
theorem leads_fault {s : State} {c opc : Nat} (h : s.microReady c opc = true) (mnemonic : String) {f : MStep} {e : MFault}
    (free : s.microCounted c (s.microWord c) (s.core c).micro.pc = 0)
    (step : f (s.pastMicro c) c (s.microWord c) (s.core c).micro.pc = .error (s.pastMicro c, e)) :
    Leads (microRow mnemonic (· == opc) f c s) fun t => s.StopsAt t c (s.core c).micro.pc e :=
  ⟨_, microRow_fault h mnemonic free step, State.stopsAt_pastMicro (State.running_of_ready h) e⟩

end Sys2Proof.Machine
end

section
/-!
# Micro mode is entered, left and ended (spec/09 R228 to R234, R241, R244)

The writes of the control register that MICRO_MODE_ENTER, MICRO_MODE_EXIT and GO make, and how ABORT, the time limit and an illegal
instruction end a micro run.
-/
namespace Sys2Proof.Machine

/-! ## Entry, exit and GO -/

theorem Core.row_closeRows (k : Core) (r : Nat) : (k.closeRows.row r).isOpen = false := by
  unfold Core.row Core.closeRows
  induction k.rows with
  | nil => rfl
  | cons x xs ih =>
    rw [List.filterMap_cons]
    dsimp only
    split
    · exact ih
    · next heq =>
      split at heq
      · cases heq
      · cases heq
        rw [Tab.get]
        split
        · rfl
        · exact ih

section
variable {s : State} {c : Nat} (hc : c < s.nCores) (on : s.mgt.moduleOn = true)
include hc on

theorem exec_microModeExit : exec (.microModeExit c) s =
    .next (s.writeMicroCtl c false (s.core c).micro.priv false false (s.core c).micro.entry) := by
  show execMicroModeExit c s = _
  simp [execMicroModeExit, Nat.not_le.mpr hc, on]

section
variable (free : (s.core c).working = false → s.heldTags c = []) (priv : Bool) (entry : Nat)
include free

theorem exec_microModeEnter : exec (.microModeEnter c priv entry) s = .next (s.writeMicroCtl c true priv false false entry) := by
  show execMicroModeEnter c priv entry s = _
  cases busy : (s.core c).working <;> simp_all [execMicroModeEnter, Nat.not_le.mpr hc]

theorem exec_go : exec (.go c priv entry) s = .next (s.writeMicroCtl c true priv true false entry) := by
  show execGo c priv entry s = _
  cases busy : (s.core c).working <;> simp_all [execGo, Nat.not_le.mpr hc]

end

end

/-- A write of CORE_MICRO_CTL to an idle core whose tags are free. -/
theorem State.writeMicroCtl_of_idle {s : State} {c : Nat} {micro : Bool} (idle : (s.core c).working = false)
    (free : micro = true → s.heldTags c = []) (priv go : Bool) (entry : Nat) : s.writeMicroCtl c micro priv go false entry =
      s.setCore c (if go && ((s.core c).microCtl micro priv entry).micro.on then ((s.core c).microCtl micro priv entry).goMicro s.now s.cyc
        else (s.core c).microCtl micro priv entry) := by
  cases micro <;> simp_all [State.writeMicroCtl]

theorem Core.microCtl_enter {k : Core} (off : k.micro.on = false) (priv : Bool) (entry : Nat) :
    k.microCtl true priv entry = k.enterMicro priv (entry % 2 ^ 19 / 4 * 4) := by
  simp [Core.microCtl, off]

theorem Core.microCtl_micro (k : Core) (priv : Bool) (entry : Nat) : (k.microCtl true priv entry).micro.on = true ∧
    (k.microCtl true priv entry).micro.priv = priv ∧ (k.microCtl true priv entry).micro.entry = entry % 2 ^ 19 / 4 * 4 := by
  unfold Core.microCtl
  dsimp only
  split <;> exact ⟨rfl, rfl, rfl⟩

/-- A diagnostic image never runs without a limit. -/
theorem Core.limit_goMicro {k : Core} (diagnostic : k.micro.priv = false) (now cyc : Nat) : (k.goMicro now cyc).micro.limit ≠ 0 := by
  show (if !k.micro.priv && k.micro.limit == 0 then 1000000 else k.micro.limit) ≠ 0
  by_cases h : k.micro.limit = 0 <;> simp [diagnostic, h]

/-! ## The end of a micro run -/

section
variable {s : State} {c : Nat} (running : (s.core c).micro.running = true)

theorem State.microAbort_of_stopped (h : (s.core c).micro.running = false) : s.microAbort c = s := by
  simp [State.microAbort, h]

include running

theorem State.microAbort_of_overtime (late : (s.core c).micro.overtime s.now = true) : s.microAbort c = s.microTimeout c := by
  simp [State.microAbort, running, late]

theorem State.microAbort_in_time (early : (s.core c).micro.overtime s.now = false) : s.microAbort c =
    s.modCore c fun k => { k with micro := { k.micro.stop with aborted := true } } := by
  simp [State.microAbort, running, early]

theorem exec_microTimeLimit (late : (s.core c).micro.overtime s.now = true) : exec (.microTimeLimit c) s = .next (s.microTimeout c) := by
  show execMicroTimeLimit c s = _
  simp [execMicroTimeLimit, running, late]

end

theorem exec_abort {s : State} {c : Nat} (on : s.mgt.moduleOn = true) : exec (.abort c) s = .next (s.microAbort c) := by
  show execAbort c s = _
  rw [execAbort, State.whenOn, if_pos on]

/-- An illegal instruction stops its core. -/
theorem exec_illegalInstruction {s : State} {c : Nat} (takes : s.microTakes c = true) (illegal : s.microLegal c (s.microWord c) = false) :
    exec (.illegalInstruction c) s = .next ((s.pastMicro c).microStop c (microFault 1 (s.core c).micro.pc)) := by
  have word : s.microLegal c (Memory.nat (s.core c).pstore (s.core c).micro.pc 4) = false := illegal
  show execIllegalInstruction c s = _
  rw [execIllegalInstruction, word, Bool.and_false, if_neg Bool.false_ne_true]
  exact microRow_illegal takes illegal _ rfl _

/-! ## The statement -/

/-- Settles O50: the control register by `State.writeMicroCtl_of_idle` and `State.writeMicroCtl_of_working`, the ends of a run at a fault by
`State.StopsAt`. -/
theorem microControl : Obligations.MicroControl := by
  intro s c hc on k faults
  have stops {t : State} {pc mfc : Nat} (h : s.StopsAt t c pc (microFault mfc pc)) : faults t mfc ∧ (t.core c).micro.pc = pc := by
    obtain ⟨micro, -, others, mem, record⟩ := h
    exact ⟨⟨by rw [micro], by rw [micro], by rw [micro]; rfl, by rw [micro], others, mem, record⟩, by rw [micro]⟩
  refine ⟨?enter, ?busy, ?leave, ?go, ?abort, ?stopped, ?late, ?illegal⟩
  case enter =>
    intro idle free off priv entry
    have stopped : k.micro.running = false := (Bool.or_eq_false_iff.mp idle).2
    refine ⟨s.setCore c (k.enterMicro priv (entry % 2 ^ 19 / 4 * 4)), ?_, ?_⟩
    · rw [exec_microModeEnter hc on fun _ => free, State.writeMicroCtl_of_idle idle fun _ => free, Core.microCtl_enter off, Bool.false_and,
        if_neg Bool.false_ne_true]
    · simp only [State.core_setCore, if_true]
      exact ⟨s.coreEffect_setCore c _, rfl, rfl, rfl, stopped, fun r => ite_self 0, fun _ => rfl, rfl, k.row_closeRows, rfl, rfl⟩
  case busy =>
    intro busy priv entry x hx
    have free (idle : (s.core c).working = false) : s.heldTags c = [] := absurd busy (by simp [k, idle])
    have discard {micro go : Bool} {priv entry} (write : exec x s = .next (s.writeMicroCtl c micro priv go false entry)) :
        Leads (exec x s) fun t => t.cores = s.cores :=
      ⟨_, write, by simp only [State.writeMicroCtl_of_working busy, State.writeDiscarded_cores]⟩
    simp only [List.mem_cons, List.not_mem_nil, or_false] at hx
    obtain rfl | rfl | rfl := hx
    · exact discard (exec_microModeEnter hc on free priv entry)
    · exact discard (exec_microModeExit hc on)
    · exact discard (exec_go hc on free priv entry)
  case leave =>
    intro idle
    refine ⟨s.setCore c (k.microCtl false k.micro.priv k.micro.entry), ?_, ?_⟩
    · rw [exec_microModeExit hc on, State.writeMicroCtl_of_idle idle (by simp), Bool.false_and, if_neg Bool.false_ne_true]
    · simp only [State.core_setCore, if_true]
      exact ⟨s.coreEffect_setCore c _, rfl, rfl, rfl, rfl, rfl, rfl, rfl, rfl, rfl, rfl⟩
  case go =>
    intro idle free priv entry
    obtain ⟨micro, hpriv, hentry⟩ := k.microCtl_micro priv entry
    refine ⟨s.setCore c ((k.microCtl true priv entry).goMicro s.now s.cyc), ?_, ?_⟩
    · rw [exec_go hc on fun _ => free, State.writeMicroCtl_of_idle idle fun _ => free, micro, Bool.true_and, if_pos rfl]
    · simp only [State.core_setCore, if_true]
      refine ⟨s.coreEffect_setCore c _, rfl, hentry, rfl, rfl, rfl, rfl, rfl, rfl, fun diagnostic => ?_⟩
      exact Core.limit_goMicro (hpriv.trans diagnostic) s.now s.cyc
  case abort =>
    intro running early
    refine ⟨_, (exec_abort on).trans (congrArg _ (State.microAbort_in_time running early)), ?_⟩
    have effect := s.coreEffect_modCore c fun k => { k with micro := { k.micro.stop with aborted := true } }
    rwa [Micro.stop_of_running running] at effect
  case stopped =>
    intro stopped
    rw [exec_abort on, State.microAbort_of_stopped stopped]
  case late =>
    intro running late x hx
    have timeout (ends : exec x s = .next (s.microTimeout c)) : Leads (exec x s) fun t => faults t 6 ∧ (t.core c).micro.pc = k.micro.last :=
      ⟨_, ends, stops (State.stopsAt_microStop running _)⟩
    simp only [List.mem_cons, List.not_mem_nil, or_false] at hx
    obtain rfl | rfl := hx
    · exact timeout ((exec_abort on).trans (congrArg _ (State.microAbort_of_overtime running late)))
    · exact timeout (exec_microTimeLimit running late)
  case illegal =>
    exact fun takes illegal =>
      ⟨_, exec_illegalInstruction takes illegal, stops (State.stopsAt_pastMicro (State.running_of_takes takes) _)⟩

end Sys2Proof.Machine
end

section
/-!
# Register instructions of micro mode (spec/09 R228, R229, R232, R238)

A write of GD keeps the low 64 bits of its value; each instruction then rests on what its function gives modulo 2^64.
-/
namespace Sys2Proof.Machine

/-! ## Registers -/

theorem Micro.setReg_congr (m : Micro) (i : Nat) {v v' : Nat} (h : v % 2 ^ 64 = v' % 2 ^ 64) : m.setReg i v = m.setReg i v' := by
  rw [Micro.setReg, Micro.setReg, h]

theorem Micro.reg_past (m : Micro) (i : Nat) : m.past.reg i = m.reg i := rfl

theorem Micro.reg_past_setReg_self (m : Micro) {i : Nat} (hi : 0 < i) (v : Nat) : (m.past.setReg i v).reg i = v % 2 ^ 64 := by
  rw [Micro.reg_setReg, if_neg (Nat.ne_of_gt hi), if_pos rfl]

theorem Micro.reg_past_setReg_of_ne (m : Micro) {i j : Nat} (h : i ≠ j) (v : Nat) : (m.past.setReg i v).reg j = m.reg j := by
  rw [Micro.reg_setReg, if_neg h]
  split
  case isTrue zero => rw [zero]; rfl
  case isFalse => rfl

/-! ## Values modulo 2^64 (R17) -/

theorem lowBits_64 (i : Int) : lowBits 64 i = (i % (2 ^ 64 : Int)).toNat := rfl

theorem mImm_eq (w : Nat) : mImm w = w % 65536 := bits_zero w 15

theorem mAnd_mod (a b : Nat) : mAnd a b % 2 ^ 64 = (a &&& b) % 2 ^ 64 := by
  rw [mAnd, BitVec.toNat_and, w64, w64, BitVec.toNat_ofNat, BitVec.toNat_ofNat, ← Nat.and_mod_two_pow, Nat.mod_mod]

theorem mOr_mod (a b : Nat) : mOr a b % 2 ^ 64 = (a ||| b) % 2 ^ 64 := by
  rw [mOr, BitVec.toNat_or, w64, w64, BitVec.toNat_ofNat, BitVec.toNat_ofNat, ← Nat.or_mod_two_pow, Nat.mod_mod]

theorem mXor_mod (a b : Nat) : mXor a b % 2 ^ 64 = (a ^^^ b) % 2 ^ 64 := by
  rw [mXor, BitVec.toNat_xor, w64, w64, BitVec.toNat_ofNat, BitVec.toNat_ofNat, ← Nat.xor_mod_two_pow, Nat.mod_mod]

theorem mSub_eq (a b : Nat) : mSub a b = (((a : Int) - b) % (2 ^ 64 : Int)).toNat := rfl

theorem mSar_eq (a b : Nat) : mSar a b = (signed 64 a / ((2 ^ (b % 64) : Nat) : Int) % (2 ^ 64 : Int)).toNat := rfl

theorem mSlt_eq (a b : Nat) : mSlt a b = if signed 64 a < signed 64 b then 1 else 0 := by
  simp [mSlt, b2n]

theorem mSltu_eq (a b : Nat) : mSltu a b = if a < b then 1 else 0 := by
  simp [mSltu, b2n]

theorem mShl_mod (a b : Nat) : mShl a b % 2 ^ 64 = a * 2 ^ (b % 64) % 2 ^ 64 := Nat.mod_mod ..

theorem mod_65536_mod_64 (w : Nat) : w % 65536 % 64 = w % 64 := by omega

theorem addi_mod (a w : Nat) : mAdd a (mImmS w) % 2 ^ 64 = (((a : Int) + signed 16 w) % (2 ^ 64 : Int)).toNat % 2 ^ 64 := by
  rw [mAdd, mImmS, lowBits_64]
  omega

theorem lui_mod (w : Nat) : mImmS w * 65536 % 2 ^ 64 % 2 ^ 64 = (signed 16 w * 65536 % (2 ^ 64 : Int)).toNat % 2 ^ 64 := by
  rw [mImmS, lowBits_64]
  omega

/-! ## One instruction -/

section
variable {s : State} {c opc : Nat} (h : s.microReady c opc = true) {mnemonic : String}
  (plain : opc ∉ accessOpcodes)
include h plain

/-- GD takes the value of a function of GA and GB. -/
theorem leads_regOp {op : Nat → Nat → Nat} {v : Nat}
    (value : op ((s.core c).micro.reg (mA (s.microWord c))) ((s.core c).micro.reg (mB (s.microWord c))) % 2 ^ 64 = v % 2 ^ 64) :
    Leads (microRow mnemonic (· == opc) (regOp op) c s) fun t =>
      s.MicroEffect t c ((s.core c).micro.past.setReg (mD (s.microWord c)) v) := by
  rw [← Micro.setReg_congr _ _ value]
  exact leads_onMicro h mnemonic plain _

/-- GD takes the value of a function of GA and IMM. -/
theorem leads_immOp {imm : Nat → Nat} {op : Nat → Nat → Nat} {v : Nat}
    (value : op ((s.core c).micro.reg (mA (s.microWord c))) (imm (s.microWord c)) % 2 ^ 64 = v % 2 ^ 64) :
    Leads (microRow mnemonic (· == opc) (immOp imm op) c s) fun t =>
      s.MicroEffect t c ((s.core c).micro.past.setReg (mD (s.microWord c)) v) := by
  rw [← Micro.setReg_congr _ _ value]
  exact leads_onMicro h mnemonic plain _

theorem leads_branchOp {p : Nat → Nat → Bool} {P : Prop} [Decidable P]
    (test : p ((s.core c).micro.reg (mD (s.microWord c))) ((s.core c).micro.reg (mA (s.microWord c))) = decide P) :
    Leads (microRow mnemonic (· == opc) (branchOp p) c s) fun t => s.MicroEffect t c (if P then { (s.core c).micro.past with
      pc := ((((s.core c).micro.pc : Int) + 4 * signed 16 (s.microWord c)) % (2 ^ 19 : Int)).toNat } else (s.core c).micro.past) := by
  have taken := leads_onMicro h mnemonic plain fun m w pc => if p (m.reg (mD w)) (m.reg (mA w)) then m.jump pc (signed 16 w) else m
  simp only [Micro.reg_past, test, decide_eq_true_eq] at taken
  exact taken

end

/-! ## MSYS -/

theorem State.msysValue_pastMicro (s : State) (c imm : Nat) : (s.pastMicro c).msysValue c imm = s.msysValue c imm := by
  unfold State.msysValue
  rw [State.core_pastMicro]
  rfl

theorem leads_msys {s : State} {c : Nat} (h : s.microReady c 0x30 = true) {imm : Nat} (code : s.microWord c % 65536 = imm)
    {v : Nat} (value : s.msysValue c imm = v) :
    Leads (exec (.msys c) s) fun t => s.MicroEffect t c ((s.core c).micro.past.setReg (mD (s.microWord c)) v) := by
  have selected : v = (s.pastMicro c).msysValue c (mImm (s.microWord c)) := by
    rw [State.msysValue_pastMicro, mImm_eq, code, value]
  rw [selected]
  show Leads (execMsys c s) _
  unfold execMsys
  exact leads_modMicro h "MSYS" (g := fun m => m.setReg _ _) (State.counted_of_ready h (by decide) _) rfl

/-! ## MHALT (R232) -/

theorem leads_mhalt {s : State} {c : Nat} (h : s.microReady c 0x3F = true) : Leads (exec (.mhalt c) s) fun t => s.MicroEffect t c
    { (s.core c).micro.past with running := false, pc := (s.core c).micro.pc, halted := true, exit := s.microWord c % 65536 } := by
  have ends := leads_onMicro h "MHALT" (by decide) fun m w _ => { m.stop with halted := true, exit := mImm w }
  rw [Micro.stop_past (State.running_of_ready h), mImm_eq] at ends
  exact ends

/-! ## The statement -/

/-- Settles O51: one lemma for the instructions of two registers, one for those with an immediate, one for the branches, and the value of each
modulo 2^64. -/
theorem microRegisterOps : Obligations.MicroRegisterOps := by
  intro s c m w d a b wrap becomes gives at_ branch
  refine ⟨?add, ?sub, ?and, ?or, ?xor, ?shl, ?shr, ?sar, ?mul, ?mulhu, ?slt, ?sltu, ?addi, ?andi, ?ori, ?xori, ?shli, ?shri, ?lui, ?regs,
    ?beq, ?bne, ?blt, ?bltu, ?jal, ?jr, ?stamp, ?cycles, ?index, ?profile, ?mhalt⟩
  case add => exact fun h => leads_regOp h (by decide) (Nat.mod_mod ..)
  case sub => exact fun h => leads_regOp h (by decide) (congrArg (· % 2 ^ 64) (mSub_eq a b))
  case and => exact fun h => leads_regOp h (by decide) (mAnd_mod a b)
  case or => exact fun h => leads_regOp h (by decide) (mOr_mod a b)
  case xor => exact fun h => leads_regOp h (by decide) (mXor_mod a b)
  case shl => exact fun h => leads_regOp h (by decide) (mShl_mod a b)
  case shr => exact fun h => leads_regOp h (by decide) rfl
  case sar => exact fun h => leads_regOp h (by decide) (congrArg (· % 2 ^ 64) (mSar_eq a b))
  case mul => exact fun h => leads_regOp h (by decide) (op := fun a b => a * b % 2 ^ 64) (Nat.mod_mod ..)
  case mulhu => exact fun h => leads_regOp h (by decide) (op := fun a b => a * b / 2 ^ 64) rfl
  case slt => exact fun h => leads_regOp h (by decide) (congrArg (· % 2 ^ 64) (mSlt_eq a b))
  case sltu => exact fun h => leads_regOp h (by decide) (congrArg (· % 2 ^ 64) (mSltu_eq a b))
  case addi => exact fun h => leads_immOp h (by decide) (addi_mod a w)
  case andi => exact fun h => leads_immOp h (by decide) (mImm_eq w ▸ mAnd_mod a (mImm w))
  case ori => exact fun h => leads_immOp h (by decide) (mImm_eq w ▸ mOr_mod a (mImm w))
  case xori => exact fun h => leads_immOp h (by decide) (mImm_eq w ▸ mXor_mod a (mImm w))
  case shli => exact fun h => leads_immOp h (by decide) (by rw [mImm_eq, mShl_mod, mod_65536_mod_64])
  case shri => exact fun h => leads_immOp h (by decide) (by rw [mImm_eq, mShr, mod_65536_mod_64])
  case lui => exact fun h => leads_immOp h (by decide) (op := fun _ i => i * 65536 % 2 ^ 64) (lui_mod w)
  case regs => exact fun v => ⟨rfl, fun i hi => m.reg_past_setReg_self hi v, fun i j hij => m.reg_past_setReg_of_ne hij v⟩
  case beq => exact fun h => leads_branchOp h (by decide) (p := fun a b => a == b) rfl
  case bne =>
    have test : (d != a) = decide (d ≠ a) := by rw [Bool.eq_iff_iff]; simp
    exact fun h => leads_branchOp h (by decide) (p := fun a b => a != b) test
  case blt => exact fun h => leads_branchOp h (by decide) (p := fun a b => decide (signed 64 a < signed 64 b)) rfl
  case bltu => exact fun h => leads_branchOp h (by decide) (p := fun a b => decide (a < b)) rfl
  case jal => exact fun h => leads_onMicro h "JAL" (by decide) fun m w pc => (m.setReg (mD w) (pc + 4)).jump pc (signed 21 w)
  case jr =>
    exact fun h => leads_onMicro h "JR" (by decide) fun m w pc =>
      { m.setReg (mD w) (pc + 4) with pc := m.reg (mA w) % 0x80000 / 4 * 4 }
  case stamp => exact fun code h => leads_msys h code rfl
  case cycles => exact fun code h => leads_msys h code rfl
  case index => exact fun code h => leads_msys h code rfl
  case profile => exact fun code h => leads_msys h code rfl
  case mhalt => exact leads_mhalt

end Sys2Proof.Machine
end

section
/-!
# Loads and stores of micro mode (spec/09 R235, R236, R238, R239, R244)

Where an address leads: the core's own scratchpad at the bottom of space 0, or nowhere if it is not aligned. Neither costs tokens.
-/
namespace Sys2Proof.Machine

/-! ## Places -/

section
variable (s : State) (c pc : Nat) {ea n : Nat} (right : Need)

theorem State.microPlace_misaligned (h : ea % n ≠ 0) : s.microPlace c pc ea n right = .error (microFault 2 pc) := if_pos h

theorem State.microPlace_own (low : ea < 0xC00000) (aligned : ea % n = 0) : s.microPlace c pc ea n right = .ok (.own ea) := by
  have space : bits ea 63 62 = 0 := by unfold bits; omega
  have gap : bits ea 61 24 = 0 := by unfold bits; omega
  have offset : bits ea 23 0 = ea := by rw [bits_zero]; omega
  simp [State.microPlace, aligned, space, gap, offset, low]

end

/-! ## Accesses -/

/-- The address GA of format V. -/
def Micro.vea (m : Micro) (w : Nat) : Nat := m.reg (mGA w)

section
variable {m : Micro} {w : Nat}

theorem Micro.access_ld (h : mOpc w = 0x18) : m.access w = some (m.ea w, 8, .rd) := by simp [Micro.access, h]

theorem Micro.access_lw (h : mOpc w = 0x19) : m.access w = some (m.ea w, 4, .rd) := by simp [Micro.access, h]

theorem Micro.access_sd (h : mOpc w = 0x1A) : m.access w = some (m.ea w, 8, .wr) := by simp [Micro.access, h]

theorem Micro.access_sw (h : mOpc w = 0x1B) : m.access w = some (m.ea w, 4, .wr) := by simp [Micro.access, h]

theorem Micro.access_vld (h : mOpc w = 0x38) : m.access w = some (m.vea w, 512, .rd) := by simp [Micro.access, Micro.vea, h]

theorem Micro.access_vst (h : mOpc w = 0x39) : m.access w = some (m.vea w, 512, .wr) := by simp [Micro.access, Micro.vea, h]

end

section
variable (s : State) (c pc : Nat) {ea n : Nat}

theorem State.microLoad_own (low : ea < 0xC00000) (aligned : ea % n = 0) :
    s.microLoad c pc ea n = .ok (s, Memory.read (s.core c).scratch ea n) := by
  rw [State.microLoad, State.microPlace_own s c pc .rd low aligned]

theorem State.microLoad_misaligned (h : ea % n ≠ 0) : s.microLoad c pc ea n = .error (s, microFault 2 pc) := by
  rw [State.microLoad, State.microPlace_misaligned s c pc .rd h]

variable {bs : List Byte}

theorem State.microStore_own (low : ea < 0xC00000) (aligned : ea % bs.length = 0) :
    s.microStore c pc ea bs = .ok (s.modCore c fun k => { k with scratch := Memory.write k.scratch ea bs }) := by
  rw [State.microStore, State.microPlace_own s c pc .wr low aligned]

theorem State.microStore_misaligned (h : ea % bs.length ≠ 0) : s.microStore c pc ea bs = .error (s, microFault 2 pc) := by
  rw [State.microStore, State.microPlace_misaligned s c pc .wr h]

end

section
variable {s : State} {c w ea n : Nat} {right : Need} (access : (s.core c).micro.access w = some (ea, n, right)) (pc : Nat)
include access

theorem State.microCounted_own (low : ea < 0xC00000) (aligned : ea % n = 0) : s.microCounted c w pc = 0 := by
  rw [State.microCounted, access]
  dsimp only
  rw [State.microPlace_own s c pc right low aligned]

theorem State.microCounted_misaligned (h : ea % n ≠ 0) : s.microCounted c w pc = 0 := by
  rw [State.microCounted, access]
  dsimp only
  rw [State.microPlace_misaligned s c pc right h]

end

/-! ## Loads and stores -/

/-- A load of `n` bytes into the registers. -/
def loadStep (n : Nat) (ea : Micro → Nat → Nat) (put : Micro → Nat → List Byte → Micro) : MStep := fun s c w pc => do
  let r ← s.microLoad c pc (ea (s.core c).micro w) n
  .ok (r.1.modCore c fun k => { k with micro := put k.micro w r.2 })

/-- A store of bytes of the registers. -/
def storeStep (ea : Micro → Nat → Nat) (bytes : Micro → Nat → List Byte) : MStep := fun s c w pc =>
  s.microStore c pc (ea (s.core c).micro w) (bytes (s.core c).micro w)

section
variable (c : Nat) (s : State)

theorem exec_ld : exec (.ld c) s = microRow "LD" (· == 0x18) (loadStep 8 Micro.ea fun m w bs => m.setReg (mD w) (leNat bs)) c s := rfl

theorem exec_lw : exec (.lw c) s = microRow "LW" (· == 0x19) (loadStep 4 Micro.ea fun m w bs => m.setReg (mD w) (leNat bs)) c s := rfl

theorem exec_vld : exec (.vld c) s = microRow "VLD" (· == 0x38) (loadStep 512 Micro.vea fun m w bs => m.setVec (mVD w) bs) c s := rfl

theorem exec_sd : exec (.sd c) s = microRow "SD" (· == 0x1A) (storeStep Micro.ea fun m w => toLE 8 (m.reg (mD w))) c s := rfl

theorem exec_sw : exec (.sw c) s = microRow "SW" (· == 0x1B) (storeStep Micro.ea fun m w => toLE 4 (m.reg (mD w))) c s := rfl

theorem exec_vst : exec (.vst c) s = microRow "VST" (· == 0x39) (storeStep Micro.vea fun m w => m.vec (mVA w)) c s := rfl

end

section
variable {s : State} {c opc : Nat} (h : s.microReady c opc = true) (mnemonic : String) {ea : Micro → Nat → Nat} {n : Nat} {right : Need}
  (past : ∀ m w, ea (Micro.past m) w = ea m w)
  (access : (s.core c).micro.access (s.microWord c) = some (ea (s.core c).micro (s.microWord c), n, right))
include h past access

section
variable (put : Micro → Nat → List Byte → Micro)

theorem leads_loadStep_own (low : ea (s.core c).micro (s.microWord c) < 0xC00000) (aligned : ea (s.core c).micro (s.microWord c) % n = 0) :
    Leads (microRow mnemonic (· == opc) (loadStep n ea put) c s) fun t => s.MicroEffect t c
      (put (s.core c).micro.past (s.microWord c) (Memory.read (s.core c).scratch (ea (s.core c).micro (s.microWord c)) n)) := by
  refine leads_modMicro h mnemonic (g := fun m => put m _ _) (State.microCounted_own access _ low aligned) ?_
  rw [loadStep, State.core_pastMicro, past, State.microLoad_own _ c _ low aligned, State.core_pastMicro]
  rfl

theorem leads_loadStep_misaligned (off : ea (s.core c).micro (s.microWord c) % n ≠ 0) :
    Leads (microRow mnemonic (· == opc) (loadStep n ea put) c s) fun t =>
      s.StopsAt t c (s.core c).micro.pc (microFault 2 (s.core c).micro.pc) := by
  refine leads_fault h mnemonic (State.microCounted_misaligned access _ off) ?_
  rw [loadStep, State.core_pastMicro, past, State.microLoad_misaligned _ c _ off]
  rfl

end

variable {bytes : Micro → Nat → List Byte} (length : ∀ m w, (bytes m w).length = n)
include length

theorem leads_storeStep_own (low : ea (s.core c).micro (s.microWord c) < 0xC00000) (aligned : ea (s.core c).micro (s.microWord c) % n = 0) :
    Leads (microRow mnemonic (· == opc) (storeStep ea bytes) c s) fun t => s.CoreEffect t c { s.core c with
      micro := (s.core c).micro.past
      scratch := Memory.write (s.core c).scratch (ea (s.core c).micro (s.microWord c))
        (bytes (s.core c).micro.past (s.microWord c)) } := by
  let a := ea (s.core c).micro (s.microWord c)
  let bs := bytes (s.core c).micro.past (s.microWord c)
  refine leads_modCore h mnemonic (State.microCounted_own access _ low aligned)
    (g := fun k => { k with scratch := Memory.write k.scratch a bs }) ?_
  rw [storeStep, State.core_pastMicro, past, State.microStore_own _ c _ low (by rwa [length])]

theorem leads_storeStep_misaligned (off : ea (s.core c).micro (s.microWord c) % n ≠ 0) :
    Leads (microRow mnemonic (· == opc) (storeStep ea bytes) c s) fun t =>
      s.StopsAt t c (s.core c).micro.pc (microFault 2 (s.core c).micro.pc) := by
  refine leads_fault h mnemonic (State.microCounted_misaligned access _ off) ?_
  rw [storeStep, State.core_pastMicro, past, State.microStore_misaligned _ c _ (by rwa [length])]

end

/-! ## The statement -/

/-- Settles O52: a load or a store of the own scratchpad by `leads_loadStep_own` or `leads_storeStep_own`, a misaligned one by
`State.StopsAt`, one that lacks tokens by `microRow_waits`. -/
theorem microMemory : Obligations.MicroMemory := by
  intro s c k m w ea va stored
  have faults {x : Instr} (h : Leads (exec x s) fun t => s.StopsAt t c m.pc (microFault 2 m.pc)) :
      Leads (exec x s) fun t => (t.core c).micro.faulted = true ∧ (t.core c).micro.mfc = 2 ∧ (t.core c).micro.pc = m.pc ∧
        (t.core c).micro.g = m.g ∧ (t.core c).micro.v = m.v ∧ (t.core c).scratch = k.scratch ∧ t.mem = s.mem := by
    obtain ⟨t, next, micro, scratch, -, mem, -⟩ := h
    exact ⟨t, next, by rw [micro], by rw [micro]; rfl, by rw [micro], by rw [micro], by rw [micro], scratch, mem⟩
  have ld (h : s.microReady c 0x18 = true) := Micro.access_ld (m := m) (State.opc_of_ready h)
  have lw (h : s.microReady c 0x19 = true) := Micro.access_lw (m := m) (State.opc_of_ready h)
  have sd (h : s.microReady c 0x1A = true) := Micro.access_sd (m := m) (State.opc_of_ready h)
  have sw (h : s.microReady c 0x1B = true) := Micro.access_sw (m := m) (State.opc_of_ready h)
  have vld (h : s.microReady c 0x38 = true) := Micro.access_vld (m := m) (State.opc_of_ready h)
  have vst (h : s.microReady c 0x39 = true) := Micro.access_vst (m := m) (State.opc_of_ready h)
  have past (m : Micro) (w : Nat) : m.past.ea w = m.ea w := rfl
  have vpast (m : Micro) (w : Nat) : m.past.vea w = m.vea w := rfl
  have bytes (n : Nat) (m : Micro) (w : Nat) : (toLE n (m.reg (mD w))).length = n := length_toLE ..
  have vbytes (m : Micro) (w : Nat) : (m.vec (mVA w)).length = 512 := Memory.read_length ..
  refine ⟨?ld, ?lw, ?sd, ?sw, ?vld, ?vst, ?written, ?misaligned, ?waits⟩
  case ld => exact fun h low aligned => exec_ld c s ▸ leads_loadStep_own h _ past (ld h) _ low aligned
  case lw => exact fun h low aligned => exec_lw c s ▸ leads_loadStep_own h _ past (lw h) _ low aligned
  case sd => exact fun h low aligned => exec_sd c s ▸ leads_storeStep_own h _ past (sd h) (bytes 8) low aligned
  case sw => exact fun h low aligned => exec_sw c s ▸ leads_storeStep_own h _ past (sw h) (bytes 4) low aligned
  case vld => exact fun h low aligned => exec_vld c s ▸ leads_loadStep_own h _ vpast (vld h) _ low aligned
  case vst => exact fun h low aligned => exec_vst c s ▸ leads_storeStep_own h _ vpast (vst h) vbytes low aligned
  case written => exact fun a bs x => Memory.get_write bs k.scratch a x
  case misaligned =>
    intro p hp
    simp only [List.mem_cons, List.not_mem_nil, or_false] at hp
    obtain rfl | rfl | rfl | rfl | rfl | rfl := hp
    · exact fun h off => faults (exec_ld c s ▸ leads_loadStep_misaligned h _ past (ld h) _ off)
    · exact fun h off => faults (exec_lw c s ▸ leads_loadStep_misaligned h _ past (lw h) _ off)
    · exact fun h off => faults (exec_sd c s ▸ leads_storeStep_misaligned h _ past (sd h) (bytes 8) off)
    · exact fun h off => faults (exec_sw c s ▸ leads_storeStep_misaligned h _ past (sw h) (bytes 4) off)
    · exact fun h off => faults (exec_vld c s ▸ leads_loadStep_misaligned h _ vpast (vld h) _ off)
    · exact fun h off => faults (exec_vst c s ▸ leads_storeStep_misaligned h _ vpast (vst h) vbytes off)
  case waits =>
    intro p hp
    simp only [List.mem_cons, List.not_mem_nil, or_false] at hp
    obtain rfl | rfl | rfl | rfl | rfl | rfl := hp
    · exact fun h lacks => (exec_ld c s).trans (microRow_waits h _ lacks)
    · exact fun h lacks => (exec_lw c s).trans (microRow_waits h _ lacks)
    · exact fun h lacks => (exec_sd c s).trans (microRow_waits h _ lacks)
    · exact fun h lacks => (exec_sw c s).trans (microRow_waits h _ lacks)
    · exact fun h lacks => (exec_vld c s).trans (microRow_waits h _ lacks)
    · exact fun h lacks => (exec_vst c s).trans (microRow_waits h _ lacks)

end Sys2Proof.Machine
end

section
/-!
# Vector instructions of micro mode (spec/09 R239)

An element of a vector register as a number in its bytes, and the result of VOP as the list of its elements.
-/
namespace Sys2Proof.Machine

/-! ## Elements in memory -/

/-- The number that some bytes of a read spell. -/
theorem Memory.leNat_drop_take (m : Memory) (a : Nat) {k d n : Nat} (h : d + n ≤ k) :
    leNat (((Memory.read m a k).drop d).take n) = Memory.nat m (a + d) n := by
  refine congrArg leNat (List.ext_getElem (by simp; omega) fun i hi _ => ?_)
  have inside : i < n := by simp at hi; omega
  rw [List.getElem_take, List.getElem_drop, ← List.getD_eq_getElem _ 0, ← List.getD_eq_getElem _ 0,
    Memory.read_getD _ _ _ _ (by omega), Memory.read_getD _ _ _ _ inside, Nat.add_assoc]

theorem packBits_whole (n : Nat) (xs : List Nat) : packBits (8 * n) xs = xs.flatMap (toLE n) := by
  induction xs with
  | nil => rfl
  | cons x xs ih => rw [packBits_whole_cons, ih, List.flatMap_cons]

theorem length_flatMap_toLE (n : Nat) (xs : List Nat) : (xs.flatMap (toLE n)).length = xs.length * n := by
  rw [← packBits_whole, length_packBits_whole]

/-- An element of a written list of elements. -/
theorem Memory.nat_write_flatMap (m : Memory) (a n : Nat) {xs : List Nat} {j : Nat} (hj : j < xs.length) :
    Memory.nat (Memory.write m a (xs.flatMap (toLE n))) (a + n * j) n = xs.getD j 0 % 256 ^ n := by
  have elem := bitsElem_write_packBits (.inr ⟨n, rfl⟩) hj m a
  rwa [packBits_whole, bitsElem_whole, Nat.mul_comm j, Nat.pow_mul] at elem

/-! ## VOP -/

theorem etBytes_dvd (et : Nat) : etBytes et ∣ 512 := by
  unfold etBytes
  split_ifs <;> decide

theorem etBytes_fits {et i : Nat} (h : i < 512 / etBytes et) : etBytes et * i + etBytes et ≤ 512 := by
  rw [← Nat.mul_succ]
  calc etBytes et * (i + 1) ≤ etBytes et * (512 / etBytes et) := Nat.mul_le_mul_left _ h
    _ = 512 := Nat.mul_div_cancel' (etBytes_dvd et)

/-- One element of the result of VOP, from those of VA and VB and from GA. -/
def vopElem (w ga x y : Nat) : Nat :=
  if mFN w = 8 then ga else if mET w = 4 ∧ mFN w < 5 then (fpElem (mFN w) x y).1 else intElem (etBytes (mET w)) (mFN w) x y

theorem vecElems_vec (m : Micro) (et r : Nat) : vecElems (etBytes et) (m.vec r) =
    (List.range (512 / etBytes et)).map fun i => Memory.nat m.v (512 * r + etBytes et * i) (etBytes et) := by
  refine List.map_congr_left fun i hi => ?_
  exact Memory.leNat_drop_take _ _ (etBytes_fits (List.mem_range.mp hi))

/-- The elements that VOP gives. -/
def vopElems (m : Micro) (w : Nat) : List Nat :=
  let n := etBytes (mET w)
  (List.range (512 / n)).map fun i =>
    vopElem w (m.reg (mGA w)) (Memory.nat m.v (512 * mVA w + n * i) n) (Memory.nat m.v (512 * mVB w + n * i) n)

theorem vopElems_getD (m : Micro) (w : Nat) {i : Nat} (h : i < 512 / etBytes (mET w)) : (vopElems m w).getD i 0 =
    vopElem w (m.reg (mGA w)) (Memory.nat m.v (512 * mVA w + etBytes (mET w) * i) (etBytes (mET w)))
      (Memory.nat m.v (512 * mVB w + etBytes (mET w) * i) (etBytes (mET w))) := by
  simp [vopElems, h]

/-- The bytes that VOP writes. -/
def vopBytes (m : Micro) (w : Nat) : List Byte := (vopElems m w).flatMap (toLE (etBytes (mET w)))

theorem length_vopBytes (m : Micro) (w : Nat) : (vopBytes m w).length = 512 := by
  rw [vopBytes, length_flatMap_toLE, vopElems, List.length_map, List.length_range, Nat.div_mul_cancel (etBytes_dvd _)]

theorem vopResult_fst (m : Micro) (w : Nat) :
    (vopResult w (m.reg (mGA w)) (m.vec (mVA w)) (m.vec (mVB w))).1 = vopBytes m w := by
  unfold vopResult vopBytes vopElems vopElem
  dsimp only
  rw [vecElems_vec, vecElems_vec, List.zip_map']
  by_cases splat : mFN w = 8
  · simp only [splat, if_true, List.flatMap_map]
  · by_cases fp : mET w = 4 ∧ mFN w < 5
    · simp [splat, fp, show etBytes 4 = 4 from rfl, List.flatMap_map]
    · simp [splat, fp, List.flatMap_map]

/-- VOP writes its bytes into VD, and notes the status of its arithmetic. -/
theorem leads_vop {s : State} {c : Nat} (h : s.microReady c 0x3A = true) : Leads (exec (.vop c) s) fun t =>
    ∃ a : Arith, s.CoreEffect t c (Core.orArith { s.core c with
      micro := (s.core c).micro.past.setVec (mVD (s.microWord c)) (vopBytes (s.core c).micro (s.microWord c)) } a) := by
  let m := (s.core c).micro
  let w := s.microWord c
  let r := vopResult w (m.reg (mGA w)) (m.vec (mVA w)) (m.vec (mVB w))
  have written : Leads (execVop c s) fun t =>
      s.CoreEffect t c (Core.orArith { s.core c with micro := m.past.setVec (mVD w) r.1 } r.2) := by
    unfold execVop
    refine leads_modCore h "VOP" (State.counted_of_ready h (by decide) _)
      (g := fun k => Core.orArith { k with micro := k.micro.setVec (mVD w) r.1 } r.2) ?_
    rw [State.core_pastMicro]
    rfl
  obtain ⟨t, next, effect⟩ := written
  exact ⟨t, next, r.2, vopResult_fst m w ▸ effect⟩

/-! ## The statement -/

/-- Settles O53: VOP by the list of elements that it writes (`leads_vop`, `vopElems_getD`). -/
theorem microVector : Obligations.MicroVector := by
  intro s c m w
  refine ⟨?vop, ?vext, ?vins⟩
  case vop =>
    intro h
    obtain ⟨t, next, a, own, others, rest⟩ := leads_vop h
    have v : (t.core c).micro.v = Memory.write m.v (512 * mVD w) (vopBytes m w) := by rw [own]; rfl
    refine ⟨t, next, fun i hi => ?_, fun b outside => ?_, by rw [own]; rfl, by rw [own]; rfl, by rw [own]; rfl, others,
      by rw [← rest]⟩
    · rw [v, vopBytes, Memory.nat_write_flatMap _ _ _ (by simpa [vopElems] using hi), vopElems_getD m w hi]
      rfl
    · rw [v, Memory.get_write, length_vopBytes, if_neg (by omega)]
  case vext => exact fun h => show Leads (execVext c s) _ from leads_onMicro h "VEXT" (by decide) _
  case vins => exact fun h => show Leads (execVins c s) _ from leads_onMicro h "VINS" (by decide) _

end Sys2Proof.Machine
end

section
/-!
# Matrix instructions of micro mode (spec/09 R240, R244)

Each step, run on the core once past the instruction: the planes, the rows that MOPEN and MROW change, and what MRD and MRDX read.
-/
namespace Sys2Proof.Machine

/-! ## MOPEN -/

theorem Core.row_micro (k : Core) (m : Micro) (r : Nat) : ({ k with micro := m } : Core).row r = k.row r := rfl

theorem Core.elem_micro (k : Core) (m : Micro) (r j : Nat) : ({ k with micro := m } : Core).elem r j = k.elem r j := rfl

theorem Fmt.code_of_ofCode {n : Nat} {f : Fmt} (h : Fmt.ofCode n = some f) : f.code = n := by
  unfold Fmt.ofCode at h
  split at h <;> cases h <;> rfl

theorem State.code_of_matrixFmt {s : State} {n : Nat} {f : Fmt} (h : s.matrixFmt n = some f) : f.code = n := by
  unfold State.matrixFmt at h
  split at h
  · next g code =>
    split at h
    · cases h
      exact Fmt.code_of_ofCode code
    · cases h
  · cases h

/-- A legal MOPEN names a format. -/
theorem State.matrixFmt_of_ready {s : State} {c : Nat} (h : s.microReady c 0x34 = true) :
    ∃ f, s.matrixFmt (bits ((s.core c).micro.reg (mB (s.microWord c))) 20 16) = some f := by
  obtain ⟨-, word, legal⟩ := State.ready_iff.mp h
  rw [State.microLegal, word, Bool.and_eq_true] at legal
  exact Option.isSome_iff_exists.mp legal.2

/-- MOPEN opens the row, with L from GB in every element. -/
theorem leads_mopen {s : State} {c : Nat} (h : s.microReady c 0x34 = true) : let m := (s.core c).micro; let w := s.microWord c
    ∃ mode, Leads (exec (.mopen c) s) fun t => s.CoreEffect t c { Core.openRow { s.core c with micro := m.past } (m.reg (mA w) % 1024) mode
      (m.reg (mB w) / 2 ^ 16 % 32) (opAddrOf m.pc) 0 (fun _ => signed 16 (m.reg (mB w))) with
        micro := { m.past with openMode := m.reg (mB w) / 2 ^ 16 % 32 + 1 } } := by
  intro m w
  obtain ⟨f, fmt⟩ := State.matrixFmt_of_ready h
  have code : f.code = m.reg (mB w) / 2 ^ 16 % 32 := State.code_of_matrixFmt fmt
  refine ⟨(accModeOf f false).code, ?_⟩
  show Leads (execMopen c s) _
  unfold execMopen
  rw [← code]
  refine leads_modCore h "MOPEN" (State.counted_of_ready h (by decide) _) (g := fun k =>
    { k.openRow (m.reg (mA w) % 1024) (accModeOf f false).code f.code (opAddrOf m.pc) 0 (fun _ => signed 16 (m.reg (mB w))) with
      micro := { k.micro with openMode := f.code + 1 } }) ?_
  have fmt' : (s.pastMicro c).matrixFmt (bits (m.past.reg (mB w)) 20 16) = some f := fmt
  dsimp only
  rw [State.core_pastMicro]
  dsimp only
  rw [fmt', bits_zero]
  rfl

/-! ## The row of an element -/

theorem State.microStockRow_pastMicro (s : State) (c reg : Nat) :
    (s.pastMicro c).microStockRow c reg = (s.core c).micro.reg reg % 1024 := by
  rw [State.microStockRow, State.core_pastMicro]
  exact bits_zero _ 9

theorem State.row_pastMicro (s : State) (c r : Nat) : ((s.pastMicro c).core c).row r = (s.core c).row r := by
  rw [State.core_pastMicro]
  rfl

theorem State.microElem_pastMicro (s : State) (c w : Nat) : (s.pastMicro c).microElem c w =
    (s.core c).elem ((s.core c).micro.reg (mA w) % 1024) ((s.core c).micro.reg (mB w) % 128) := by
  rw [State.microElem, State.microStockRow_pastMicro, State.core_pastMicro, bits_zero]
  rfl

/-- What MRDX reads of an element of an open row. -/
theorem packFields_mrdx (e : Elem) : packFields [(16, lowBits 16 e.l), (2, e.s.code), (1, 1)] =
    (e.l % (2 ^ 16 : Int)).toNat + 2 ^ 16 * e.s.code + 2 ^ 18 := by
  have status : e.s.code < 4 := by cases e.s <;> decide
  simp only [packFields, lowBits]
  omega

section
variable {s : State} {c : Nat}

/-- MROW adds the terms of its row, where none breaches the anchor. -/
theorem leads_mrow (h : s.microReady c 0x37 = true) {f : Fmt} {n : Core} : let k := s.core c; let m := k.micro; let w := s.microWord c
    let r := m.reg (mGA w) % 1024
    (k.row r).isOpen = true → Fmt.ofCode (k.row r).fmt = some f →
    ({ k with micro := m.past } : Core).addTerms (opAddrOf m.pc) r 0 128 (List.range f.kp)
      (fun i => decodeA f (loadElem m.v f (512 * mVA w) i)) (fun i j => decodeA f (planeElem k.active f i j)) = .ok n →
    Leads (exec (.mrow c) s) fun t => s.CoreEffect t c n := by
  intro k m w r isOpen fmt terms
  show Leads (execMrow c s) _
  unfold execMrow
  refine leads_setCore h "MROW" (State.counted_of_ready h (by decide) _) ?_
  have added : ((s.pastMicro c).core c).addTerms (opAddrOf m.pc) r 0 128 (List.range f.kp)
      (fun i => decodeA f (loadElem ((s.pastMicro c).core c).micro.v f (512 * mVA w) i))
      (fun i j => decodeA f (planeElem ((s.pastMicro c).core c).active f i j)) = .ok n := by
    rw [State.core_pastMicro]
    exact terms
  dsimp only
  rw [State.microStockRow_pastMicro, State.row_pastMicro, isOpen, fmt]
  dsimp only
  rw [added]

/-- MRD reads V of an element of an open row into two registers. -/
theorem leads_mrd (h : s.microReady c 0x3D = true) : let k := s.core c; let m := k.micro; let w := s.microWord c
    let e := k.elem (m.reg (mA w) % 1024) (m.reg (mB w) % 128)
    (k.row (m.reg (mA w) % 1024)).isOpen = true → Leads (exec (.mrd c) s) fun t => s.MicroEffect t c
      ((m.past.setReg (mD w) (e.v.toNat % 2 ^ 64)).setReg (mD w + 1) (e.v.toNat / 2 ^ 64)) := by
  intro k m w e isOpen
  show Leads (execMrd c s) _
  unfold execMrd
  refine leads_modMicro h "MRD" (g := fun m => (m.setReg (mD w) (e.v.toNat % 2 ^ 64)).setReg (mD w + 1) (e.v.toNat / 2 ^ 64))
    (State.counted_of_ready h (by decide) _) ?_
  dsimp only
  rw [State.microStockRow_pastMicro, State.row_pastMicro, isOpen, State.microElem_pastMicro]
  rfl

/-- MRDX reads L, S and OPEN of an element of an open row. -/
theorem leads_mrdx (h : s.microReady c 0x3E = true) : let k := s.core c; let m := k.micro; let w := s.microWord c
    let e := k.elem (m.reg (mA w) % 1024) (m.reg (mB w) % 128)
    (k.row (m.reg (mA w) % 1024)).isOpen = true → Leads (exec (.mrdx c) s) fun t => s.MicroEffect t c
      (m.past.setReg (mD w) ((e.l % (2 ^ 16 : Int)).toNat + 2 ^ 16 * e.s.code + 2 ^ 18)) := by
  intro k m w e isOpen
  rw [← packFields_mrdx]
  show Leads (execMrdx c s) _
  unfold execMrdx
  refine leads_modMicro h "MRDX" (g := fun m => m.setReg (mD w) (packFields [(16, lowBits 16 e.l), (2, e.s.code), (1, 1)]))
    (State.counted_of_ready h (by decide) _) ?_
  dsimp only
  rw [State.microStockRow_pastMicro, State.row_pastMicro, isOpen, State.microElem_pastMicro]
  rfl

section
variable (closed : ((s.core c).row ((s.core c).micro.reg (mA (s.microWord c)) % 1024)).isOpen = false)
include closed

/-- MRD of a closed row faults. -/
theorem leads_mrd_closed (h : s.microReady c 0x3D = true) : Leads (exec (.mrd c) s) fun t => s.StopsAt t c (s.core c).micro.pc
    (((s.pastMicro c).core c).potMicro (s.core c).micro.pc ((s.core c).micro.reg (mA (s.microWord c)) % 1024)) := by
  show Leads (execMrd c s) _
  unfold execMrd
  refine leads_fault h "MRD" (State.counted_of_ready h (by decide) _) ?_
  dsimp only
  rw [State.microStockRow_pastMicro, State.row_pastMicro, closed]
  rfl

/-- MRDX of a closed row faults. -/
theorem leads_mrdx_closed (h : s.microReady c 0x3E = true) : Leads (exec (.mrdx c) s) fun t => s.StopsAt t c (s.core c).micro.pc
    (((s.pastMicro c).core c).potMicro (s.core c).micro.pc ((s.core c).micro.reg (mA (s.microWord c)) % 1024)) := by
  show Leads (execMrdx c s) _
  unfold execMrdx
  refine leads_fault h "MRDX" (State.counted_of_ready h (by decide) _) ?_
  dsimp only
  rw [State.microStockRow_pastMicro, State.row_pastMicro, closed]
  rfl

end

/-! ## The weight planes -/

/-- MWLD puts VA into the shadow plane as its next beat. -/
theorem leads_mwld (h : s.microReady c 0x35 = true) (room : (s.core c).micro.shadowBeats < (s.core c).micro.planeBeats) :
    Leads (exec (.mwld c) s) fun t => s.CoreEffect t c { s.core c with
      shadow := putBeat (s.core c).shadow (s.core c).micro.shadowBeats ((s.core c).micro.vec (mVA (s.microWord c)))
      micro := { (s.core c).micro.past with shadowBeats := (s.core c).micro.shadowBeats + 1 } } := by
  have fits : ¬ (s.core c).micro.past.planeBeats ≤ (s.core c).micro.past.shadowBeats := Nat.not_le.mpr room
  show Leads (execMwld c s) _
  unfold execMwld
  refine leads_modCore h "MWLD" (State.counted_of_ready h (by decide) _) (g := fun k => { k with
    shadow := putBeat k.shadow (s.core c).micro.shadowBeats ((s.core c).micro.vec (mVA (s.microWord c)))
    micro := { k.micro with shadowBeats := (s.core c).micro.shadowBeats + 1 } }) ?_
  dsimp only
  rw [State.core_pastMicro, if_neg fits]
  rfl

/-- MSWAP exchanges the planes. -/
theorem leads_mswap (h : s.microReady c 0x36 = true) : Leads (exec (.mswap c) s) fun t => s.CoreEffect t c { s.core c with
    active := (s.core c).shadow, shadow := (s.core c).active, micro := { (s.core c).micro.past with shadowBeats := 0 } } := by
  show Leads (execMswap c s) _
  unfold execMswap
  exact leads_modCore h "MSWAP" (State.counted_of_ready h (by decide) _) (g := fun k => { k with
    active := k.shadow, shadow := k.active, micro := { k.micro with shadowBeats := 0 } }) rfl

end

/-! ## The statement -/

/-- Settles O54: each instruction by its lemma; what MOPEN leaves of the rows by `Core.row_openRow` and `Core.elem_openRow`. -/
theorem microMatrix : Obligations.MicroMatrix := by
  intro s c k m w a b
  refine ⟨?mopen, leads_mwld, leads_mswap, fun f n h => leads_mrow h, leads_mrd, leads_mrdx, ?closed⟩
  case mopen =>
    intro h
    obtain ⟨mode, t, next, effect⟩ := leads_mopen h
    have own := effect.1
    have row (r : Nat) : (t.core c).row r = if r = a % 1024 then ⟨true, mode, b / 2 ^ 16 % 32, opAddrOf m.pc, 0⟩ else k.row r := by
      rw [own, Core.row_micro, Core.row_openRow, Core.row_micro]
    have elem (r j : Nat) (hj : j < 128) : (t.core c).elem r j = if r = a % 1024 then openElem (signed 16 b) else k.elem r j := by
      rw [own, Core.elem_micro, Core.elem_openRow _ _ _ _ _ _ _ hj, Core.elem_micro]
    refine ⟨t, next, by rwa [effect.1], ?isOpen, ?format, ?opened, ?others, ?scratch, ?g⟩
    case isOpen => rw [row, if_pos rfl]
    case format => rw [row, if_pos rfl]
    case opened =>
      intro j hj
      rw [elem _ _ hj, if_pos rfl]
      rfl
    case others => exact fun r hr => ⟨by rw [row, if_neg hr], fun j hj => by rw [elem _ _ hj, if_neg hr]⟩
    case scratch => rw [own, Core.openRow_eq]
    case g =>
      rw [own]
      rfl
  case closed =>
    have faults {x : Instr} {e : MFault} (mfc : e.mfc = 8) (h : Leads (exec x s) fun t => s.StopsAt t c m.pc e) :
        Leads (exec x s) fun t => (t.core c).micro.faulted = true ∧ (t.core c).micro.mfc = 8 ∧ (t.core c).micro.pc = m.pc ∧
          (t.core c).micro.g = m.g := by
      obtain ⟨t, next, micro, -⟩ := h
      exact ⟨t, next, by rw [micro], by rw [micro]; exact mfc, by rw [micro], by rw [micro]⟩
    intro p hp
    simp only [List.mem_cons, List.not_mem_nil, or_false] at hp
    obtain rfl | rfl := hp
    · exact fun h closed => faults rfl (leads_mrd_closed closed h)
    · exact fun h closed => faults rfl (leads_mrdx_closed closed h)

end Sys2Proof.Machine
end
